-- ==== Sys2Proof/Word.lean ====
section
/-! DEFINITION. The word types of the machine (R3, R5): a 64-bit register value, a byte, a 32-bit instruction word,
a 48-bit code address, and the small codes that name registers. -/
namespace Sys2Proof

/-- A general-register or system-register value. -/
abbrev Word := BitVec 64

/-- One byte of storage. -/
abbrev Byte := BitVec 8

/-- One instruction word (R195). -/
abbrev Code := BitVec 32

/-- The number of a general register (R196). -/
abbrev Reg := BitVec 6

end Sys2Proof
end

