-- ==== Sys2Proof/Syntax.lean ====
section
/-! DEFINITION. The instruction syntax: one constructor per row of the opcode table (R204 to R218), the encoded
instructions first, then the four register-write operations and the events of the device, each with its parameters; those without a
parameter stand last.
A field keeps the letter and the width the table gives it; a one-bit field is a Bool. -/
namespace Sys2Proof

/-- The delivery mode of a packet (R347): reliable ordered, reliable unordered, or one the device does not support. -/
inductive Delivery where
  | ordered
  | unordered
  | other
  deriving DecidableEq, Repr

/-- One packet that reaches a port: what the events of the Ethernet endpoints carry (R347, R348, R354). -/
structure Packet where
  port    : Nat
  jobid   : Nat
  source  : BitVec 128
  dest    : BitVec 128
  mode    : Delivery
  key     : Nat
  offset  : Nat
  size    : Nat
  data    : List (BitVec 8)
  deriving DecidableEq, Repr

/-- What a pick meets: parity errors, as locator and register (R86); the lines its core fetches with what they meet, as locator
and code (R109, R116); the candidates that reads made at an issue take, as location and write (R176); soft errors of those accesses,
as location and code (R116). -/
structure PickMeets where
  parity  : List (Nat × Nat)
  fetches : List (Nat × Nat)
  reads   : List (Nat × Nat)
  softs   : List (Nat × Nat)
  deriving DecidableEq, Repr

/-- What an access meets: the candidates it takes (R176), and soft errors, as location and code (R116). -/
structure AccessMeets where
  picks : List (Nat × Nat)
  softs : List (Nat × Nat)
  deriving DecidableEq, Repr

/-- A load's read move: the soft errors it meets, and which of its single-copy-atomic accesses it makes, all of them where none is
named (R116, R178). -/
structure LoadMeets where
  softs : List (Nat × Nat)
  only  : Option Nat
  deriving DecidableEq, Repr

/-- A buffered store or an operand by its identifier, or a trap by its thread, with the soft errors its writes meet (R116). -/
structure DrainMeets where
  id    : Nat
  softs : List (Nat × Nat)
  deriving DecidableEq, Repr

/-- The thread, the entry or the ring that is read for, with the candidates taken and the soft errors met (R116, R176). -/
structure ReadMeets where
  of    : Nat
  picks : List (Nat × Nat)
  softs : List (Nat × Nat)
  deriving DecidableEq, Repr

/-- The address of a walk, with the soft errors its reads meet (R116, R146). -/
structure WalkMeets where
  va    : Nat
  softs : List (Nat × Nat)
  deriving DecidableEq, Repr

/-- A peer's read, with the candidates it takes and the soft errors it meets (R116, R188). -/
structure PeerRead where
  pkt   : Packet
  picks : List (Nat × Nat)
  softs : List (Nat × Nat)
  deriving DecidableEq, Repr

/-- A peer's write, with the soft errors it meets (R116, R188). -/
structure PeerWrite where
  pkt   : Packet
  softs : List (Nat × Nat)
  deriving DecidableEq, Repr

/-- For whom a slice asks for a line (R111, R113): an access of a thread that waits for it, or the access by an address of an engine command, of
a delivery of the sluice, or of a thread for its fetch, its frame, a scale byte or a walk of the page tables. -/
inductive Asker where
  | access
  | command (id va : Nat)
  | delivery (id va : Nat)
  | thread (loc va : Nat)
  deriving DecidableEq, Repr

/-- A line and for whom a slice asks for it. -/
structure LineAsk where
  line  : Nat
  asker : Asker
  deriving DecidableEq, Repr

/-- What a command meets in one of its moves: the code of an error of the row's stores and the soft errors of its accesses (R116), and in
how many of its single-copy-atomic accesses it is performed at a time, 0 for all of them (R178). -/
structure CommandMeets where
  soft  : Nat
  softs : List (Nat × Nat)
  units : Nat
  deriving DecidableEq, Repr

/-- The instructions and events of the machine. -/
inductive Instr where
  | add (w : Bool) (d a b : BitVec 6) (t u : Bool)   -- R227
  | sub (w : Bool) (d a b : BitVec 6) (t u : Bool)   -- R227
  | mul (w : Bool) (d a b : BitVec 6) (t u : Bool)   -- R227
  | mulh (w : Bool) (d a b : BitVec 6) (t u : Bool)   -- R227
  | mulhn (w : Bool) (d a b : BitVec 6) (t u : Bool)   -- R227
  | div (w : Bool) (d a b : BitVec 6) (t u : Bool)   -- R227
  | divn (w : Bool) (d a b : BitVec 6) (t u : Bool)   -- R227
  | rem (w : Bool) (d a b : BitVec 6) (t u : Bool)   -- R227
  | remn (w : Bool) (d a b : BitVec 6) (t u : Bool)   -- R227
  | and (w : Bool) (d a b : BitVec 6) (t u : Bool)   -- R227
  | or (w : Bool) (d a b : BitVec 6) (t u : Bool)   -- R227
  | xor (w : Bool) (d a b : BitVec 6) (t u : Bool)   -- R227
  | andn (w : Bool) (d a b : BitVec 6) (t u : Bool)   -- R227
  | orn (w : Bool) (d a b : BitVec 6) (t u : Bool)   -- R227
  | shl (w : Bool) (d a b : BitVec 6) (t u : Bool)   -- R227
  | shr (w : Bool) (d a b : BitVec 6) (t u : Bool)   -- R227
  | sra (w : Bool) (d a b : BitVec 6) (t u : Bool)   -- R227
  | rot (w : Bool) (d a b : BitVec 6) (t u : Bool)   -- R227
  | min (w : Bool) (d a b : BitVec 6) (t u : Bool)   -- R227
  | minn (w : Bool) (d a b : BitVec 6) (t u : Bool)   -- R227
  | max (w : Bool) (d a b : BitVec 6) (t u : Bool)   -- R227
  | maxn (w : Bool) (d a b : BitVec 6) (t u : Bool)   -- R227
  | clz (w : Bool) (d a : BitVec 6) (t : Bool)   -- R227
  | ctz (w : Bool) (d a : BitVec 6) (t : Bool)   -- R227
  | popc (w : Bool) (d a : BitVec 6) (t : Bool)   -- R227
  | brev (w : Bool) (d a : BitVec 6) (t : Bool)   -- R227
  | bswap (w : Bool) (d a : BitVec 6) (t : Bool)   -- R227
  | sext (d a : BitVec 6) (z : BitVec 2) (t : Bool)   -- R227
  | zext (d a : BitVec 6) (z : BitVec 2) (t : Bool)   -- R227
  | cmp (c p : BitVec 3) (a b : BitVec 6) (t u : Bool)   -- R231
  | cmpW (c p : BitVec 3) (a b : BitVec 6) (t u : Bool)   -- R231
  | pand (d a b : BitVec 3)   -- R232
  | por (d a b : BitVec 3)   -- R232
  | pxor (d a b : BitVec 3)   -- R232
  | pnot (d a : BitVec 3)   -- R232
  | movpToPred (d : BitVec 3) (a : BitVec 6) (t : Bool)   -- R232
  | movpToGpr (d : BitVec 6) (a : BitVec 3)   -- R232
  | sel (d a b : BitVec 6) (t u : Bool) (k : BitVec 3)   -- R232
  | addp (d a b : BitVec 6) (t u : Bool)   -- R233
  | setf (d a b : BitVec 6) (t u : Bool)   -- R233
  | getf (d a : BitVec 6) (t : Bool)   -- R233
  | settag (d a b : BitVec 6) (t u : Bool)   -- R233
  | gettag (d a : BitVec 6) (t : Bool)   -- R233
  | addpImm (d a : BitVec 6) (t : Bool) (i : BitVec 12)   -- R233
  | li (d : BitVec 6) (i : BitVec 19)   -- R230
  | lic (d : BitVec 6) (i : BitVec 19)   -- R230
  | cmpi (c p : BitVec 3) (a : BitVec 6) (t : Bool) (i : BitVec 12)   -- R231
  | addImm (d a : BitVec 6) (t : Bool) (i : BitVec 12)   -- R228
  | andImm (d a : BitVec 6) (t : Bool) (i : BitVec 12)   -- R228
  | orImm (d a : BitVec 6) (t : Bool) (i : BitVec 12)   -- R228
  | xorImm (d a : BitVec 6) (t : Bool) (i : BitVec 12)   -- R228
  | shlImm (d a : BitVec 6) (t : Bool) (k : BitVec 6)   -- R228
  | shrImm (d a : BitVec 6) (t : Bool) (k : BitVec 6)   -- R228
  | sraImm (d a : BitVec 6) (t : Bool) (k : BitVec 6)   -- R228
  | rotImm (d a : BitVec 6) (t : Bool) (k : BitVec 6)   -- R228
  | bfx (d a : BitVec 6) (t : Bool) (p l : BitVec 6)   -- R229
  | bfi (d a : BitVec 6) (t : Bool) (p l : BitVec 6)   -- R229
  | bp (p : BitVec 3) (n : Bool) (o : BitVec 21)   -- R237
  | call (o : BitVec 21)   -- R240
  | pbr (k : BitVec 3) (i : BitVec 19)   -- R238
  | jb (k : BitVec 3)   -- R239
  | jbp (n : Bool) (j k : BitVec 3)   -- R239
  | callb (k : BitVec 3)   -- R240
  | pbt (k : BitVec 3) (a : BitVec 6) (t : Bool)   -- R238
  | rejoin (n : BitVec 8)   -- R244
  | trap (c : BitVec 12)   -- R249
  | ecall (c : BitVec 12)   -- R249
  | rpt (c : BitVec 6) (d a b : BitVec 2)   -- R219
  | fadd (d a b : BitVec 6) (t u : Bool) (w : BitVec 2) (m : BitVec 3)   -- R254
  | fsub (d a b : BitVec 6) (t u : Bool) (w : BitVec 2) (m : BitVec 3)   -- R254
  | fmul (d a b : BitVec 6) (t u : Bool) (w : BitVec 2) (m : BitVec 3)   -- R254
  | fdiv (d a b : BitVec 6) (t u : Bool) (w : BitVec 2) (m : BitVec 3)   -- R254
  | fma (d a b : BitVec 6) (t u : Bool) (w : BitVec 2) (m : BitVec 3)   -- R255
  | fms (d a b : BitVec 6) (t u : Bool) (w : BitVec 2) (m : BitVec 3)   -- R255
  | fnma (d a b : BitVec 6) (t u : Bool) (w : BitVec 2) (m : BitVec 3)   -- R255
  | fsqrt (d a : BitVec 6) (t : Bool) (w : BitVec 2) (m : BitVec 3)   -- R256
  | frcp (d a : BitVec 6) (t : Bool) (w : BitVec 2) (m : BitVec 3)   -- R256
  | frsq (d a : BitVec 6) (t : Bool) (w : BitVec 2) (m : BitVec 3)   -- R256
  | fex2 (d a : BitVec 6) (t : Bool) (w : BitVec 2) (m : BitVec 3)   -- R256
  | flg2 (d a : BitVec 6) (t : Bool) (w : BitVec 2) (m : BitVec 3)   -- R256
  | fsin (d a : BitVec 6) (t : Bool) (w : BitVec 2) (m : BitVec 3)   -- R256
  | fcos (d a : BitVec 6) (t : Bool) (w : BitVec 2) (m : BitVec 3)   -- R256
  | fcvt (d a : BitVec 6) (s : BitVec 2) (t : Bool) (w : BitVec 2) (m : BitVec 3)   -- R257
  | fcvti (d a : BitVec 6) (i : BitVec 3) (t : Bool) (w : BitVec 2) (m : BitVec 3)   -- R258
  | ficvt (d a : BitVec 6) (i : BitVec 3) (t : Bool) (w : BitVec 2) (m : BitVec 3)   -- R259
  | fmin (d a b : BitVec 6) (t u : Bool) (w : BitVec 2)   -- R260
  | fmax (d a b : BitVec 6) (t u : Bool) (w : BitVec 2)   -- R260
  | fneg (d a : BitVec 6) (t : Bool) (w : BitVec 2)   -- R261
  | fcmp (c p : BitVec 3) (a b : BitVec 6) (t u : Bool) (w : BitVec 2)   -- R262
  | fclass (d a : BitVec 6) (t : Bool) (w : BitVec 2)   -- R263
  | padd (d a b : BitVec 6) (t u : Bool) (l : BitVec 2)   -- R265
  | psub (d a b : BitVec 6) (t u : Bool) (l : BitVec 2)   -- R265
  | pmul (d a b : BitVec 6) (t u : Bool) (l : BitVec 2)   -- R265
  | pmin (d a b : BitVec 6) (t u : Bool) (l : BitVec 2)   -- R265
  | pmax (d a b : BitVec 6) (t u : Bool) (l : BitVec 2)   -- R265
  | pdot4 (d a b : BitVec 6) (t u : Bool)   -- R265
  | pfadd (d a b : BitVec 6) (t u : Bool) (l : BitVec 2)   -- R266
  | pfmul (d a b : BitVec 6) (t u : Bool) (l : BitVec 2)   -- R266
  | pfma (d a b : BitVec 6) (t u : Bool) (l : BitVec 2)   -- R266
  | pshuf (d a b : BitVec 6) (t u v : Bool)   -- R267
  | ppack (d a b : BitVec 6) (t u : Bool) (v : BitVec 2)   -- R268
  | punpk (d a : BitVec 6) (t : Bool) (v : BitVec 2)   -- R269
  | pfcvt (d a b : BitVec 6) (t u : Bool) (k : BitVec 2)   -- R270
  | bxd (d a b : BitVec 6) (t u : Bool) (k : BitVec 2)   -- R271
  | mfs (d : BitVec 6) (n : BitVec 12)   -- R292
  | mts (a : BitVec 6) (t : Bool) (n : BitVec 12)   -- R292
  | fence (o : BitVec 5)   -- R283
  | qfence (m : BitVec 5)   -- R284
  | cwb (a b : BitVec 6) (t u : Bool)   -- R285
  | cinv (a b : BitVec 6) (t u : Bool)   -- R285
  | icinv (a b : BitVec 6) (t u : Bool)   -- R285
  | arrive (s : BitVec 3) (a b : BitVec 6) (t u : Bool)   -- R288
  | barc (a : BitVec 6) (t : Bool)   -- R289
  | muster (d : BitVec 6)   -- R290
  | ldb (d a : BitVec 6) (k : BitVec 4) (t : Bool) (y : BitVec 3)   -- R278
  | stb (s a : BitVec 6) (k : BitVec 4) (t : Bool) (w : BitVec 2)   -- R278
  | mkd (k : BitVec 4) (a b : BitVec 6) (t u : Bool)   -- R276
  | dnar (k : BitVec 4) (a b : BitVec 6) (t u : Bool)   -- R277
  | stn (s a : BitVec 6) (t : Bool) (f : BitVec 5)   -- R281
  | stg (a b : BitVec 6) (t u : Bool)   -- R234
  | ldg (d a : BitVec 6) (t : Bool)   -- R235
  | rtag (d a b : BitVec 6) (t u : Bool)   -- R236
  | mfe (d : BitVec 6) (k : BitVec 4)   -- R293
  | mte (k : BitVec 4) (a : BitVec 6) (t : Bool)   -- R293
  | spawn (d a b : BitVec 6) (t u : Bool)   -- R246
  | spawnCl (d a b : BitVec 6) (t u : Bool)   -- R246
  | taga (d a b : BitVec 6) (t u : Bool)   -- R327
  | tagf (a b : BitVec 6) (t u : Bool)   -- R328
  | qstat (d : BitVec 6) (q : BitVec 3)   -- R329
  | unpark (d a : BitVec 6) (t : Bool)   -- R295
  | kill (a : BitVec 6) (t : Bool)   -- R296
  | reclaim (a b : BitVec 6) (t u : Bool)   -- R297
  | cinvT (a b : BitVec 6) (t u : Bool)   -- R298
  | lsub (d a : BitVec 6) (t : Bool)   -- R299
  | lprq (d a : BitVec 6) (t : Bool)   -- R300
  | stop (d a : BitVec 6) (t : Bool)   -- R301
  | lres (d a : BitVec 6) (t : Bool)   -- R302
  | cpy (a b : BitVec 6) (t u q : Bool)   -- R309
  | qnt (a b : BitVec 6) (t u q : Bool)   -- R312
  | gath (a b : BitVec 6) (t u : Bool)   -- R310
  | scat (a b : BitVec 6) (t u : Bool)   -- R310
  | slsend (a b : BitVec 6) (t u : Bool)   -- R324
  | tclm (a : BitVec 6) (t : Bool)   -- R315
  | tld (a b : BitVec 6) (t u : Bool)   -- R316
  | trel (a : BitVec 6) (t : Bool)   -- R315
  | aclr (a : BitVec 6) (t : Bool)   -- R323
  | acst (a b : BitVec 6) (t u : Bool)   -- R323
  | acld (a b : BitVec 6) (t u : Bool)   -- R323
  | mma (a b : BitVec 6) (t u : Bool) (c : BitVec 4) (x h : Bool)   -- R317
  | ld (p : BitVec 3) (d a : BitVec 6) (t : Bool) (w : BitVec 2) (k : BitVec 9)   -- R274
  | ldn (p : BitVec 3) (d a : BitVec 6) (t : Bool) (w : BitVec 2) (k : BitVec 9)   -- R274
  | st (p : BitVec 3) (s a : BitVec 6) (t u : Bool) (w : BitVec 2) (k : BitVec 9)   -- R274
  | ordLd (p : BitVec 3) (d a : BitVec 6) (w : BitVec 2) (t : Bool) (o : BitVec 5)   -- R275
  | ordLdn (p : BitVec 3) (d a : BitVec 6) (w : BitVec 2) (t : Bool) (o : BitVec 5)   -- R275
  | ordSt (p : BitVec 3) (s a : BitVec 6) (w : BitVec 2) (t : Bool) (o : BitVec 5)   -- R275
  | amoAdd (p : BitVec 3) (d a : BitVec 6) (w t : Bool) (f : BitVec 5)   -- R282
  | amoMin (p : BitVec 3) (d a : BitVec 6) (w t : Bool) (f : BitVec 5)   -- R282
  | amoMax (p : BitVec 3) (d a : BitVec 6) (w t : Bool) (f : BitVec 5)   -- R282
  | amoMinn (p : BitVec 3) (d a : BitVec 6) (w t : Bool) (f : BitVec 5)   -- R282
  | amoMaxn (p : BitVec 3) (d a : BitVec 6) (w t : Bool) (f : BitVec 5)   -- R282
  | amoAnd (p : BitVec 3) (d a : BitVec 6) (w t : Bool) (f : BitVec 5)   -- R282
  | amoOr (p : BitVec 3) (d a : BitVec 6) (w t : Bool) (f : BitVec 5)   -- R282
  | amoXor (p : BitVec 3) (d a : BitVec 6) (w t : Bool) (f : BitVec 5)   -- R282
  | amoXchg (p : BitVec 3) (d a : BitVec 6) (w t : Bool) (f : BitVec 5)   -- R282
  | amoFaddS (p : BitVec 3) (d a : BitVec 6) (t : Bool) (f : BitVec 5)   -- R282
  | amoFaddBf (p : BitVec 3) (d a : BitVec 6) (t : Bool) (f : BitVec 5)   -- R282
  | cas (p : BitVec 3) (d : BitVec 5) (a : BitVec 6) (w t : Bool) (f : BitVec 5)   -- R282
  | ldx (p : BitVec 3) (d a b : BitVec 6) (t u : Bool)   -- R279
  | stx (p : BitVec 3) (s a b : BitVec 6) (t u : Bool)   -- R280
  | waita (k : BitVec 3) (d a b : BitVec 6) (t u : Bool) (f : BitVec 5)   -- R287
  | waitge (k : BitVec 3) (d a b : BitVec 6) (t u : Bool) (f : BitVec 5)   -- R287
  | sMergeWrite (v : BitVec 64)   -- R25
  | sAlcoveWrite (v : BitVec 64)   -- R74
  | sStatusWrite (v : BitVec 64)   -- R72
  | systemRegisterWrite (n : BitVec 12) (v : BitVec 64)   -- R292
  | issuePick (core : Nat) (portM : Bool) (meets : PickMeets)   -- R23
  | wideMergePick (core : Nat) (portM : Bool) (meets : PickMeets)   -- R24
  | lingerTimeout (loc : Nat)   -- R28
  | lingerMeet (loc : Nat)   -- R28
  | storeCheckReturn (loc : ReadMeets)   -- R104
  | pageWalk (die part asid : Nat) (va : WalkMeets)   -- R146
  | producerReply (loc entry : Nat)   -- R81
  | atomicPerform (loc entry : Nat) (meets : AccessMeets)   -- R183
  | faultReply (loc entry : Nat)   -- R137
  | poisonReply (loc entry : Nat)   -- R114
  | storeDrain (loc : Nat) (store : DrainMeets)   -- R179
  | ntStoreDrain (loc : Nat) (store : DrainMeets)   -- R184
  | loadReadMove (loc entry : Nat) (picks : List (Nat × Nat)) (meets : LoadMeets)   -- R180
  | waitWake (loc entry : Nat) (meets : AccessMeets)   -- R287
  | waitTimeout (loc : Nat) (entry : ReadMeets)   -- R287
  | guardReadReturn (loc : Nat) (meets : AccessMeets)   -- R122
  | trapEntry (loc : DrainMeets)   -- R82
  | gangFormation (row : Nat)   -- R36
  | gangCommandEntry (row gang : Nat) (meets : AccessMeets)   -- R311
  | barrierCompletion (group : Nat)   -- R289
  | engineCommandStart (id : Nat)   -- R121
  | engineCommandPerformed (id : Nat) (picks : List (Nat × Nat)) (meets : CommandMeets)   -- R121
  | tagAllocation (loc entry : Nat)   -- R156
  | sluiceArrival (id : DrainMeets)   -- R159
  | sluiceOrphanExpiry (id : DrainMeets)   -- R159
  | spawnMessageArrival (id : Nat)   -- R127
  | inboxHeadStart (core : Nat)   -- R128
  | groupPlacement (part : Nat)   -- R30
  | quitComplete (loc : Nat)   -- R35
  | quiescenceReport (group : Nat)   -- R164
  | queueRecordAppend (part queue : Nat)   -- R131
  | deadlineExpiry (group : Nat)   -- R168
  | groupSave (group : Nat)   -- R39
  | yieldSave (loc : Nat)   -- R40
  | groupRestore (group : Nat)   -- R42
  | homeReadMiss (die : Nat) (line : LineAsk)   -- R111
  | homeUpgrade (die : Nat) (line : LineAsk)   -- R111
  | homeEviction (die line : Nat)   -- R111
  | homeNoncacheableAccess (line : Nat)   -- R111
  | homeAcknowledgement (die line : Nat)   -- R113
  | atomicRecallWaitExpiry (die line : Nat)   -- R112
  | sharerTimeout (die line : Nat)   -- R113
  | recallTimeout (die line : Nat)   -- R113
  | errorInvalidateResend (die line : Nat)   -- R113
  | errorInvalidateReceipt (die line : Nat)   -- R113
  | errorInvalidateAck (die line : Nat)   -- R113
  | sliceRequestTimeout (die line : Nat)   -- R113
  | counterSnapshot (part core : Nat)   -- R171
  | hostSend (pkt : Packet)   -- R141
  | rmaWrite (write : PeerWrite)   -- R354
  | rmaRead (read : PeerRead)   -- R354
  | unsupportedOperation (pkt : Packet)   -- R347
  | packetDrop (pkt : Packet)   -- R348
  | outboundEntryStart (part : ReadMeets)   -- R355
  | outboundCompletion (part index code : Nat) (data : List (BitVec 8))   -- R355
  | outboundRetryLimit (part index : Nat)   -- R355
  | mailboxGrantCellar (part : Nat)   -- R356
  | mailboxWithdrawCellar (part : Nat)   -- R356
  | mailboxSetCarveOut (part : Nat)   -- R93
  | mailboxQuote (part : Nat)   -- R358
  | partitionDestroy (part : Nat)   -- R351
  | signedFirmwareUpdate (port : Nat) (image : List (BitVec 8))   -- R357
  | mailboxBadRequest (part : Nat)   -- R356
  | nop   -- R245
  | ret   -- R241
  | quit   -- R242
  | yield   -- R243
  | tret   -- R250
  | ifence   -- R286
  | drain   -- R281
  | bar   -- R289
  | disband   -- R291
  | moduleReset   -- R357
  | thermalThrottle   -- R360
  | overtempReset   -- R360
  | deviceClockTick   -- R169
  | thermalConditionClears   -- R360
  deriving DecidableEq, Repr

end Sys2Proof
end

