-- ==== Sys2Proof/WellFormed.lean ====
section
/-! DEFINITION. Which field values an encoded instruction admits (R199 to R218, R222 step 2): the code fields exclude
some values, and a word that holds one of them is not an instruction. Operands that depend on state are checked at
execution and not here. -/
namespace Sys2Proof

/-- Rounding-mode codes 0 to 4 and 7 are assigned; 5 and 6 are reserved (R52). -/
def roundOk (m : BitVec 3) : Bool := m != 5#3 && m != 6#3

/-- An order/scope code is 6 x order + scope with scope 0 to 5 (R202); the order must be one the form accepts. -/
def orderIn (o : BitVec 5) (orders : List Nat) : Bool := decide (o.toNat ≤ 29) && orders.contains (o.toNat / 6)

/-- A term of the syntax that some word encodes, or an event. -/
def Instr.wf : Instr → Bool
  | .add _ _ _ _ _ _ => true
  | .sub _ _ _ _ _ _ => true
  | .mul _ _ _ _ _ _ => true
  | .mulh _ _ _ _ _ _ => true
  | .mulhn _ _ _ _ _ _ => true
  | .div _ _ _ _ _ _ => true
  | .divn _ _ _ _ _ _ => true
  | .rem _ _ _ _ _ _ => true
  | .remn _ _ _ _ _ _ => true
  | .and _ _ _ _ _ _ => true
  | .or _ _ _ _ _ _ => true
  | .xor _ _ _ _ _ _ => true
  | .andn _ _ _ _ _ _ => true
  | .orn _ _ _ _ _ _ => true
  | .shl _ _ _ _ _ _ => true
  | .shr _ _ _ _ _ _ => true
  | .sra _ _ _ _ _ _ => true
  | .rot _ _ _ _ _ _ => true
  | .min _ _ _ _ _ _ => true
  | .minn _ _ _ _ _ _ => true
  | .max _ _ _ _ _ _ => true
  | .maxn _ _ _ _ _ _ => true
  | .clz _ _ _ _ => true
  | .ctz _ _ _ _ => true
  | .popc _ _ _ _ => true
  | .brev _ _ _ _ => true
  | .bswap _ _ _ _ => true
  | .sext _ _ z _ => z != 3#2
  | .zext _ _ z _ => z != 3#2
  | .cmp c _ _ _ _ _ => c.ule 5#3
  | .cmpW c _ _ _ _ _ => c.ule 5#3
  | .pand _ _ _ => true
  | .por _ _ _ => true
  | .pxor _ _ _ => true
  | .pnot _ _ => true
  | .movpToPred _ _ _ => true
  | .movpToGpr _ _ => true
  | .sel _ _ _ _ _ _ => true
  | .addp _ _ _ _ _ => true
  | .setf _ _ _ _ _ => true
  | .getf _ _ _ => true
  | .settag _ _ _ _ _ => true
  | .gettag _ _ _ => true
  | .addpImm _ _ _ _ => true
  | .li _ _ => true
  | .lic _ _ => true
  | .cmpi c _ _ _ _ => c.ule 5#3
  | .addImm _ _ _ _ => true
  | .andImm _ _ _ _ => true
  | .orImm _ _ _ _ => true
  | .xorImm _ _ _ _ => true
  | .shlImm _ _ _ _ => true
  | .shrImm _ _ _ _ => true
  | .sraImm _ _ _ _ => true
  | .rotImm _ _ _ _ => true
  | .bfx _ _ _ p l => decide (p.toNat + l.toNat + 1 ≤ 64)
  | .bfi _ _ _ p l => decide (p.toNat + l.toNat + 1 ≤ 64)
  | .bp _ _ _ => true
  | .call _ => true
  | .pbr _ _ => true
  | .nop => true
  | .jb _ => true
  | .jbp _ _ _ => true
  | .callb _ => true
  | .ret => true
  | .pbt _ _ _ => true
  | .quit => true
  | .yield => true
  | .rejoin _ => true
  | .trap _ => true
  | .ecall _ => true
  | .tret => true
  | .rpt _ _ _ _ => true
  | .fadd _ _ _ _ _ _ m => roundOk m
  | .fsub _ _ _ _ _ _ m => roundOk m
  | .fmul _ _ _ _ _ _ m => roundOk m
  | .fdiv _ _ _ _ _ _ m => roundOk m
  | .fma _ _ _ _ _ _ m => roundOk m
  | .fms _ _ _ _ _ _ m => roundOk m
  | .fnma _ _ _ _ _ _ m => roundOk m
  | .fsqrt _ _ _ _ m => roundOk m
  | .frcp _ _ _ _ m => roundOk m
  | .frsq _ _ _ _ m => roundOk m
  | .fex2 _ _ _ _ m => roundOk m
  | .flg2 _ _ _ _ m => roundOk m
  | .fsin _ _ _ _ m => roundOk m
  | .fcos _ _ _ _ m => roundOk m
  | .fcvt _ _ _ _ _ m => roundOk m
  | .fcvti _ _ _ _ _ m => roundOk m
  | .ficvt _ _ _ _ _ m => roundOk m
  | .fmin _ _ _ _ _ _ => true
  | .fmax _ _ _ _ _ _ => true
  | .fneg _ _ _ _ => true
  | .fcmp c _ _ _ _ _ _ => c.ule 4#3
  | .fclass _ _ _ _ => true
  | .padd _ _ _ _ _ l => l != 3#2
  | .psub _ _ _ _ _ l => l != 3#2
  | .pmul _ _ _ _ _ l => l != 3#2
  | .pmin _ _ _ _ _ l => l != 3#2
  | .pmax _ _ _ _ _ l => l != 3#2
  | .pdot4 _ _ _ _ _ => true
  | .pfadd _ _ _ _ _ l => l != 3#2
  | .pfmul _ _ _ _ _ l => l != 3#2
  | .pfma _ _ _ _ _ l => l != 3#2
  | .pshuf _ _ _ _ _ _ => true
  | .ppack _ _ _ _ _ v => v != 3#2
  | .punpk _ _ _ _ => true
  | .pfcvt _ _ _ _ _ _ => true
  | .bxd _ _ _ _ _ _ => true
  | .mfs _ _ => true
  | .mts _ _ _ => true
  | .fence o => o.ule 29#5
  | .qfence _ => true
  | .cwb _ _ _ _ => true
  | .cinv _ _ _ _ => true
  | .icinv _ _ _ _ => true
  | .ifence => true
  | .drain => true
  | .arrive s _ _ _ _ => (s == 2#3 || s == 3#3 || s == 4#3)
  | .bar => true
  | .barc _ _ => true
  | .muster _ => true
  | .disband => true
  | .ldb _ _ _ _ y => y != 7#3
  | .stb _ _ _ _ _ => true
  | .mkd _ _ _ _ _ => true
  | .dnar _ _ _ _ _ => true
  | .stn _ _ _ f => (f.ule 17#5 && (14#5).ule f)
  | .stg _ _ _ _ => true
  | .ldg _ _ _ => true
  | .rtag _ _ _ _ _ => true
  | .mfe _ _ => true
  | .mte _ _ _ => true
  | .spawn _ _ _ _ _ => true
  | .spawnCl _ _ _ _ _ => true
  | .taga _ _ _ _ _ => true
  | .tagf _ _ _ _ => true
  | .qstat _ q => q.ule 4#3
  | .unpark _ _ _ => true
  | .kill _ _ => true
  | .reclaim _ _ _ _ => true
  | .cinvT _ _ _ _ => true
  | .lsub _ _ _ => true
  | .lprq _ _ _ => true
  | .stop _ _ _ => true
  | .lres _ _ _ => true
  | .cpy _ _ _ _ _ => true
  | .qnt _ _ _ _ _ => true
  | .gath _ _ _ _ => true
  | .scat _ _ _ _ => true
  | .slsend _ _ _ _ => true
  | .tclm _ _ => true
  | .tld _ _ _ _ => true
  | .trel _ _ => true
  | .aclr _ _ => true
  | .acst _ _ _ _ => true
  | .acld _ _ _ _ => true
  | .mma _ _ _ _ c _ _ => c.ule 6#4
  | .ld p _ _ _ _ _ => p.ule 4#3
  | .ldn p _ _ _ w _ => p.ule 4#3 && w != 3#2
  | .st p _ _ _ _ _ _ => p.ule 4#3
  | .ordLd p _ _ _ _ o => p.ule 4#3 && orderIn o [0, 1, 4]
  | .ordLdn p _ _ w _ o => p.ule 4#3 && w != 3#2 && orderIn o [0, 1, 4]
  | .ordSt p _ _ _ _ o => p.ule 4#3 && orderIn o [0, 2, 4]
  | .amoAdd p _ _ _ _ f => p.ule 4#3 && f.ule 29#5
  | .amoMin p _ _ _ _ f => p.ule 4#3 && f.ule 29#5
  | .amoMax p _ _ _ _ f => p.ule 4#3 && f.ule 29#5
  | .amoMinn p _ _ _ _ f => p.ule 4#3 && f.ule 29#5
  | .amoMaxn p _ _ _ _ f => p.ule 4#3 && f.ule 29#5
  | .amoAnd p _ _ _ _ f => p.ule 4#3 && f.ule 29#5
  | .amoOr p _ _ _ _ f => p.ule 4#3 && f.ule 29#5
  | .amoXor p _ _ _ _ f => p.ule 4#3 && f.ule 29#5
  | .amoXchg p _ _ _ _ f => p.ule 4#3 && f.ule 29#5
  | .amoFaddS p _ _ _ f => p.ule 4#3 && f.ule 29#5
  | .amoFaddBf p _ _ _ f => p.ule 4#3 && f.ule 29#5
  | .cas p _ _ _ _ f => p.ule 4#3 && f.ule 29#5
  | .ldx p _ _ _ _ _ => p.ule 4#3
  | .stx p _ _ _ _ _ => p.ule 4#3
  | .waita _ _ _ _ _ _ f => f.ule 23#5
  | .waitge _ _ _ _ _ _ f => f.ule 23#5
  | .sMergeWrite _ => true
  | .sAlcoveWrite _ => true
  | .sStatusWrite _ => true
  | .systemRegisterWrite _ _ => true
  | .issuePick _ _ _ => true
  | .wideMergePick _ _ _ => true
  | .lingerTimeout _ => true
  | .lingerMeet _ => true
  | .storeCheckReturn _ => true
  | .pageWalk _ _ _ _ => true
  | .producerReply _ _ => true
  | .atomicPerform _ _ _ => true
  | .faultReply _ _ => true
  | .poisonReply _ _ => true
  | .storeDrain _ _ => true
  | .ntStoreDrain _ _ => true
  | .loadReadMove _ _ _ _ => true
  | .waitWake _ _ _ => true
  | .waitTimeout _ _ => true
  | .guardReadReturn _ _ => true
  | .trapEntry _ => true
  | .gangFormation _ => true
  | .gangCommandEntry _ _ _ => true
  | .barrierCompletion _ => true
  | .engineCommandStart _ => true
  | .engineCommandPerformed _ _ _ => true
  | .tagAllocation _ _ => true
  | .sluiceArrival _ => true
  | .sluiceOrphanExpiry _ => true
  | .spawnMessageArrival _ => true
  | .inboxHeadStart _ => true
  | .groupPlacement _ => true
  | .quitComplete _ => true
  | .quiescenceReport _ => true
  | .queueRecordAppend _ _ => true
  | .deadlineExpiry _ => true
  | .groupSave _ => true
  | .yieldSave _ => true
  | .groupRestore _ => true
  | .homeReadMiss _ _ => true
  | .homeUpgrade _ _ => true
  | .homeEviction _ _ => true
  | .homeNoncacheableAccess _ => true
  | .homeAcknowledgement _ _ => true
  | .atomicRecallWaitExpiry _ _ => true
  | .sharerTimeout _ _ => true
  | .recallTimeout _ _ => true
  | .errorInvalidateResend _ _ => true
  | .errorInvalidateReceipt _ _ => true
  | .errorInvalidateAck _ _ => true
  | .sliceRequestTimeout _ _ => true
  | .counterSnapshot _ _ => true
  | .hostSend _ => true
  | .rmaWrite _ => true
  | .rmaRead _ => true
  | .unsupportedOperation _ => true
  | .packetDrop _ => true
  | .outboundEntryStart _ => true
  | .outboundCompletion _ _ _ _ => true
  | .outboundRetryLimit _ _ => true
  | .mailboxGrantCellar _ => true
  | .mailboxWithdrawCellar _ => true
  | .mailboxSetCarveOut _ => true
  | .mailboxQuote _ => true
  | .moduleReset => true
  | .partitionDestroy _ => true
  | .thermalThrottle => true
  | .overtempReset => true
  | .deviceClockTick => true
  | .thermalConditionClears => true
  | .signedFirmwareUpdate _ _ => true
  | .mailboxBadRequest _ => true

end Sys2Proof
end

