-- ==== Sys2Proof/Decode.lean ====
section
/-! DEFINITION. Decoding a word into an instruction or a rejection by name (R195 to R222), total on any bytes, and the
encoder written from the same tables. Whether an instruction is permitted (feature, privilege) is judged after this,
at issue (R222 steps 3 and 4). -/
namespace Sys2Proof

/-- Why a word is not an instruction (R222 steps 1 and 2; R119, R329). -/
inductive DecodeError where
  /-- the primary opcode is unassigned -/
  | opcode
  /-- a function code, code field or reserved bit is bad -/
  | fields
  /-- an ENG or `qstat` queue field of 5 to 7 -/
  | queueCode (q : Nat)
  /-- an ENG command whose queue does not serve it -/
  | queueMismatch (q : Nat)
  /-- fewer than four bytes were given -/
  | truncated
  deriving DecidableEq, Repr

/-- The n bits of w from bit lo upward. -/
def fld (w lo n : Nat) : Nat := w / 2 ^ lo % 2 ^ n

/-- The n-bit field of w at lo, as a bit vector. -/
def fieldAt (w lo n : Nat) : BitVec n := BitVec.ofNat n (w / 2 ^ lo)

/-- Bit lo of w. -/
def bitAt (w lo : Nat) : Bool := fld w lo 1 == 1

/-- Accept an instruction only when its code fields hold assigned values (R222 step 2). -/
def accept (i : Instr) : Except DecodeError Instr := if i.wf then .ok i else .error .fields

/-- INT64 (0x00) and INT32 (0x01) (R205). -/
def decodeInt (w : Nat) : Except DecodeError Instr :=
  match fld w 0 5 with
  | 0 => accept (.add (bitAt w 25) (fieldAt w 19 6) (fieldAt w 13 6) (fieldAt w 7 6) (bitAt w 6) (bitAt w 5))
  | 1 => accept (.sub (bitAt w 25) (fieldAt w 19 6) (fieldAt w 13 6) (fieldAt w 7 6) (bitAt w 6) (bitAt w 5))
  | 2 => accept (.mul (bitAt w 25) (fieldAt w 19 6) (fieldAt w 13 6) (fieldAt w 7 6) (bitAt w 6) (bitAt w 5))
  | 3 => accept (.mulh (bitAt w 25) (fieldAt w 19 6) (fieldAt w 13 6) (fieldAt w 7 6) (bitAt w 6) (bitAt w 5))
  | 4 => accept (.mulhn (bitAt w 25) (fieldAt w 19 6) (fieldAt w 13 6) (fieldAt w 7 6) (bitAt w 6) (bitAt w 5))
  | 5 => accept (.div (bitAt w 25) (fieldAt w 19 6) (fieldAt w 13 6) (fieldAt w 7 6) (bitAt w 6) (bitAt w 5))
  | 6 => accept (.divn (bitAt w 25) (fieldAt w 19 6) (fieldAt w 13 6) (fieldAt w 7 6) (bitAt w 6) (bitAt w 5))
  | 7 => accept (.rem (bitAt w 25) (fieldAt w 19 6) (fieldAt w 13 6) (fieldAt w 7 6) (bitAt w 6) (bitAt w 5))
  | 8 => accept (.remn (bitAt w 25) (fieldAt w 19 6) (fieldAt w 13 6) (fieldAt w 7 6) (bitAt w 6) (bitAt w 5))
  | 9 => accept (.and (bitAt w 25) (fieldAt w 19 6) (fieldAt w 13 6) (fieldAt w 7 6) (bitAt w 6) (bitAt w 5))
  | 10 => accept (.or (bitAt w 25) (fieldAt w 19 6) (fieldAt w 13 6) (fieldAt w 7 6) (bitAt w 6) (bitAt w 5))
  | 11 => accept (.xor (bitAt w 25) (fieldAt w 19 6) (fieldAt w 13 6) (fieldAt w 7 6) (bitAt w 6) (bitAt w 5))
  | 12 => accept (.andn (bitAt w 25) (fieldAt w 19 6) (fieldAt w 13 6) (fieldAt w 7 6) (bitAt w 6) (bitAt w 5))
  | 13 => accept (.orn (bitAt w 25) (fieldAt w 19 6) (fieldAt w 13 6) (fieldAt w 7 6) (bitAt w 6) (bitAt w 5))
  | 14 => accept (.shl (bitAt w 25) (fieldAt w 19 6) (fieldAt w 13 6) (fieldAt w 7 6) (bitAt w 6) (bitAt w 5))
  | 15 => accept (.shr (bitAt w 25) (fieldAt w 19 6) (fieldAt w 13 6) (fieldAt w 7 6) (bitAt w 6) (bitAt w 5))
  | 16 => accept (.sra (bitAt w 25) (fieldAt w 19 6) (fieldAt w 13 6) (fieldAt w 7 6) (bitAt w 6) (bitAt w 5))
  | 17 => accept (.rot (bitAt w 25) (fieldAt w 19 6) (fieldAt w 13 6) (fieldAt w 7 6) (bitAt w 6) (bitAt w 5))
  | 18 => accept (.min (bitAt w 25) (fieldAt w 19 6) (fieldAt w 13 6) (fieldAt w 7 6) (bitAt w 6) (bitAt w 5))
  | 19 => accept (.minn (bitAt w 25) (fieldAt w 19 6) (fieldAt w 13 6) (fieldAt w 7 6) (bitAt w 6) (bitAt w 5))
  | 20 => accept (.max (bitAt w 25) (fieldAt w 19 6) (fieldAt w 13 6) (fieldAt w 7 6) (bitAt w 6) (bitAt w 5))
  | 21 => accept (.maxn (bitAt w 25) (fieldAt w 19 6) (fieldAt w 13 6) (fieldAt w 7 6) (bitAt w 6) (bitAt w 5))
  | 22 => if fld w 5 1 = 0 ∧ fld w 7 6 = 0 then accept (.clz (bitAt w 25) (fieldAt w 19 6) (fieldAt w 13 6) (bitAt w 6)) else .error .fields
  | 23 => if fld w 5 1 = 0 ∧ fld w 7 6 = 0 then accept (.ctz (bitAt w 25) (fieldAt w 19 6) (fieldAt w 13 6) (bitAt w 6)) else .error .fields
  | 24 => if fld w 5 1 = 0 ∧ fld w 7 6 = 0 then accept (.popc (bitAt w 25) (fieldAt w 19 6) (fieldAt w 13 6) (bitAt w 6)) else .error .fields
  | 25 => if fld w 5 1 = 0 ∧ fld w 7 6 = 0 then accept (.brev (bitAt w 25) (fieldAt w 19 6) (fieldAt w 13 6) (bitAt w 6)) else .error .fields
  | 26 => if fld w 5 1 = 0 ∧ fld w 7 6 = 0 then accept (.bswap (bitAt w 25) (fieldAt w 19 6) (fieldAt w 13 6) (bitAt w 6)) else .error .fields
  | 27 => if fld w 5 1 = 0 ∧ fld w 9 4 = 0 ∧ fld w 25 1 = 0 then accept (.sext (fieldAt w 19 6) (fieldAt w 13 6) (fieldAt w 7 2) (bitAt w 6)) else .error .fields
  | 28 => if fld w 5 1 = 0 ∧ fld w 9 4 = 0 ∧ fld w 25 1 = 0 then accept (.zext (fieldAt w 19 6) (fieldAt w 13 6) (fieldAt w 7 2) (bitAt w 6)) else .error .fields
  | _ => .error .fields

/-- CMP (0x02) (R207). -/
def decodeCmp (w : Nat) : Except DecodeError Instr :=
  match fld w 0 5 with
  | 0 => accept (.cmp (fieldAt w 22 3) (fieldAt w 19 3) (fieldAt w 13 6) (fieldAt w 7 6) (bitAt w 6) (bitAt w 5))
  | 1 => accept (.cmpW (fieldAt w 22 3) (fieldAt w 19 3) (fieldAt w 13 6) (fieldAt w 7 6) (bitAt w 6) (bitAt w 5))
  | 2 => if fld w 5 2 = 0 ∧ fld w 10 3 = 0 ∧ fld w 16 3 = 0 ∧ fld w 22 3 = 0 then accept (.pand (fieldAt w 19 3) (fieldAt w 13 3) (fieldAt w 7 3)) else .error .fields
  | 3 => if fld w 5 2 = 0 ∧ fld w 10 3 = 0 ∧ fld w 16 3 = 0 ∧ fld w 22 3 = 0 then accept (.por (fieldAt w 19 3) (fieldAt w 13 3) (fieldAt w 7 3)) else .error .fields
  | 4 => if fld w 5 2 = 0 ∧ fld w 10 3 = 0 ∧ fld w 16 3 = 0 ∧ fld w 22 3 = 0 then accept (.pxor (fieldAt w 19 3) (fieldAt w 13 3) (fieldAt w 7 3)) else .error .fields
  | 5 => if fld w 5 8 = 0 ∧ fld w 16 3 = 0 ∧ fld w 22 3 = 0 then accept (.pnot (fieldAt w 19 3) (fieldAt w 13 3)) else .error .fields
  | 6 => if fld w 5 1 = 0 ∧ fld w 7 6 = 0 ∧ fld w 22 3 = 0 then accept (.movpToPred (fieldAt w 19 3) (fieldAt w 13 6) (bitAt w 6)) else .error .fields
  | 7 => if fld w 5 8 = 0 ∧ fld w 16 3 = 0 then accept (.movpToGpr (fieldAt w 19 6) (fieldAt w 13 3)) else .error .fields
  | 8 | 9 | 10 | 11 | 12 | 13 | 14 | 15 => accept (.sel (fieldAt w 19 6) (fieldAt w 13 6) (fieldAt w 7 6) (bitAt w 6) (bitAt w 5) (fieldAt w 0 3))
  | _ => .error .fields

/-- PTR (0x03) (R207). -/
def decodePtr (w : Nat) : Except DecodeError Instr :=
  match fld w 0 5 with
  | 0 => accept (.addp (fieldAt w 19 6) (fieldAt w 13 6) (fieldAt w 7 6) (bitAt w 6) (bitAt w 5))
  | 1 => accept (.setf (fieldAt w 19 6) (fieldAt w 13 6) (fieldAt w 7 6) (bitAt w 6) (bitAt w 5))
  | 2 => if fld w 5 1 = 0 ∧ fld w 7 6 = 0 then accept (.getf (fieldAt w 19 6) (fieldAt w 13 6) (bitAt w 6)) else .error .fields
  | 3 => accept (.settag (fieldAt w 19 6) (fieldAt w 13 6) (fieldAt w 7 6) (bitAt w 6) (bitAt w 5))
  | 4 => if fld w 5 1 = 0 ∧ fld w 7 6 = 0 then accept (.gettag (fieldAt w 19 6) (fieldAt w 13 6) (bitAt w 6)) else .error .fields
  | _ => .error .fields

/-- `li` (R206). -/
def decodeLi (w : Nat) : Except DecodeError Instr :=
  accept (.li (fieldAt w 19 6) (fieldAt w 0 19))

/-- `lic` (R206). -/
def decodeLic (w : Nat) : Except DecodeError Instr :=
  accept (.lic (fieldAt w 19 6) (fieldAt w 0 19))

/-- `cmpi` (R203, R206). -/
def decodeCmpi (w : Nat) : Except DecodeError Instr :=
  accept (.cmpi (fieldAt w 22 3) (fieldAt w 19 3) (fieldAt w 13 6) (bitAt w 12) (fieldAt w 0 12))

/-- `addp` immediate (R206). -/
def decodeAddpImm (w : Nat) : Except DecodeError Instr :=
  accept (.addpImm (fieldAt w 19 6) (fieldAt w 13 6) (bitAt w 12) (fieldAt w 0 12))

/-- `add` immediate (R206). -/
def decodeAddImm (w : Nat) : Except DecodeError Instr :=
  accept (.addImm (fieldAt w 19 6) (fieldAt w 13 6) (bitAt w 12) (fieldAt w 0 12))

/-- `and` immediate (R206). -/
def decodeAndImm (w : Nat) : Except DecodeError Instr :=
  accept (.andImm (fieldAt w 19 6) (fieldAt w 13 6) (bitAt w 12) (fieldAt w 0 12))

/-- `or` immediate (R206). -/
def decodeOrImm (w : Nat) : Except DecodeError Instr :=
  accept (.orImm (fieldAt w 19 6) (fieldAt w 13 6) (bitAt w 12) (fieldAt w 0 12))

/-- `xor` immediate (R206). -/
def decodeXorImm (w : Nat) : Except DecodeError Instr :=
  accept (.xorImm (fieldAt w 19 6) (fieldAt w 13 6) (bitAt w 12) (fieldAt w 0 12))

/-- `shl` immediate (R206). -/
def decodeShlImm (w : Nat) : Except DecodeError Instr :=
  if fld w 6 6 = 0 then accept (.shlImm (fieldAt w 19 6) (fieldAt w 13 6) (bitAt w 12) (fieldAt w 0 6)) else .error .fields

/-- `shr` immediate (R206). -/
def decodeShrImm (w : Nat) : Except DecodeError Instr :=
  if fld w 6 6 = 0 then accept (.shrImm (fieldAt w 19 6) (fieldAt w 13 6) (bitAt w 12) (fieldAt w 0 6)) else .error .fields

/-- `sra` immediate (R206). -/
def decodeSraImm (w : Nat) : Except DecodeError Instr :=
  if fld w 6 6 = 0 then accept (.sraImm (fieldAt w 19 6) (fieldAt w 13 6) (bitAt w 12) (fieldAt w 0 6)) else .error .fields

/-- `rot` immediate (R206). -/
def decodeRotImm (w : Nat) : Except DecodeError Instr :=
  if fld w 6 6 = 0 then accept (.rotImm (fieldAt w 19 6) (fieldAt w 13 6) (bitAt w 12) (fieldAt w 0 6)) else .error .fields

/-- `bfx` (R206). -/
def decodeBfx (w : Nat) : Except DecodeError Instr :=
  accept (.bfx (fieldAt w 19 6) (fieldAt w 13 6) (bitAt w 12) (fieldAt w 6 6) (fieldAt w 0 6))

/-- `bfi` (R206). -/
def decodeBfi (w : Nat) : Except DecodeError Instr :=
  accept (.bfi (fieldAt w 19 6) (fieldAt w 13 6) (bitAt w 12) (fieldAt w 6 6) (fieldAt w 0 6))

/-- `bp` (R208). -/
def decodeBp (w : Nat) : Except DecodeError Instr :=
  accept (.bp (fieldAt w 22 3) (bitAt w 21) (fieldAt w 0 21))

/-- `call` (R208). -/
def decodeCall (w : Nat) : Except DecodeError Instr :=
  if fld w 21 4 = 0 then accept (.call (fieldAt w 0 21)) else .error .fields

/-- `pbr` (R208). -/
def decodePbr (w : Nat) : Except DecodeError Instr :=
  if fld w 22 3 = 0 then accept (.pbr (fieldAt w 19 3) (fieldAt w 0 19)) else .error .fields

/-- CTRL (0x1B) (R208). -/
def decodeCtrl (w : Nat) : Except DecodeError Instr :=
  match fld w 0 5 with
  | 0 => if fld w 5 20 = 0 then accept .nop else .error .fields
  | 1 => if fld w 5 8 = 0 ∧ fld w 16 9 = 0 then accept (.jb (fieldAt w 13 3)) else .error .fields
  | 2 => if fld w 5 8 = 0 ∧ fld w 16 3 = 0 ∧ fld w 23 2 = 0 then accept (.jbp (bitAt w 22) (fieldAt w 19 3) (fieldAt w 13 3)) else .error .fields
  | 3 => if fld w 5 8 = 0 ∧ fld w 16 9 = 0 then accept (.callb (fieldAt w 13 3)) else .error .fields
  | 4 => if fld w 5 20 = 0 then accept .ret else .error .fields
  | 5 => if fld w 5 1 = 0 ∧ fld w 7 6 = 0 ∧ fld w 22 3 = 0 then accept (.pbt (fieldAt w 19 3) (fieldAt w 13 6) (bitAt w 6)) else .error .fields
  | 6 => if fld w 5 20 = 0 then accept .quit else .error .fields
  | 7 => if fld w 5 20 = 0 then accept .yield else .error .fields
  | 8 => if fld w 5 2 = 0 ∧ fld w 15 10 = 0 then accept (.rejoin (fieldAt w 7 8)) else .error .fields
  | 9 => if fld w 5 2 = 0 ∧ fld w 19 6 = 0 then accept (.trap (fieldAt w 7 12)) else .error .fields
  | 10 => if fld w 5 2 = 0 ∧ fld w 19 6 = 0 then accept (.ecall (fieldAt w 7 12)) else .error .fields
  | 11 => if fld w 5 20 = 0 then accept .tret else .error .fields
  | _ => .error .fields

/-- The repeat prefix (R219). -/
def decodeRpt (w : Nat) : Except DecodeError Instr :=
  if fld w 0 13 = 0 then accept (.rpt (fieldAt w 19 6) (fieldAt w 17 2) (fieldAt w 15 2) (fieldAt w 13 2)) else .error .fields

/-- `fadd` (R209). -/
def decodeFadd (w : Nat) : Except DecodeError Instr :=
  accept (.fadd (fieldAt w 19 6) (fieldAt w 13 6) (fieldAt w 7 6) (bitAt w 6) (bitAt w 5) (fieldAt w 3 2) (fieldAt w 0 3))

/-- `fsub` (R209). -/
def decodeFsub (w : Nat) : Except DecodeError Instr :=
  accept (.fsub (fieldAt w 19 6) (fieldAt w 13 6) (fieldAt w 7 6) (bitAt w 6) (bitAt w 5) (fieldAt w 3 2) (fieldAt w 0 3))

/-- `fmul` (R209). -/
def decodeFmul (w : Nat) : Except DecodeError Instr :=
  accept (.fmul (fieldAt w 19 6) (fieldAt w 13 6) (fieldAt w 7 6) (bitAt w 6) (bitAt w 5) (fieldAt w 3 2) (fieldAt w 0 3))

/-- `fdiv` (R209). -/
def decodeFdiv (w : Nat) : Except DecodeError Instr :=
  accept (.fdiv (fieldAt w 19 6) (fieldAt w 13 6) (fieldAt w 7 6) (bitAt w 6) (bitAt w 5) (fieldAt w 3 2) (fieldAt w 0 3))

/-- `fma` (R209). -/
def decodeFma (w : Nat) : Except DecodeError Instr :=
  accept (.fma (fieldAt w 19 6) (fieldAt w 13 6) (fieldAt w 7 6) (bitAt w 6) (bitAt w 5) (fieldAt w 3 2) (fieldAt w 0 3))

/-- `fms` (R209). -/
def decodeFms (w : Nat) : Except DecodeError Instr :=
  accept (.fms (fieldAt w 19 6) (fieldAt w 13 6) (fieldAt w 7 6) (bitAt w 6) (bitAt w 5) (fieldAt w 3 2) (fieldAt w 0 3))

/-- `fnma` (R209). -/
def decodeFnma (w : Nat) : Except DecodeError Instr :=
  accept (.fnma (fieldAt w 19 6) (fieldAt w 13 6) (fieldAt w 7 6) (bitAt w 6) (bitAt w 5) (fieldAt w 3 2) (fieldAt w 0 3))

/-- FUN (0x27) (R209). -/
def decodeFun (w : Nat) : Except DecodeError Instr :=
  match fld w 10 3 with
  | 0 => if fld w 5 1 = 0 ∧ fld w 7 3 = 0 then accept (.fsqrt (fieldAt w 19 6) (fieldAt w 13 6) (bitAt w 6) (fieldAt w 3 2) (fieldAt w 0 3)) else .error .fields
  | 1 => if fld w 5 1 = 0 ∧ fld w 7 3 = 0 then accept (.frcp (fieldAt w 19 6) (fieldAt w 13 6) (bitAt w 6) (fieldAt w 3 2) (fieldAt w 0 3)) else .error .fields
  | 2 => if fld w 5 1 = 0 ∧ fld w 7 3 = 0 then accept (.frsq (fieldAt w 19 6) (fieldAt w 13 6) (bitAt w 6) (fieldAt w 3 2) (fieldAt w 0 3)) else .error .fields
  | 3 => if fld w 5 1 = 0 ∧ fld w 7 3 = 0 then accept (.fex2 (fieldAt w 19 6) (fieldAt w 13 6) (bitAt w 6) (fieldAt w 3 2) (fieldAt w 0 3)) else .error .fields
  | 4 => if fld w 5 1 = 0 ∧ fld w 7 3 = 0 then accept (.flg2 (fieldAt w 19 6) (fieldAt w 13 6) (bitAt w 6) (fieldAt w 3 2) (fieldAt w 0 3)) else .error .fields
  | 5 => if fld w 5 1 = 0 ∧ fld w 7 3 = 0 then accept (.fsin (fieldAt w 19 6) (fieldAt w 13 6) (bitAt w 6) (fieldAt w 3 2) (fieldAt w 0 3)) else .error .fields
  | 6 => if fld w 5 1 = 0 ∧ fld w 7 3 = 0 then accept (.fcos (fieldAt w 19 6) (fieldAt w 13 6) (bitAt w 6) (fieldAt w 3 2) (fieldAt w 0 3)) else .error .fields
  | _ => .error .fields

/-- FCV (0x28) (R209). -/
def decodeFcv (w : Nat) : Except DecodeError Instr :=
  match fld w 11 2 with
  | 0 => if fld w 5 1 = 0 ∧ fld w 9 2 = 0 then accept (.fcvt (fieldAt w 19 6) (fieldAt w 13 6) (fieldAt w 7 2) (bitAt w 6) (fieldAt w 3 2) (fieldAt w 0 3)) else .error .fields
  | 1 => if fld w 5 1 = 0 ∧ fld w 10 1 = 0 then accept (.fcvti (fieldAt w 19 6) (fieldAt w 13 6) (fieldAt w 7 3) (bitAt w 6) (fieldAt w 3 2) (fieldAt w 0 3)) else .error .fields
  | 2 => if fld w 5 1 = 0 ∧ fld w 10 1 = 0 then accept (.ficvt (fieldAt w 19 6) (fieldAt w 13 6) (fieldAt w 7 3) (bitAt w 6) (fieldAt w 3 2) (fieldAt w 0 3)) else .error .fields
  | _ => .error .fields

/-- FMISC (0x29) (R209). -/
def decodeFmisc (w : Nat) : Except DecodeError Instr :=
  match fld w 2 3 with
  | 0 => accept (.fmin (fieldAt w 19 6) (fieldAt w 13 6) (fieldAt w 7 6) (bitAt w 6) (bitAt w 5) (fieldAt w 0 2))
  | 1 => accept (.fmax (fieldAt w 19 6) (fieldAt w 13 6) (fieldAt w 7 6) (bitAt w 6) (bitAt w 5) (fieldAt w 0 2))
  | 2 => if fld w 5 1 = 0 ∧ fld w 7 6 = 0 then accept (.fneg (fieldAt w 19 6) (fieldAt w 13 6) (bitAt w 6) (fieldAt w 0 2)) else .error .fields
  | 3 => accept (.fcmp (fieldAt w 22 3) (fieldAt w 19 3) (fieldAt w 13 6) (fieldAt w 7 6) (bitAt w 6) (bitAt w 5) (fieldAt w 0 2))
  | 4 => if fld w 5 1 = 0 ∧ fld w 7 6 = 0 then accept (.fclass (fieldAt w 19 6) (fieldAt w 13 6) (bitAt w 6) (fieldAt w 0 2)) else .error .fields
  | _ => .error .fields

/-- PINT (0x30) (R210). -/
def decodePint (w : Nat) : Except DecodeError Instr :=
  match fld w 2 3 with
  | 0 => accept (.padd (fieldAt w 19 6) (fieldAt w 13 6) (fieldAt w 7 6) (bitAt w 6) (bitAt w 5) (fieldAt w 0 2))
  | 1 => accept (.psub (fieldAt w 19 6) (fieldAt w 13 6) (fieldAt w 7 6) (bitAt w 6) (bitAt w 5) (fieldAt w 0 2))
  | 2 => accept (.pmul (fieldAt w 19 6) (fieldAt w 13 6) (fieldAt w 7 6) (bitAt w 6) (bitAt w 5) (fieldAt w 0 2))
  | 3 => accept (.pmin (fieldAt w 19 6) (fieldAt w 13 6) (fieldAt w 7 6) (bitAt w 6) (bitAt w 5) (fieldAt w 0 2))
  | 4 => accept (.pmax (fieldAt w 19 6) (fieldAt w 13 6) (fieldAt w 7 6) (bitAt w 6) (bitAt w 5) (fieldAt w 0 2))
  | 5 => if fld w 0 2 = 0 then accept (.pdot4 (fieldAt w 19 6) (fieldAt w 13 6) (fieldAt w 7 6) (bitAt w 6) (bitAt w 5)) else .error .fields
  | _ => .error .fields

/-- PFLT (0x31) (R210). -/
def decodePflt (w : Nat) : Except DecodeError Instr :=
  match fld w 2 3 with
  | 0 => accept (.pfadd (fieldAt w 19 6) (fieldAt w 13 6) (fieldAt w 7 6) (bitAt w 6) (bitAt w 5) (fieldAt w 0 2))
  | 1 => accept (.pfmul (fieldAt w 19 6) (fieldAt w 13 6) (fieldAt w 7 6) (bitAt w 6) (bitAt w 5) (fieldAt w 0 2))
  | 2 => accept (.pfma (fieldAt w 19 6) (fieldAt w 13 6) (fieldAt w 7 6) (bitAt w 6) (bitAt w 5) (fieldAt w 0 2))
  | _ => .error .fields

/-- PMISC (0x32) (R210). -/
def decodePmisc (w : Nat) : Except DecodeError Instr :=
  match fld w 2 3 with
  | 0 => if fld w 1 1 = 0 then accept (.pshuf (fieldAt w 19 6) (fieldAt w 13 6) (fieldAt w 7 6) (bitAt w 6) (bitAt w 5) (bitAt w 0)) else .error .fields
  | 1 => accept (.ppack (fieldAt w 19 6) (fieldAt w 13 6) (fieldAt w 7 6) (bitAt w 6) (bitAt w 5) (fieldAt w 0 2))
  | 2 => if fld w 5 1 = 0 ∧ fld w 7 6 = 0 then accept (.punpk (fieldAt w 19 6) (fieldAt w 13 6) (bitAt w 6) (fieldAt w 0 2)) else .error .fields
  | 3 => accept (.pfcvt (fieldAt w 19 6) (fieldAt w 13 6) (fieldAt w 7 6) (bitAt w 6) (bitAt w 5) (fieldAt w 0 2))
  | 4 => accept (.bxd (fieldAt w 19 6) (fieldAt w 13 6) (fieldAt w 7 6) (bitAt w 6) (bitAt w 5) (fieldAt w 0 2))
  | _ => .error .fields

/-- `mfs` (R216). -/
def decodeMfs (w : Nat) : Except DecodeError Instr :=
  if fld w 12 7 = 0 then accept (.mfs (fieldAt w 19 6) (fieldAt w 0 12)) else .error .fields

/-- `mts` (R216). -/
def decodeMts (w : Nat) : Except DecodeError Instr :=
  if fld w 19 6 = 0 then accept (.mts (fieldAt w 13 6) (bitAt w 12) (fieldAt w 0 12)) else .error .fields

/-- SYNC (0x3A) (R216). -/
def decodeSync (w : Nat) : Except DecodeError Instr :=
  match fld w 0 5 with
  | 0 => if fld w 5 2 = 0 ∧ fld w 12 13 = 0 then accept (.fence (fieldAt w 7 5)) else .error .fields
  | 1 => if fld w 5 2 = 0 ∧ fld w 12 13 = 0 then accept (.qfence (fieldAt w 7 5)) else .error .fields
  | 2 => if fld w 19 6 = 0 then accept (.cwb (fieldAt w 13 6) (fieldAt w 7 6) (bitAt w 6) (bitAt w 5)) else .error .fields
  | 3 => if fld w 19 6 = 0 then accept (.cinv (fieldAt w 13 6) (fieldAt w 7 6) (bitAt w 6) (bitAt w 5)) else .error .fields
  | 4 => if fld w 19 6 = 0 then accept (.icinv (fieldAt w 13 6) (fieldAt w 7 6) (bitAt w 6) (bitAt w 5)) else .error .fields
  | 5 => if fld w 5 20 = 0 then accept .ifence else .error .fields
  | 6 => if fld w 5 20 = 0 then accept .drain else .error .fields
  | 7 => if fld w 22 3 = 0 then accept (.arrive (fieldAt w 19 3) (fieldAt w 13 6) (fieldAt w 7 6) (bitAt w 6) (bitAt w 5)) else .error .fields
  | 8 => if fld w 5 20 = 0 then accept .bar else .error .fields
  | 9 => if fld w 5 1 = 0 ∧ fld w 7 6 = 0 ∧ fld w 19 6 = 0 then accept (.barc (fieldAt w 13 6) (bitAt w 6)) else .error .fields
  | 10 => if fld w 5 14 = 0 then accept (.muster (fieldAt w 19 6)) else .error .fields
  | 11 => if fld w 5 20 = 0 then accept .disband else .error .fields
  | _ => .error .fields

/-- MEMX (0x3B) (R216). -/
def decodeMemx (w : Nat) : Except DecodeError Instr :=
  match fld w 0 5 with
  | 0 | 1 | 2 | 3 | 4 | 5 | 6 => if fld w 5 1 = 0 ∧ fld w 11 2 = 0 then accept (.ldb (fieldAt w 19 6) (fieldAt w 13 6) (fieldAt w 7 4) (bitAt w 6) (fieldAt w 0 3)) else .error .fields
  | 8 | 9 | 10 | 11 => if fld w 5 1 = 0 ∧ fld w 11 2 = 0 then accept (.stb (fieldAt w 19 6) (fieldAt w 13 6) (fieldAt w 7 4) (bitAt w 6) (fieldAt w 0 2)) else .error .fields
  | 12 => if fld w 23 2 = 0 then accept (.mkd (fieldAt w 19 4) (fieldAt w 13 6) (fieldAt w 7 6) (bitAt w 6) (bitAt w 5)) else .error .fields
  | 13 => if fld w 23 2 = 0 then accept (.dnar (fieldAt w 19 4) (fieldAt w 13 6) (fieldAt w 7 6) (bitAt w 6) (bitAt w 5)) else .error .fields
  | 18 => if fld w 19 6 = 0 then accept (.stg (fieldAt w 13 6) (fieldAt w 7 6) (bitAt w 6) (bitAt w 5)) else .error .fields
  | 19 => if fld w 5 1 = 0 ∧ fld w 7 6 = 0 then accept (.ldg (fieldAt w 19 6) (fieldAt w 13 6) (bitAt w 6)) else .error .fields
  | 20 => accept (.rtag (fieldAt w 19 6) (fieldAt w 13 6) (fieldAt w 7 6) (bitAt w 6) (bitAt w 5))
  | 14 | 15 | 16 | 17 => if fld w 5 1 = 0 ∧ fld w 7 6 = 0 then accept (.stn (fieldAt w 19 6) (fieldAt w 13 6) (bitAt w 6) (fieldAt w 0 5)) else .error .fields
  | _ => .error .fields

/-- SYS (0x3C) (R216, R329). -/
def decodeSys (w : Nat) : Except DecodeError Instr :=
  match fld w 0 5 with
  | 0 => if fld w 5 8 = 0 ∧ fld w 17 2 = 0 then accept (.mfe (fieldAt w 19 6) (fieldAt w 13 4)) else .error .fields
  | 1 => if fld w 5 1 = 0 ∧ fld w 7 6 = 0 ∧ fld w 23 2 = 0 then accept (.mte (fieldAt w 19 4) (fieldAt w 13 6) (bitAt w 6)) else .error .fields
  | 2 => accept (.spawn (fieldAt w 19 6) (fieldAt w 13 6) (fieldAt w 7 6) (bitAt w 6) (bitAt w 5))
  | 3 => accept (.spawnCl (fieldAt w 19 6) (fieldAt w 13 6) (fieldAt w 7 6) (bitAt w 6) (bitAt w 5))
  | 4 => accept (.taga (fieldAt w 19 6) (fieldAt w 13 6) (fieldAt w 7 6) (bitAt w 6) (bitAt w 5))
  | 5 => if fld w 19 6 = 0 then accept (.tagf (fieldAt w 13 6) (fieldAt w 7 6) (bitAt w 6) (bitAt w 5)) else .error .fields
  | 6 =>
    if 5 ≤ fld w 7 3 then .error (.queueCode (fld w 7 3))
    else if fld w 5 2 = 0 ∧ fld w 10 9 = 0 then accept (.qstat (fieldAt w 19 6) (fieldAt w 7 3)) else .error .fields
  | _ => .error .fields

/-- SUP (0x3D) (R217). -/
def decodeSup (w : Nat) : Except DecodeError Instr :=
  match fld w 0 5 with
  | 0 => if fld w 5 1 = 0 ∧ fld w 7 6 = 0 then accept (.unpark (fieldAt w 19 6) (fieldAt w 13 6) (bitAt w 6)) else .error .fields
  | 1 => if fld w 5 1 = 0 ∧ fld w 7 6 = 0 ∧ fld w 19 6 = 0 then accept (.kill (fieldAt w 13 6) (bitAt w 6)) else .error .fields
  | 2 => if fld w 19 6 = 0 then accept (.reclaim (fieldAt w 13 6) (fieldAt w 7 6) (bitAt w 6) (bitAt w 5)) else .error .fields
  | 3 => if fld w 19 6 = 0 then accept (.cinvT (fieldAt w 13 6) (fieldAt w 7 6) (bitAt w 6) (bitAt w 5)) else .error .fields
  | 4 => if fld w 5 1 = 0 ∧ fld w 7 6 = 0 then accept (.lsub (fieldAt w 19 6) (fieldAt w 13 6) (bitAt w 6)) else .error .fields
  | 5 => if fld w 5 1 = 0 ∧ fld w 7 6 = 0 then accept (.lprq (fieldAt w 19 6) (fieldAt w 13 6) (bitAt w 6)) else .error .fields
  | 6 => if fld w 5 1 = 0 ∧ fld w 7 6 = 0 then accept (.stop (fieldAt w 19 6) (fieldAt w 13 6) (bitAt w 6)) else .error .fields
  | 7 => if fld w 5 1 = 0 ∧ fld w 7 6 = 0 then accept (.lres (fieldAt w 19 6) (fieldAt w 13 6) (bitAt w 6)) else .error .fields
  | _ => .error .fields

/-- LD; width 3 with the ldn bit decodes as ld.d (R211). -/
def decodeLd (w : Nat) : Except DecodeError Instr :=
  if fld w 9 1 = 0 ∨ fld w 10 2 = 3 then accept (.ld (fieldAt w 25 3) (fieldAt w 19 6) (fieldAt w 13 6) (bitAt w 12) (fieldAt w 10 2) (fieldAt w 0 9))
  else accept (.ldn (fieldAt w 25 3) (fieldAt w 19 6) (fieldAt w 13 6) (bitAt w 12) (fieldAt w 10 2) (fieldAt w 0 9))

/-- ST (R211). -/
def decodeSt (w : Nat) : Except DecodeError Instr :=
  accept (.st (fieldAt w 25 3) (fieldAt w 19 6) (fieldAt w 13 6) (bitAt w 12) (bitAt w 11) (fieldAt w 9 2) (fieldAt w 0 9))

/-- ORD: b[12] tells a store from a load; a load of width 3 with the ldn bit decodes as ld.d (R212). -/
def decodeOrd (w : Nat) : Except DecodeError Instr :=
  if fld w 5 1 = 0 ∧ fld w 7 2 = 0 then
    if fld w 12 1 = 1 then
      if fld w 9 1 = 0 then accept (.ordSt (fieldAt w 25 3) (fieldAt w 19 6) (fieldAt w 13 6) (fieldAt w 10 2) (bitAt w 6) (fieldAt w 0 5)) else .error .fields
    else if fld w 9 1 = 0 ∨ fld w 10 2 = 3 then accept (.ordLd (fieldAt w 25 3) (fieldAt w 19 6) (fieldAt w 13 6) (fieldAt w 10 2) (bitAt w 6) (fieldAt w 0 5))
    else accept (.ordLdn (fieldAt w 25 3) (fieldAt w 19 6) (fieldAt w 13 6) (fieldAt w 10 2) (bitAt w 6) (fieldAt w 0 5))
  else .error .fields

/-- AMO (R213). -/
def decodeAmo (w : Nat) : Except DecodeError Instr :=
  match fld w 9 4 with
  | 0 => if fld w 5 1 = 0 ∧ fld w 7 1 = 0 then accept (.amoAdd (fieldAt w 25 3) (fieldAt w 19 6) (fieldAt w 13 6) (bitAt w 8) (bitAt w 6) (fieldAt w 0 5)) else .error .fields
  | 1 => if fld w 5 1 = 0 ∧ fld w 7 1 = 0 then accept (.amoMin (fieldAt w 25 3) (fieldAt w 19 6) (fieldAt w 13 6) (bitAt w 8) (bitAt w 6) (fieldAt w 0 5)) else .error .fields
  | 2 => if fld w 5 1 = 0 ∧ fld w 7 1 = 0 then accept (.amoMax (fieldAt w 25 3) (fieldAt w 19 6) (fieldAt w 13 6) (bitAt w 8) (bitAt w 6) (fieldAt w 0 5)) else .error .fields
  | 3 => if fld w 5 1 = 0 ∧ fld w 7 1 = 0 then accept (.amoMinn (fieldAt w 25 3) (fieldAt w 19 6) (fieldAt w 13 6) (bitAt w 8) (bitAt w 6) (fieldAt w 0 5)) else .error .fields
  | 4 => if fld w 5 1 = 0 ∧ fld w 7 1 = 0 then accept (.amoMaxn (fieldAt w 25 3) (fieldAt w 19 6) (fieldAt w 13 6) (bitAt w 8) (bitAt w 6) (fieldAt w 0 5)) else .error .fields
  | 5 => if fld w 5 1 = 0 ∧ fld w 7 1 = 0 then accept (.amoAnd (fieldAt w 25 3) (fieldAt w 19 6) (fieldAt w 13 6) (bitAt w 8) (bitAt w 6) (fieldAt w 0 5)) else .error .fields
  | 6 => if fld w 5 1 = 0 ∧ fld w 7 1 = 0 then accept (.amoOr (fieldAt w 25 3) (fieldAt w 19 6) (fieldAt w 13 6) (bitAt w 8) (bitAt w 6) (fieldAt w 0 5)) else .error .fields
  | 7 => if fld w 5 1 = 0 ∧ fld w 7 1 = 0 then accept (.amoXor (fieldAt w 25 3) (fieldAt w 19 6) (fieldAt w 13 6) (bitAt w 8) (bitAt w 6) (fieldAt w 0 5)) else .error .fields
  | 8 => if fld w 5 1 = 0 ∧ fld w 7 1 = 0 then accept (.amoXchg (fieldAt w 25 3) (fieldAt w 19 6) (fieldAt w 13 6) (bitAt w 8) (bitAt w 6) (fieldAt w 0 5)) else .error .fields
  | 9 => if fld w 5 1 = 0 ∧ fld w 7 2 = 0 then accept (.amoFaddS (fieldAt w 25 3) (fieldAt w 19 6) (fieldAt w 13 6) (bitAt w 6) (fieldAt w 0 5)) else .error .fields
  | 10 => if fld w 5 1 = 0 ∧ fld w 7 2 = 0 then accept (.amoFaddBf (fieldAt w 25 3) (fieldAt w 19 6) (fieldAt w 13 6) (bitAt w 6) (fieldAt w 0 5)) else .error .fields
  | 11 => if fld w 5 1 = 0 ∧ fld w 7 1 = 0 ∧ fld w 19 1 = 0 then accept (.cas (fieldAt w 25 3) (fieldAt w 20 5) (fieldAt w 13 6) (bitAt w 8) (bitAt w 6) (fieldAt w 0 5)) else .error .fields
  | _ => .error .fields

/-- LDX (R214). -/
def decodeLdx (w : Nat) : Except DecodeError Instr :=
  if fld w 0 5 = 0 then accept (.ldx (fieldAt w 25 3) (fieldAt w 19 6) (fieldAt w 13 6) (fieldAt w 7 6) (bitAt w 6) (bitAt w 5)) else .error .fields

/-- STX (R214). -/
def decodeStx (w : Nat) : Except DecodeError Instr :=
  if fld w 0 5 = 0 then accept (.stx (fieldAt w 25 3) (fieldAt w 19 6) (fieldAt w 13 6) (fieldAt w 7 6) (bitAt w 6) (bitAt w 5)) else .error .fields

/-- WAITA (R214). -/
def decodeWaita (w : Nat) : Except DecodeError Instr :=
  accept (.waita (fieldAt w 25 3) (fieldAt w 19 6) (fieldAt w 13 6) (fieldAt w 7 6) (bitAt w 6) (bitAt w 5) (fieldAt w 0 5))

/-- WAITGE (R214). -/
def decodeWaitge (w : Nat) : Except DecodeError Instr :=
  accept (.waitge (fieldAt w 25 3) (fieldAt w 19 6) (fieldAt w 13 6) (fieldAt w 7 6) (bitAt w 6) (bitAt w 5) (fieldAt w 0 5))

/-- ENG (0x3E): the queue field is judged first (R119, R218, R222 step 2), then the command's own fields. -/
def decodeEng (w : Nat) : Except DecodeError Instr :=
  let q := fld w 8 3
  if 5 ≤ q then .error (.queueCode q)
  else if 64 ≤ fld w 0 8 ∧ fld w 0 8 ≤ 127 then
    if q = 4 then accept (.mma (fieldAt w 19 6) (fieldAt w 13 6) (bitAt w 12) (bitAt w 11) (fieldAt w 2 4) (bitAt w 1) (bitAt w 0))
    else if 6 < fld w 2 4 then .error .fields else .error (.queueMismatch q)
  else
  match fld w 0 8 with
  | 1 => if q ≤ 1 then accept (.cpy (fieldAt w 19 6) (fieldAt w 13 6) (bitAt w 12) (bitAt w 11) (bitAt w 8)) else .error (.queueMismatch q)
  | 2 => if q ≤ 1 then accept (.qnt (fieldAt w 19 6) (fieldAt w 13 6) (bitAt w 12) (bitAt w 11) (bitAt w 8)) else .error (.queueMismatch q)
  | 8 => if q = 2 then accept (.gath (fieldAt w 19 6) (fieldAt w 13 6) (bitAt w 12) (bitAt w 11)) else .error (.queueMismatch q)
  | 9 => if q = 2 then accept (.scat (fieldAt w 19 6) (fieldAt w 13 6) (bitAt w 12) (bitAt w 11)) else .error (.queueMismatch q)
  | 16 => if q = 3 then accept (.slsend (fieldAt w 19 6) (fieldAt w 13 6) (bitAt w 12) (bitAt w 11)) else .error (.queueMismatch q)
  | 24 => if q = 4 then if fld w 11 1 = 0 ∧ fld w 13 6 = 0 then accept (.tclm (fieldAt w 19 6) (bitAt w 12)) else .error .fields else .error (.queueMismatch q)
  | 25 => if q = 4 then accept (.tld (fieldAt w 19 6) (fieldAt w 13 6) (bitAt w 12) (bitAt w 11)) else .error (.queueMismatch q)
  | 26 => if q = 4 then if fld w 11 1 = 0 ∧ fld w 13 6 = 0 then accept (.trel (fieldAt w 19 6) (bitAt w 12)) else .error .fields else .error (.queueMismatch q)
  | 27 => if q = 4 then if fld w 11 1 = 0 ∧ fld w 13 6 = 0 then accept (.aclr (fieldAt w 19 6) (bitAt w 12)) else .error .fields else .error (.queueMismatch q)
  | 28 => if q = 4 then accept (.acst (fieldAt w 19 6) (fieldAt w 13 6) (bitAt w 12) (bitAt w 11)) else .error (.queueMismatch q)
  | 29 => if q = 4 then accept (.acld (fieldAt w 19 6) (fieldAt w 13 6) (bitAt w 12) (bitAt w 11)) else .error (.queueMismatch q)
  | _ => .error .fields

/-- Decoding of one 32-bit word (R222 steps 1 and 2): the primary opcode, then the fields. -/
def decodeNat (w : Nat) : Except DecodeError Instr :=
  match fld w 25 7 with
  | 0 | 1 => decodeInt w
  | 2 => decodeCmp w
  | 3 => decodePtr w
  | 4 => decodeLi w
  | 5 => decodeLic w
  | 6 => decodeCmpi w
  | 7 => decodeAddpImm w
  | 8 => decodeAddImm w
  | 9 => decodeAndImm w
  | 10 => decodeOrImm w
  | 11 => decodeXorImm w
  | 12 => decodeShlImm w
  | 13 => decodeShrImm w
  | 14 => decodeSraImm w
  | 15 => decodeRotImm w
  | 16 => decodeBfx w
  | 17 => decodeBfi w
  | 24 => decodeBp w
  | 25 => decodeCall w
  | 26 => decodePbr w
  | 27 => decodeCtrl w
  | 29 => decodeRpt w
  | 32 => decodeFadd w
  | 33 => decodeFsub w
  | 34 => decodeFmul w
  | 35 => decodeFdiv w
  | 36 => decodeFma w
  | 37 => decodeFms w
  | 38 => decodeFnma w
  | 39 => decodeFun w
  | 40 => decodeFcv w
  | 41 => decodeFmisc w
  | 48 => decodePint w
  | 49 => decodePflt w
  | 50 => decodePmisc w
  | 56 => decodeMfs w
  | 57 => decodeMts w
  | 58 => decodeSync w
  | 59 => decodeMemx w
  | 60 => decodeSys w
  | 61 => decodeSup w
  | 64 | 65 | 66 | 67 | 68 => decodeLd w
  | 72 | 73 | 74 | 75 | 76 => decodeSt w
  | 80 | 81 | 82 | 83 | 84 => decodeOrd w
  | 88 | 89 | 90 | 91 | 92 => decodeAmo w
  | 96 | 97 | 98 | 99 | 100 => decodeLdx w
  | 104 | 105 | 106 | 107 | 108 => decodeStx w
  | 112 | 113 | 114 | 115 | 116 | 117 | 118 | 119 => decodeWaita w
  | 120 | 121 | 122 | 123 | 124 | 125 | 126 | 127 => decodeWaitge w
  | 62 => decodeEng w
  | _ => .error .opcode

/-- Decoding of one instruction word. -/
def decode (w : Code) : Except DecodeError Instr := decodeNat w.toNat

/-- The little-endian word of four bytes (R4). -/
def wordOfBytes (b0 b1 b2 b3 : Byte) : Code := b3 ++ b2 ++ b1 ++ b0

/-- Decoding of a byte sequence: the instruction of its first four bytes and the bytes after them. -/
def decodeBytes : List Byte → Except DecodeError (Instr × List Byte)
  | b0 :: b1 :: b2 :: b3 :: rest =>
    match decode (wordOfBytes b0 b1 b2 b3) with
    | .ok i => .ok (i, rest)
    | .error e => .error e
  | _ => .error .truncated

/-- The bytes of a word as memory holds them, lowest address first (R4). -/
def bytesOfWord (w : Code) : List Byte :=
  [w.extractLsb' 0 8, w.extractLsb' 8 8, w.extractLsb' 16 8, w.extractLsb' 24 8]

/-- The instruction the decoder reads from an instruction whose bits are w, numbered as the opcode table numbers them.
A row of no bits is an event, and no word encodes one. -/
def decodeTableWord (nbits w : Nat) : Option Instr :=
  if nbits = 0 then none
  else
    match decodeBytes (bytesOfWord (BitVec.ofNat 32 w)) with
    | .ok (i, _) => some i
    | .error _ => none

/-- The word of an encoded instruction as a number: the fixed bits of its table row plus each field in its place
(R195 to R219). Events have no word. -/
def encodeNat : Instr → Option Nat
  | .add w d a b t u => some (0 + w.toNat * 33554432 + d.toNat * 524288 + a.toNat * 8192 + b.toNat * 128 + t.toNat * 64 + u.toNat * 32)
  | .sub w d a b t u => some (1 + w.toNat * 33554432 + d.toNat * 524288 + a.toNat * 8192 + b.toNat * 128 + t.toNat * 64 + u.toNat * 32)
  | .mul w d a b t u => some (2 + w.toNat * 33554432 + d.toNat * 524288 + a.toNat * 8192 + b.toNat * 128 + t.toNat * 64 + u.toNat * 32)
  | .mulh w d a b t u => some (3 + w.toNat * 33554432 + d.toNat * 524288 + a.toNat * 8192 + b.toNat * 128 + t.toNat * 64 + u.toNat * 32)
  | .mulhn w d a b t u => some (4 + w.toNat * 33554432 + d.toNat * 524288 + a.toNat * 8192 + b.toNat * 128 + t.toNat * 64 + u.toNat * 32)
  | .div w d a b t u => some (5 + w.toNat * 33554432 + d.toNat * 524288 + a.toNat * 8192 + b.toNat * 128 + t.toNat * 64 + u.toNat * 32)
  | .divn w d a b t u => some (6 + w.toNat * 33554432 + d.toNat * 524288 + a.toNat * 8192 + b.toNat * 128 + t.toNat * 64 + u.toNat * 32)
  | .rem w d a b t u => some (7 + w.toNat * 33554432 + d.toNat * 524288 + a.toNat * 8192 + b.toNat * 128 + t.toNat * 64 + u.toNat * 32)
  | .remn w d a b t u => some (8 + w.toNat * 33554432 + d.toNat * 524288 + a.toNat * 8192 + b.toNat * 128 + t.toNat * 64 + u.toNat * 32)
  | .and w d a b t u => some (9 + w.toNat * 33554432 + d.toNat * 524288 + a.toNat * 8192 + b.toNat * 128 + t.toNat * 64 + u.toNat * 32)
  | .or w d a b t u => some (10 + w.toNat * 33554432 + d.toNat * 524288 + a.toNat * 8192 + b.toNat * 128 + t.toNat * 64 + u.toNat * 32)
  | .xor w d a b t u => some (11 + w.toNat * 33554432 + d.toNat * 524288 + a.toNat * 8192 + b.toNat * 128 + t.toNat * 64 + u.toNat * 32)
  | .andn w d a b t u => some (12 + w.toNat * 33554432 + d.toNat * 524288 + a.toNat * 8192 + b.toNat * 128 + t.toNat * 64 + u.toNat * 32)
  | .orn w d a b t u => some (13 + w.toNat * 33554432 + d.toNat * 524288 + a.toNat * 8192 + b.toNat * 128 + t.toNat * 64 + u.toNat * 32)
  | .shl w d a b t u => some (14 + w.toNat * 33554432 + d.toNat * 524288 + a.toNat * 8192 + b.toNat * 128 + t.toNat * 64 + u.toNat * 32)
  | .shr w d a b t u => some (15 + w.toNat * 33554432 + d.toNat * 524288 + a.toNat * 8192 + b.toNat * 128 + t.toNat * 64 + u.toNat * 32)
  | .sra w d a b t u => some (16 + w.toNat * 33554432 + d.toNat * 524288 + a.toNat * 8192 + b.toNat * 128 + t.toNat * 64 + u.toNat * 32)
  | .rot w d a b t u => some (17 + w.toNat * 33554432 + d.toNat * 524288 + a.toNat * 8192 + b.toNat * 128 + t.toNat * 64 + u.toNat * 32)
  | .min w d a b t u => some (18 + w.toNat * 33554432 + d.toNat * 524288 + a.toNat * 8192 + b.toNat * 128 + t.toNat * 64 + u.toNat * 32)
  | .minn w d a b t u => some (19 + w.toNat * 33554432 + d.toNat * 524288 + a.toNat * 8192 + b.toNat * 128 + t.toNat * 64 + u.toNat * 32)
  | .max w d a b t u => some (20 + w.toNat * 33554432 + d.toNat * 524288 + a.toNat * 8192 + b.toNat * 128 + t.toNat * 64 + u.toNat * 32)
  | .maxn w d a b t u => some (21 + w.toNat * 33554432 + d.toNat * 524288 + a.toNat * 8192 + b.toNat * 128 + t.toNat * 64 + u.toNat * 32)
  | .clz w d a t => some (22 + w.toNat * 33554432 + d.toNat * 524288 + a.toNat * 8192 + t.toNat * 64)
  | .ctz w d a t => some (23 + w.toNat * 33554432 + d.toNat * 524288 + a.toNat * 8192 + t.toNat * 64)
  | .popc w d a t => some (24 + w.toNat * 33554432 + d.toNat * 524288 + a.toNat * 8192 + t.toNat * 64)
  | .brev w d a t => some (25 + w.toNat * 33554432 + d.toNat * 524288 + a.toNat * 8192 + t.toNat * 64)
  | .bswap w d a t => some (26 + w.toNat * 33554432 + d.toNat * 524288 + a.toNat * 8192 + t.toNat * 64)
  | .sext d a z t => some (27 + d.toNat * 524288 + a.toNat * 8192 + z.toNat * 128 + t.toNat * 64)
  | .zext d a z t => some (28 + d.toNat * 524288 + a.toNat * 8192 + z.toNat * 128 + t.toNat * 64)
  | .cmp c p a b t u => some (67108864 + c.toNat * 4194304 + p.toNat * 524288 + a.toNat * 8192 + b.toNat * 128 + t.toNat * 64 + u.toNat * 32)
  | .cmpW c p a b t u => some (67108865 + c.toNat * 4194304 + p.toNat * 524288 + a.toNat * 8192 + b.toNat * 128 + t.toNat * 64 + u.toNat * 32)
  | .pand d a b => some (67108866 + d.toNat * 524288 + a.toNat * 8192 + b.toNat * 128)
  | .por d a b => some (67108867 + d.toNat * 524288 + a.toNat * 8192 + b.toNat * 128)
  | .pxor d a b => some (67108868 + d.toNat * 524288 + a.toNat * 8192 + b.toNat * 128)
  | .pnot d a => some (67108869 + d.toNat * 524288 + a.toNat * 8192)
  | .movpToPred d a t => some (67108870 + d.toNat * 524288 + a.toNat * 8192 + t.toNat * 64)
  | .movpToGpr d a => some (67108871 + d.toNat * 524288 + a.toNat * 8192)
  | .sel d a b t u k => some (67108872 + d.toNat * 524288 + a.toNat * 8192 + b.toNat * 128 + t.toNat * 64 + u.toNat * 32 + k.toNat)
  | .addp d a b t u => some (100663296 + d.toNat * 524288 + a.toNat * 8192 + b.toNat * 128 + t.toNat * 64 + u.toNat * 32)
  | .setf d a b t u => some (100663297 + d.toNat * 524288 + a.toNat * 8192 + b.toNat * 128 + t.toNat * 64 + u.toNat * 32)
  | .getf d a t => some (100663298 + d.toNat * 524288 + a.toNat * 8192 + t.toNat * 64)
  | .settag d a b t u => some (100663299 + d.toNat * 524288 + a.toNat * 8192 + b.toNat * 128 + t.toNat * 64 + u.toNat * 32)
  | .gettag d a t => some (100663300 + d.toNat * 524288 + a.toNat * 8192 + t.toNat * 64)
  | .addpImm d a t i => some (234881024 + d.toNat * 524288 + a.toNat * 8192 + t.toNat * 4096 + i.toNat)
  | .li d i => some (134217728 + d.toNat * 524288 + i.toNat)
  | .lic d i => some (167772160 + d.toNat * 524288 + i.toNat)
  | .cmpi c p a t i => some (201326592 + c.toNat * 4194304 + p.toNat * 524288 + a.toNat * 8192 + t.toNat * 4096 + i.toNat)
  | .addImm d a t i => some (268435456 + d.toNat * 524288 + a.toNat * 8192 + t.toNat * 4096 + i.toNat)
  | .andImm d a t i => some (301989888 + d.toNat * 524288 + a.toNat * 8192 + t.toNat * 4096 + i.toNat)
  | .orImm d a t i => some (335544320 + d.toNat * 524288 + a.toNat * 8192 + t.toNat * 4096 + i.toNat)
  | .xorImm d a t i => some (369098752 + d.toNat * 524288 + a.toNat * 8192 + t.toNat * 4096 + i.toNat)
  | .shlImm d a t k => some (402653184 + d.toNat * 524288 + a.toNat * 8192 + t.toNat * 4096 + k.toNat)
  | .shrImm d a t k => some (436207616 + d.toNat * 524288 + a.toNat * 8192 + t.toNat * 4096 + k.toNat)
  | .sraImm d a t k => some (469762048 + d.toNat * 524288 + a.toNat * 8192 + t.toNat * 4096 + k.toNat)
  | .rotImm d a t k => some (503316480 + d.toNat * 524288 + a.toNat * 8192 + t.toNat * 4096 + k.toNat)
  | .bfx d a t p l => some (536870912 + d.toNat * 524288 + a.toNat * 8192 + t.toNat * 4096 + p.toNat * 64 + l.toNat)
  | .bfi d a t p l => some (570425344 + d.toNat * 524288 + a.toNat * 8192 + t.toNat * 4096 + p.toNat * 64 + l.toNat)
  | .bp p n o => some (805306368 + p.toNat * 4194304 + n.toNat * 2097152 + o.toNat)
  | .call o => some (838860800 + o.toNat)
  | .pbr k i => some (872415232 + k.toNat * 524288 + i.toNat)
  | .nop => some (905969664)
  | .jb k => some (905969665 + k.toNat * 8192)
  | .jbp n j k => some (905969666 + n.toNat * 4194304 + j.toNat * 524288 + k.toNat * 8192)
  | .callb k => some (905969667 + k.toNat * 8192)
  | .ret => some (905969668)
  | .pbt k a t => some (905969669 + k.toNat * 524288 + a.toNat * 8192 + t.toNat * 64)
  | .quit => some (905969670)
  | .yield => some (905969671)
  | .rejoin n => some (905969672 + n.toNat * 128)
  | .trap c => some (905969673 + c.toNat * 128)
  | .ecall c => some (905969674 + c.toNat * 128)
  | .tret => some (905969675)
  | .rpt c d a b => some (973078528 + c.toNat * 524288 + d.toNat * 131072 + a.toNat * 32768 + b.toNat * 8192)
  | .fadd d a b t u w m => some (1073741824 + d.toNat * 524288 + a.toNat * 8192 + b.toNat * 128 + t.toNat * 64 + u.toNat * 32 + w.toNat * 8 + m.toNat)
  | .fsub d a b t u w m => some (1107296256 + d.toNat * 524288 + a.toNat * 8192 + b.toNat * 128 + t.toNat * 64 + u.toNat * 32 + w.toNat * 8 + m.toNat)
  | .fmul d a b t u w m => some (1140850688 + d.toNat * 524288 + a.toNat * 8192 + b.toNat * 128 + t.toNat * 64 + u.toNat * 32 + w.toNat * 8 + m.toNat)
  | .fdiv d a b t u w m => some (1174405120 + d.toNat * 524288 + a.toNat * 8192 + b.toNat * 128 + t.toNat * 64 + u.toNat * 32 + w.toNat * 8 + m.toNat)
  | .fma d a b t u w m => some (1207959552 + d.toNat * 524288 + a.toNat * 8192 + b.toNat * 128 + t.toNat * 64 + u.toNat * 32 + w.toNat * 8 + m.toNat)
  | .fms d a b t u w m => some (1241513984 + d.toNat * 524288 + a.toNat * 8192 + b.toNat * 128 + t.toNat * 64 + u.toNat * 32 + w.toNat * 8 + m.toNat)
  | .fnma d a b t u w m => some (1275068416 + d.toNat * 524288 + a.toNat * 8192 + b.toNat * 128 + t.toNat * 64 + u.toNat * 32 + w.toNat * 8 + m.toNat)
  | .fsqrt d a t w m => some (1308622848 + d.toNat * 524288 + a.toNat * 8192 + t.toNat * 64 + w.toNat * 8 + m.toNat)
  | .frcp d a t w m => some (1308623872 + d.toNat * 524288 + a.toNat * 8192 + t.toNat * 64 + w.toNat * 8 + m.toNat)
  | .frsq d a t w m => some (1308624896 + d.toNat * 524288 + a.toNat * 8192 + t.toNat * 64 + w.toNat * 8 + m.toNat)
  | .fex2 d a t w m => some (1308625920 + d.toNat * 524288 + a.toNat * 8192 + t.toNat * 64 + w.toNat * 8 + m.toNat)
  | .flg2 d a t w m => some (1308626944 + d.toNat * 524288 + a.toNat * 8192 + t.toNat * 64 + w.toNat * 8 + m.toNat)
  | .fsin d a t w m => some (1308627968 + d.toNat * 524288 + a.toNat * 8192 + t.toNat * 64 + w.toNat * 8 + m.toNat)
  | .fcos d a t w m => some (1308628992 + d.toNat * 524288 + a.toNat * 8192 + t.toNat * 64 + w.toNat * 8 + m.toNat)
  | .fcvt d a s t w m => some (1342177280 + d.toNat * 524288 + a.toNat * 8192 + s.toNat * 128 + t.toNat * 64 + w.toNat * 8 + m.toNat)
  | .fcvti d a i t w m => some (1342179328 + d.toNat * 524288 + a.toNat * 8192 + i.toNat * 128 + t.toNat * 64 + w.toNat * 8 + m.toNat)
  | .ficvt d a i t w m => some (1342181376 + d.toNat * 524288 + a.toNat * 8192 + i.toNat * 128 + t.toNat * 64 + w.toNat * 8 + m.toNat)
  | .fmin d a b t u w => some (1375731712 + d.toNat * 524288 + a.toNat * 8192 + b.toNat * 128 + t.toNat * 64 + u.toNat * 32 + w.toNat)
  | .fmax d a b t u w => some (1375731716 + d.toNat * 524288 + a.toNat * 8192 + b.toNat * 128 + t.toNat * 64 + u.toNat * 32 + w.toNat)
  | .fneg d a t w => some (1375731720 + d.toNat * 524288 + a.toNat * 8192 + t.toNat * 64 + w.toNat)
  | .fcmp c p a b t u w => some (1375731724 + c.toNat * 4194304 + p.toNat * 524288 + a.toNat * 8192 + b.toNat * 128 + t.toNat * 64 + u.toNat * 32 + w.toNat)
  | .fclass d a t w => some (1375731728 + d.toNat * 524288 + a.toNat * 8192 + t.toNat * 64 + w.toNat)
  | .padd d a b t u l => some (1610612736 + d.toNat * 524288 + a.toNat * 8192 + b.toNat * 128 + t.toNat * 64 + u.toNat * 32 + l.toNat)
  | .psub d a b t u l => some (1610612740 + d.toNat * 524288 + a.toNat * 8192 + b.toNat * 128 + t.toNat * 64 + u.toNat * 32 + l.toNat)
  | .pmul d a b t u l => some (1610612744 + d.toNat * 524288 + a.toNat * 8192 + b.toNat * 128 + t.toNat * 64 + u.toNat * 32 + l.toNat)
  | .pmin d a b t u l => some (1610612748 + d.toNat * 524288 + a.toNat * 8192 + b.toNat * 128 + t.toNat * 64 + u.toNat * 32 + l.toNat)
  | .pmax d a b t u l => some (1610612752 + d.toNat * 524288 + a.toNat * 8192 + b.toNat * 128 + t.toNat * 64 + u.toNat * 32 + l.toNat)
  | .pdot4 d a b t u => some (1610612756 + d.toNat * 524288 + a.toNat * 8192 + b.toNat * 128 + t.toNat * 64 + u.toNat * 32)
  | .pfadd d a b t u l => some (1644167168 + d.toNat * 524288 + a.toNat * 8192 + b.toNat * 128 + t.toNat * 64 + u.toNat * 32 + l.toNat)
  | .pfmul d a b t u l => some (1644167172 + d.toNat * 524288 + a.toNat * 8192 + b.toNat * 128 + t.toNat * 64 + u.toNat * 32 + l.toNat)
  | .pfma d a b t u l => some (1644167176 + d.toNat * 524288 + a.toNat * 8192 + b.toNat * 128 + t.toNat * 64 + u.toNat * 32 + l.toNat)
  | .pshuf d a b t u v => some (1677721600 + d.toNat * 524288 + a.toNat * 8192 + b.toNat * 128 + t.toNat * 64 + u.toNat * 32 + v.toNat)
  | .ppack d a b t u v => some (1677721604 + d.toNat * 524288 + a.toNat * 8192 + b.toNat * 128 + t.toNat * 64 + u.toNat * 32 + v.toNat)
  | .punpk d a t v => some (1677721608 + d.toNat * 524288 + a.toNat * 8192 + t.toNat * 64 + v.toNat)
  | .pfcvt d a b t u k => some (1677721612 + d.toNat * 524288 + a.toNat * 8192 + b.toNat * 128 + t.toNat * 64 + u.toNat * 32 + k.toNat)
  | .bxd d a b t u k => some (1677721616 + d.toNat * 524288 + a.toNat * 8192 + b.toNat * 128 + t.toNat * 64 + u.toNat * 32 + k.toNat)
  | .mfs d n => some (1879048192 + d.toNat * 524288 + n.toNat)
  | .mts a t n => some (1912602624 + a.toNat * 8192 + t.toNat * 4096 + n.toNat)
  | .fence o => some (1946157056 + o.toNat * 128)
  | .qfence m => some (1946157057 + m.toNat * 128)
  | .cwb a b t u => some (1946157058 + a.toNat * 8192 + b.toNat * 128 + t.toNat * 64 + u.toNat * 32)
  | .cinv a b t u => some (1946157059 + a.toNat * 8192 + b.toNat * 128 + t.toNat * 64 + u.toNat * 32)
  | .icinv a b t u => some (1946157060 + a.toNat * 8192 + b.toNat * 128 + t.toNat * 64 + u.toNat * 32)
  | .ifence => some (1946157061)
  | .drain => some (1946157062)
  | .arrive s a b t u => some (1946157063 + s.toNat * 524288 + a.toNat * 8192 + b.toNat * 128 + t.toNat * 64 + u.toNat * 32)
  | .bar => some (1946157064)
  | .barc a t => some (1946157065 + a.toNat * 8192 + t.toNat * 64)
  | .muster d => some (1946157066 + d.toNat * 524288)
  | .disband => some (1946157067)
  | .ldb d a k t y => some (1979711488 + d.toNat * 524288 + a.toNat * 8192 + k.toNat * 128 + t.toNat * 64 + y.toNat)
  | .stb s a k t w => some (1979711496 + s.toNat * 524288 + a.toNat * 8192 + k.toNat * 128 + t.toNat * 64 + w.toNat)
  | .mkd k a b t u => some (1979711500 + k.toNat * 524288 + a.toNat * 8192 + b.toNat * 128 + t.toNat * 64 + u.toNat * 32)
  | .dnar k a b t u => some (1979711501 + k.toNat * 524288 + a.toNat * 8192 + b.toNat * 128 + t.toNat * 64 + u.toNat * 32)
  | .stn s a t f => some (1979711488 + s.toNat * 524288 + a.toNat * 8192 + t.toNat * 64 + f.toNat)
  | .stg a b t u => some (1979711506 + a.toNat * 8192 + b.toNat * 128 + t.toNat * 64 + u.toNat * 32)
  | .ldg d a t => some (1979711507 + d.toNat * 524288 + a.toNat * 8192 + t.toNat * 64)
  | .rtag d a b t u => some (1979711508 + d.toNat * 524288 + a.toNat * 8192 + b.toNat * 128 + t.toNat * 64 + u.toNat * 32)
  | .mfe d k => some (2013265920 + d.toNat * 524288 + k.toNat * 8192)
  | .mte k a t => some (2013265921 + k.toNat * 524288 + a.toNat * 8192 + t.toNat * 64)
  | .spawn d a b t u => some (2013265922 + d.toNat * 524288 + a.toNat * 8192 + b.toNat * 128 + t.toNat * 64 + u.toNat * 32)
  | .spawnCl d a b t u => some (2013265923 + d.toNat * 524288 + a.toNat * 8192 + b.toNat * 128 + t.toNat * 64 + u.toNat * 32)
  | .taga d a b t u => some (2013265924 + d.toNat * 524288 + a.toNat * 8192 + b.toNat * 128 + t.toNat * 64 + u.toNat * 32)
  | .tagf a b t u => some (2013265925 + a.toNat * 8192 + b.toNat * 128 + t.toNat * 64 + u.toNat * 32)
  | .qstat d q => some (2013265926 + d.toNat * 524288 + q.toNat * 128)
  | .unpark d a t => some (2046820352 + d.toNat * 524288 + a.toNat * 8192 + t.toNat * 64)
  | .kill a t => some (2046820353 + a.toNat * 8192 + t.toNat * 64)
  | .reclaim a b t u => some (2046820354 + a.toNat * 8192 + b.toNat * 128 + t.toNat * 64 + u.toNat * 32)
  | .cinvT a b t u => some (2046820355 + a.toNat * 8192 + b.toNat * 128 + t.toNat * 64 + u.toNat * 32)
  | .lsub d a t => some (2046820356 + d.toNat * 524288 + a.toNat * 8192 + t.toNat * 64)
  | .lprq d a t => some (2046820357 + d.toNat * 524288 + a.toNat * 8192 + t.toNat * 64)
  | .stop d a t => some (2046820358 + d.toNat * 524288 + a.toNat * 8192 + t.toNat * 64)
  | .lres d a t => some (2046820359 + d.toNat * 524288 + a.toNat * 8192 + t.toNat * 64)
  | .cpy a b t u q => some (2080374785 + a.toNat * 524288 + b.toNat * 8192 + t.toNat * 4096 + u.toNat * 2048 + q.toNat * 256)
  | .qnt a b t u q => some (2080374786 + a.toNat * 524288 + b.toNat * 8192 + t.toNat * 4096 + u.toNat * 2048 + q.toNat * 256)
  | .gath a b t u => some (2080375304 + a.toNat * 524288 + b.toNat * 8192 + t.toNat * 4096 + u.toNat * 2048)
  | .scat a b t u => some (2080375305 + a.toNat * 524288 + b.toNat * 8192 + t.toNat * 4096 + u.toNat * 2048)
  | .slsend a b t u => some (2080375568 + a.toNat * 524288 + b.toNat * 8192 + t.toNat * 4096 + u.toNat * 2048)
  | .tclm a t => some (2080375832 + a.toNat * 524288 + t.toNat * 4096)
  | .tld a b t u => some (2080375833 + a.toNat * 524288 + b.toNat * 8192 + t.toNat * 4096 + u.toNat * 2048)
  | .trel a t => some (2080375834 + a.toNat * 524288 + t.toNat * 4096)
  | .aclr a t => some (2080375835 + a.toNat * 524288 + t.toNat * 4096)
  | .acst a b t u => some (2080375836 + a.toNat * 524288 + b.toNat * 8192 + t.toNat * 4096 + u.toNat * 2048)
  | .acld a b t u => some (2080375837 + a.toNat * 524288 + b.toNat * 8192 + t.toNat * 4096 + u.toNat * 2048)
  | .mma a b t u c x h => some (2080375872 + a.toNat * 524288 + b.toNat * 8192 + t.toNat * 4096 + u.toNat * 2048 + c.toNat * 4 + x.toNat * 2 + h.toNat)
  | .ld p d a t w k => some (2147483648 + p.toNat * 33554432 + d.toNat * 524288 + a.toNat * 8192 + t.toNat * 4096 + w.toNat * 1024 + k.toNat)
  | .ldn p d a t w k => some (2147484160 + p.toNat * 33554432 + d.toNat * 524288 + a.toNat * 8192 + t.toNat * 4096 + w.toNat * 1024 + k.toNat)
  | .st p s a t u w k => some (2415919104 + p.toNat * 33554432 + s.toNat * 524288 + a.toNat * 8192 + t.toNat * 4096 + u.toNat * 2048 + w.toNat * 512 + k.toNat)
  | .ordLd p d a w t o => some (2684354560 + p.toNat * 33554432 + d.toNat * 524288 + a.toNat * 8192 + w.toNat * 1024 + t.toNat * 64 + o.toNat)
  | .ordLdn p d a w t o => some (2684355072 + p.toNat * 33554432 + d.toNat * 524288 + a.toNat * 8192 + w.toNat * 1024 + t.toNat * 64 + o.toNat)
  | .ordSt p s a w t o => some (2684358656 + p.toNat * 33554432 + s.toNat * 524288 + a.toNat * 8192 + w.toNat * 1024 + t.toNat * 64 + o.toNat)
  | .amoAdd p d a w t f => some (2952790016 + p.toNat * 33554432 + d.toNat * 524288 + a.toNat * 8192 + w.toNat * 256 + t.toNat * 64 + f.toNat)
  | .amoMin p d a w t f => some (2952790528 + p.toNat * 33554432 + d.toNat * 524288 + a.toNat * 8192 + w.toNat * 256 + t.toNat * 64 + f.toNat)
  | .amoMax p d a w t f => some (2952791040 + p.toNat * 33554432 + d.toNat * 524288 + a.toNat * 8192 + w.toNat * 256 + t.toNat * 64 + f.toNat)
  | .amoMinn p d a w t f => some (2952791552 + p.toNat * 33554432 + d.toNat * 524288 + a.toNat * 8192 + w.toNat * 256 + t.toNat * 64 + f.toNat)
  | .amoMaxn p d a w t f => some (2952792064 + p.toNat * 33554432 + d.toNat * 524288 + a.toNat * 8192 + w.toNat * 256 + t.toNat * 64 + f.toNat)
  | .amoAnd p d a w t f => some (2952792576 + p.toNat * 33554432 + d.toNat * 524288 + a.toNat * 8192 + w.toNat * 256 + t.toNat * 64 + f.toNat)
  | .amoOr p d a w t f => some (2952793088 + p.toNat * 33554432 + d.toNat * 524288 + a.toNat * 8192 + w.toNat * 256 + t.toNat * 64 + f.toNat)
  | .amoXor p d a w t f => some (2952793600 + p.toNat * 33554432 + d.toNat * 524288 + a.toNat * 8192 + w.toNat * 256 + t.toNat * 64 + f.toNat)
  | .amoXchg p d a w t f => some (2952794112 + p.toNat * 33554432 + d.toNat * 524288 + a.toNat * 8192 + w.toNat * 256 + t.toNat * 64 + f.toNat)
  | .amoFaddS p d a t f => some (2952794624 + p.toNat * 33554432 + d.toNat * 524288 + a.toNat * 8192 + t.toNat * 64 + f.toNat)
  | .amoFaddBf p d a t f => some (2952795136 + p.toNat * 33554432 + d.toNat * 524288 + a.toNat * 8192 + t.toNat * 64 + f.toNat)
  | .cas p d a w t f => some (2952795648 + p.toNat * 33554432 + d.toNat * 1048576 + a.toNat * 8192 + w.toNat * 256 + t.toNat * 64 + f.toNat)
  | .ldx p d a b t u => some (3221225472 + p.toNat * 33554432 + d.toNat * 524288 + a.toNat * 8192 + b.toNat * 128 + t.toNat * 64 + u.toNat * 32)
  | .stx p s a b t u => some (3489660928 + p.toNat * 33554432 + s.toNat * 524288 + a.toNat * 8192 + b.toNat * 128 + t.toNat * 64 + u.toNat * 32)
  | .waita k d a b t u f => some (3758096384 + k.toNat * 33554432 + d.toNat * 524288 + a.toNat * 8192 + b.toNat * 128 + t.toNat * 64 + u.toNat * 32 + f.toNat)
  | .waitge k d a b t u f => some (4026531840 + k.toNat * 33554432 + d.toNat * 524288 + a.toNat * 8192 + b.toNat * 128 + t.toNat * 64 + u.toNat * 32 + f.toNat)
  | _ => none

/-- The word of an encoded instruction. -/
def encode (i : Instr) : Option Code := (encodeNat i).map (BitVec.ofNat 32)

end Sys2Proof
end

