-- ==== Sys2Proof/Config.lean ====
section
/-! DEFINITION. The constants of the SZ1680-M and the values the spec leaves free. A free value is an opaque constant:
nothing can evaluate it, so a claim that mentions it holds whatever it is. -/
namespace Sys2Proof.Config

/-- Bits of the device mask: features 0 to 15 (R162). -/
def deviceMask : Nat := 0xFFFF

/-- Bytes of HBM (R100). -/
def hbmBytes : Nat := 768 * 1073741824

/-- Replay entries of a thread (R81). -/
def replayDepth : Nat := 8

/-- Messages of a spawn inbox (R126). -/
def inboxDepth : Nat := 32

/-- Bytes of a core's pantry (R91). -/
def pantryBytes : Nat := 262144

/-- FREE VALUE (R236): the pseudo-random number that `rtag` draws; the argument counts the draws of the machine (log entry 6). -/
opaque rtagDraw : Nat → BitVec 64

/-- FREE VALUE (R149, R158): a byte of an area whose layout is internal to the device (saved launch state, an overflow
slot's header); the first argument is the address, the second the draw (log entry 9). -/
opaque internalByte : Nat → Nat → BitVec 8

/-- FREE VALUE (R126, R149): the 64-byte slot of the launch context at which the saved messages begin; the argument is the draw
(log entry 9). -/
opaque messageSlot : Nat → Nat

/-- FREE VALUE (R149): word k of what a restore finds in a context area that software has written; the arguments are the draw and
k (log entry 9). -/
opaque imageWord : Nat → Nat → BitVec 64

/-- FREE VALUE: which of the two neighbours a correctly rounded `fex2`, `flg2`, `fsin` or `fcos` takes where the
model's interval of the last precision does not decide (never for an argument the interval decides; log entry 15). -/
opaque roundUp : Nat → Nat → Bool

/-- FREE VALUE (R49, R280): the code `stx` writes into a typed block whose scale byte is a NaN scale; the argument is the stored
binary32 pattern (log entry 11). -/
opaque nanScaleCode : Nat → BitVec 8

/-- FREE FUNCTION (R357): whether an SLH-DSA-SHA2-192s signature verifies: key, message, signature (log entry 10). -/
opaque slhVerify : List (BitVec 8) → List (BitVec 8) → List (BitVec 8) → Bool

/-- FREE FUNCTION (R357): the vendor public key whose hash the ROM holds (log entry 10). -/
opaque vendorKey : List (BitVec 8)

/-- FREE FUNCTION (R358): byte k of the SLH-DSA-SHA2-192s signature of the identity key over a message (log entry 10). -/
opaque slhSign : List (BitVec 8) → Nat → BitVec 8

end Sys2Proof.Config
end

