-- ==== Sys2Proof/Machine/State.lean ====
section
/-! DEFINITION. The machine's state as plain data (the inventory's State section lists each field with its rule and reset
value). A container that the spec gives for every thread, core, line or address is a list of the entries that differ
from reset, keyed by number. `ranks` holds, for the events that one cycle orders among themselves, what has happened in this
cycle: the kind of event, its place, its rank (R155, R156, R159, R167). `late` holds the threads that were not ready when the
cycle began, which a pick of the cycle passes over (R22). `moves`, `issue`, `picks`, `cur`, `ir`, `fresh` and `draws` are the model's own
(log entries 1 and 2). -/
namespace Sys2Proof.Machine

/-- Why the machine stops. -/
inductive Fault where
  /-- an instruction was executed though no thread is current; raised by every meaning of an encoded instruction.
  Safe: `step` executes one only with a live current thread. -/
  | noThread
  deriving DecidableEq, Repr

/-- Why an instruction is refused. -/
inductive Refusal where
  /-- no meaning yet for this row of the opcode table; raised only by an arm of the dispatch. Safe. -/
  | notModelled (mnemonic : String)
  deriving DecidableEq, Repr

/-- The read frontier of an agent: for each location listed, identifiers of the writes seen (R175, R176); a location not
listed holds its initial write. -/
abbrev Frontier := List (Nat × List Nat)

/-- An agent of the ordering machine (R175, R177). -/
inductive Agent where
  | thread (loc : Nat)
  | queue (core code : Nat)
  | matrix (row gang : Nat)
  | sluice (die : Nat)
  | memory
  | peer
  deriving DecidableEq, Repr

/-- A publication: the frontier, scope (0 thread to 5 system) and releasing agent of a released write (R175, R181). -/
structure Label where
  front : Frontier
  scope : Nat
  agent : Agent
  deriving DecidableEq, Repr

/-- A write that has entered the write set of one byte: its identifier, value, the identifiers below it and its label. -/
structure WriteRec where
  id    : Nat
  val   : Byte
  below : List Nat
  label : Option Label
  deriving DecidableEq, Repr

/-- The write set of one byte: the initial value (write 0), which `reclaim` closes to every reader (R193), and the writes entered
since, newest first (R175). -/
structure WriteSet where
  init   : Byte
  closed : Bool
  writes : List WriteRec
  deriving DecidableEq, Repr

/-- A pending or marked synchronous trap: cause, subcause, information, address (R77, R82). -/
structure TrapReq where
  cause : Nat
  sub   : Nat
  info  : Word
  faddr : Word
  deriving DecidableEq, Repr

/-- The full/empty state of a general register (R64). -/
inductive RegState where
  | full
  | owed
  | unowed
  deriving DecidableEq, Repr

/-- The state of a replay entry (R81). -/
inductive EntryState where
  | pending
  | done
  | faulted
  | poisoned
  deriving DecidableEq, Repr

/-- Where a pending entry's access stands: its access still to be made, its value read with the reply in transit, a
recoverable fault or a poisoned reply in transit, or performed at its point of performance. -/
inductive Flight where
  | waiting
  | read
  | faulting
  | poisoning
  | sent
  deriving DecidableEq, Repr

/-- Page attributes of a leaf (R102, R145). -/
structure Attrs where
  g  : Bool
  c  : Bool
  tc : Bool
  u  : Bool
  x  : Bool
  w  : Bool
  r  : Bool
  deriving DecidableEq, Repr

/-- One replay entry (R81, R83, R215): the instruction word, its address, the captured sources, the destination, the
state and value; and of the access in flight its virtual address or offset, fault or poison mark, wait start and draws, the places
with their pages' attributes of each of its accesses (by address) whose check has passed and is made no more (R104), the bytes that its
single-copy-atomic accesses have read so far (R178), and, while the reply of a walk that failed is in transit, an address of the page
walked, for other misses to share the outcome (R105, R146). -/
structure ReplayEntry where
  id     : Nat
  word   : Code
  addr   : Word
  src1   : Word
  src2   : Word
  src3   : Word
  dst    : Reg
  state  : EntryState
  value  : Word
  flight : Flight
  mark   : Option TrapReq
  fault  : Word
  since  : Word
  pred   : Bool
  desc   : BitVec 128
  places : List (Nat × List Nat × List Attrs)
  got    : List (Nat × Byte)
  walk   : Option Nat
  deriving DecidableEq, Repr

/-- One store-buffer or non-temporal entry: bytes of one aligned 8-byte unit as (location, value, bit mask), the
page's cacheability, the release scope, sequential consistency (R179, R184), the first entry of its store, and whether that store
has been counted as dropped at the entry's line (R173). -/
structure StoreEntry where
  id        : Nat
  cells     : List (Nat × Byte × Byte)
  cacheable : Bool
  va        : Nat
  release   : Option Nat
  seq       : Bool
  store     : Nat
  counted   : Bool
  deriving DecidableEq, Repr

/-- A `muster` that waits for its gang (R36): its place in the order of issues, its cycle, its destination. -/
structure MusterWait where
  stamp : Nat
  cycle : Word
  dst   : Reg
  deriving DecidableEq, Repr

/-- A member's part of a gang command that has not gathered all four members (R37, R311). -/
structure GangCmd where
  word  : Code
  a     : Word
  b     : Word
  block : List Word
  stamp : Nat
  deriving DecidableEq, Repr

/-- A thread context that holds a thread (R21, R62), keyed by its locator. `stamp` is the place in the order of issues of an engine command
that stands in `guard` (R120). -/
structure Thread where
  pc        : BitVec 48
  g         : Vector Word 64
  gs        : Vector RegState 64
  p         : BitVec 8
  b         : Vector Word 8
  d         : Vector (BitVec 128) 16
  e         : Vector Word 16
  status    : Word
  gid       : Word
  launch    : Word
  part      : Nat
  asid      : Nat
  fcsr      : Word
  alcove    : Word
  pix       : Word
  tfp       : Word
  cause     : Word
  info      : Word
  faddr     : Word
  save0     : Word
  save1     : Word
  watch0    : Word
  watch1    : Word
  cyc       : Word
  started   : Word
  replay    : List ReplayEntry
  oplog     : List (Reg × Word)
  sb        : List StoreEntry
  nt        : List StoreEntry
  front     : Frontier
  obs       : List Label
  fence     : Option Label
  joined    : List (Nat × Frontier)
  alcBank   : Nat
  grp       : Option Nat
  linger    : Option Word
  issueAt   : Word
  rep       : Option Nat
  check     : Option Code
  guard     : Option Code
  stamp     : Nat
  trapReq   : Option TrapReq
  stop      : Bool
  held      : Option Nat
  recordOwed : Bool
  gang      : Option Nat
  muster    : Option MusterWait
  gangCmd   : Option GangCmd
  atBar     : Bool
  released  : Bool
  quitting  : Bool
  yielding  : Bool
  forced    : Bool
  passedA   : Nat
  passedM   : Nat
  deriving DecidableEq, Repr

/-- A spawn message (R126, R127), in flight, in an inbox or saved (then `slot` is its address in the launch context). -/
structure SpawnMsg where
  id      : Nat
  handler : Word
  parent  : Nat
  super   : Bool
  part    : Nat
  asid    : Nat
  launch  : Word
  gid     : Word
  grp     : Option Nat
  args    : Vector Word 4
  front   : Frontier
  target  : Nat
  cluster : Bool
  entry   : Nat
  slot    : Nat
  deriving DecidableEq, Repr

/-- A core's own state (R25, R76, R108, R126, R171, R173), keyed by locator bits [16:7]. A value that takes effect from the
next cycle (R171, R292) stands beside the one it replaces until the clock ticks. -/
structure Core where
  tvec       : Word
  tfbase     : Word
  tvecNext   : Option Word
  tfbaseNext : Option Word
  merge      : Word
  ptrA       : Nat
  ptrM       : Nat
  heldA      : Word
  pickA      : Word
  pickM      : Word
  genDie     : BitVec 4
  genPkg     : BitVec 4
  inbox      : List SpawnMsg
  errRegfile : Word
  errLocal   : Word
  errL1      : Word
  errDiscard : Word
  perf       : Vector Word 8
  select     : Word
  selectNext : Option Word
  deriving DecidableEq, Repr

/-- A valid line of an L1 data cache (R107, R108); its values are those of the write sets (R189), and `tagId` names the write whose tag it
copies (R106). -/
structure L1Line where
  core  : Nat
  va    : Nat
  asid  : Nat
  pa    : Nat
  attrs : Attrs
  tag   : BitVec 4
  tagId : Nat
  die   : BitVec 4
  pkg   : BitVec 4
  deriving DecidableEq, Repr

/-- A line of an L1 instruction cache (R109), which keeps the words it was filled with. -/
structure L1ILine where
  core  : Nat
  va    : Nat
  asid  : Nat
  pa    : Nat
  attrs : Attrs
  words : Vector Code 16
  deriving DecidableEq, Repr

/-- A line a die's L2 holds (R110); its bytes and its tag are those of the write sets (R189). -/
structure L2Line where
  die      : Nat
  pa       : Nat
  va       : Nat
  asid     : Nat
  attrs    : Attrs
  modified : Bool
  deriving DecidableEq, Repr

/-- A translation entry of one of the four units of a die (R105). -/
structure TlbEntry where
  die   : Nat
  unit  : Nat
  part  : Nat
  asid  : Nat
  base  : Nat
  bits  : Nat
  frame : Nat
  attrs : Attrs
  deriving DecidableEq, Repr

/-- A directory entry (R154) as its fields; a line not listed holds the all-zero entry. -/
structure DirEntry where
  state   : BitVec 2
  holders : BitVec 8
  fenced  : BitVec 8
  poison  : Bool
  lost    : Bool
  deriving DecidableEq, Repr

/-- What a message to a home asks for or tells: a read copy, the line modified, an access at the home, that a modified line is
written back and gone, or written back and kept shared (R285), that a shared copy is gone (R111, R155). -/
inductive HomeKind where
  | read
  | upgrade
  | noncacheable
  | writeback
  | cleaned
  | notice
  deriving DecidableEq, Repr

/-- A request at the home of a line: the requester, its kind, and the dies whose answer to a recall or invalidation is
outstanding with the cycle it was sent; a request with `served` false waits behind an earlier one (R155). -/
structure HomeTx where
  line   : Nat
  die    : Nat
  kind   : HomeKind
  served : Bool
  since  : Word
  waits  : List (Nat × Bool × Word)
  deriving DecidableEq, Repr

/-- An error invalidate for a die's copy of a line: the cycle last sent, whether it has been received (R113). -/
structure ErrInv where
  line     : Nat
  die      : Nat
  sentAt   : Word
  received : Bool
  deriving DecidableEq, Repr

/-- Where a slice's message stands: on its way, at the home, its answer on its way back (R113). -/
inductive MsgStage where
  | sent
  | home
  | answered
  deriving DecidableEq, Repr

/-- A slice's message to a home whose answer has not reached it (R113); of a request for whom it is sent, and the address, ASID and page
attributes by which that access reaches the line (R110). -/
structure SliceMsg where
  die    : Nat
  line   : Nat
  kind   : HomeKind
  sentAt : Word
  stage  : MsgStage
  va     : Nat
  asid   : Nat
  attrs  : Attrs
  asker  : Asker
  deriving DecidableEq, Repr

/-- A matrix gang of a row (R36 to R38, R291). -/
structure Gang where
  row     : Nat
  num     : Nat
  part    : Nat
  launch  : Nat
  members : List Nat
  left    : List Nat
  firstOut : Option Nat
  broken  : Option Nat
  deriving DecidableEq, Repr

/-- A larder slot that is not free (R94, R316). -/
structure Slot where
  row     : Nat
  num     : Nat
  gang    : Nat
  loading : Bool
  ready   : Bool
  fmt     : Nat
  blen    : Nat
  deriving DecidableEq, Repr

/-- A cellar share granted on a die (R93): its place in the carve-out and its size in MiB, and the number of its grant. -/
structure CellarShare where
  die   : Nat
  place : Nat
  mib   : Nat
  grant : Nat
  deriving DecidableEq, Repr

/-- The local windows of a thread as an engine entry records them (R90, R308, R383): the pantry share's bank or none, the
eight hall banks or none, the share size, the die, the cellar share or none. -/
structure Windows where
  alcove : Nat
  alcSize : Nat
  pantry : Option Nat
  hall   : Option Nat
  share  : Nat
  die    : Nat
  part   : Nat
  cellar : Option CellarShare
  deriving DecidableEq, Repr

/-- How an access or a check of an engine command failed: the status code, the space code, the detail (R306). -/
structure Stop where
  code   : Nat
  space  : Nat
  detail : Nat
  deriving DecidableEq, Repr

/-- An engine command's entry (R120, R121): `waits` are its thread's earlier stores in SB(t), for which its start waits, `joins`
those in NT(t), for which it does not (R185). Of a started command: the bytes it has read by their offset, how many of its units
it has read and written, the failure that ended its reads, and the lines about which a message for it has had an error reply (R113). -/
structure Command where
  id      : Nat
  queue   : Nat
  owner   : Nat
  word    : Code
  a       : Word
  b       : Word
  block   : List Word
  count   : Nat
  front   : Frontier
  waits   : List Nat
  joins   : List Nat
  started : Bool
  launch  : Nat
  asid    : Nat
  super   : Bool
  win     : Windows
  grp     : Option Nat
  kg      : Nat
  buf     : List (Nat × Byte)
  nread   : Nat
  nwrit   : Nat
  ended   : Option Stop
  refused : List Nat
  deriving DecidableEq, Repr

/-- An entry of the outbound ring that has started (R355): its index, operation, local range, completion word, how many bytes of an RMA
read's data have been written, and whether it has completed. -/
structure Outbound where
  index    : Nat
  op       : Nat
  len      : Nat
  loc      : Nat
  done     : Nat
  written  : Nat
  finished : Bool
  deriving DecidableEq, Repr

/-- A mailbox request (R356). -/
structure Mail where
  seq  : Word
  code : Nat
  a    : Nat
  b    : Nat
  deriving DecidableEq, Repr

/-- A partition (R349 to R356): its descriptor's 32 words and the state the monitor and the dispatcher keep for it; `rings` holds
what the records of each queue have published (R131), `serving` the request in service, `busied` the sequence answered busy. -/
structure Partition where
  num      : Nat
  desc     : Vector Word 32
  lastNum  : Nat
  cmdSeq   : Nat
  lastCluster : Nat
  answered : Word
  cellar   : List CellarShare
  serving  : Option Mail
  busied   : Option Word
  rings    : List (Nat × Frontier)
  snapAt   : Word
  snapDone : Nat
  outNext  : Word
  outbound : List Outbound
  deriving DecidableEq, Repr

/-- A live launch (R147, R148, R39 to R42). -/
structure Launch where
  part     : Nat
  num      : Nat
  order    : Nat
  record   : Nat
  entry    : Nat
  asid     : Nat
  gx       : Nat
  gy       : Nat
  gz       : Nat
  gsize    : Nat
  alcove   : Nat
  hall     : Nat
  prio     : Nat
  yield    : Nat
  deps     : List (Int × Int × Int)
  sweep    : Int × Int × Int
  arg      : Word
  ctx      : Nat
  ctxsize  : Nat
  board    : Nat
  front    : Frontier
  labels   : List (Nat × Frontier)
  passed   : List (Nat × Nat)
  retired  : Nat
  request  : Bool
  saved    : Bool
  restoring : Bool
  savedMsgs : List (Nat × SpawnMsg)
  ctxDraw  : Nat
  ctxMsgs  : List (Nat × Byte)
  deriving DecidableEq, Repr

/-- An open barrier generation (R289): its opener's target (none: `bar`). -/
structure Barrier where
  target : Option Nat
  deriving DecidableEq, Repr

/-- A group that has been placed and has not retired (R30 to R35, R91, R163, R168, R289). -/
structure Group where
  id       : Nat
  part     : Nat
  launch   : Nat
  index    : Nat
  cluster  : Nat
  shares   : Nat
  share    : Nat
  deadline : Option Word
  saved    : Bool
  barrier  : Option Barrier
  collector : Frontier
  counts   : List (Nat × Nat)
  reports  : List (Nat × Bool)
  deriving DecidableEq, Repr

/-- A saved thread (R40 to R42): its locator, its state as saved, whether it was forced. -/
structure SavedThread where
  loc    : Nat
  group  : Nat
  thread : Thread
  forced : Bool
  deriving DecidableEq, Repr

/-- A saved gang (R41, R42, R94 to R96): the gang with its row and number, its larder slots, the slots it has claimed, the
poisoned ones of its accumulators, and the bank that holds their bytes: accumulators from 0, slot n from
131,072 + 34,816 n. -/
structure SavedGang where
  gang   : Gang
  slots  : List Slot
  claims : List Nat
  poison : List Nat
  bank   : Nat
  deriving DecidableEq, Repr

/-- The destination of a sluice operand (R308, R326). -/
structure SluiceDest where
  space : Nat
  ptr   : Word
  win   : Windows
  asid  : Nat
  super : Bool
  arrival : Word
  value : Word
  deriving DecidableEq, Repr

/-- Where a sluice operand stands (R158, R159). -/
inductive OperandPlace where
  | flying
  | store
  | overflow (slot : Nat)
  deriving DecidableEq, Repr

/-- A sluice operand (R158). -/
structure Operand where
  id      : Nat
  part    : Nat
  tag     : Nat
  op      : Nat
  sender  : Nat
  dest    : SluiceDest
  data    : List Byte
  slice   : Nat
  place   : OperandPlace
  arrived : Word
  front   : Frontier
  grp     : Option Nat
  launch  : Nat
  deriving DecidableEq, Repr

/-- An outcome of the sluice being delivered to one destination (R136, R159, R186): the operands whose destination it is and whose status is
still to be reported, each with that status; the bytes, how many aligned units of them have been written and whether the writes have ended;
the frontier they are written above; the delivery whose writes come first, where the two destinations overlap (R326); the delivery of the
same result to the other destination, whose writes come before any report (R186); and the lines about which a message for it has had an
error reply (R113). It is named by its first operand. -/
structure Delivery where
  id      : Nat
  ops     : List (Operand × Stop)
  bytes   : List Byte
  done    : Nat
  written : Bool
  front   : Frontier
  after   : Option Nat
  mate    : Option Nat
  refused : List Nat
  deriving DecidableEq, Repr

/-- A record awaiting its append (R131, R132): partition, queue (0 trap, 1 fault), agent thread whose issue waits on it or
whose faulted entry it names, the four words with the time word left to the append, whether it has had to wait, whether that has
been counted, and the frontier it publishes (R187). -/
structure Append where
  part    : Nat
  queue   : Nat
  thread  : Option Nat
  w0      : Word
  w2      : Word
  w3      : Word
  unit    : Option Nat
  held    : Bool
  counted : Bool
  front   : Frontier
  deriving DecidableEq, Repr

/-- Error counters of one compute die (R173). -/
structure DieErr where
  cellar     : Word
  l2         : Word
  unanswered : Word
  deriving DecidableEq, Repr

/-- Error counters of one memory die (R173). -/
structure MdieErr where
  msc     : Word
  lost    : Word
  dropped : Word
  deriving DecidableEq, Repr

/-- What flash holds (R357): the firmware image and its signature, the operator block and its signature, the
configuration record. -/
structure Flash where
  image       : List Byte
  imageSig    : List Byte
  operator    : List Byte
  operatorSig : List Byte
  record      : List Byte
  deriving DecidableEq, Repr

/-- The bring-up phase (R357). -/
inductive Phase where
  | inReset
  | recovery
  | noPartitions
  | running
  deriving DecidableEq, Repr

/-- Monitor and power state (R113, R357, R360). -/
structure Monitor where
  phase     : Phase
  homeK     : Nat
  powerCap  : Nat
  sequence  : Word
  reason    : Nat
  throttled : Bool
  dropped   : Nat
  deriving DecidableEq, Repr

/-- A packet the device sends: an acknowledgement of a received packet, or an outbound request (R142, R347, R348, R355). -/
structure Reply where
  port : Nat
  code : Nat
  data : List Byte
  deriving DecidableEq, Repr

/-- A peer's RMA write of which a part has been written, the rest waiting for room in its home's slice watch unit (R136): its packet, the
partition and the peer admitted, the physical address and the bytes written. -/
structure PeerPart where
  pkt  : Packet
  part : Nat
  peer : Nat
  base : Nat
  done : Nat
  deriving DecidableEq, Repr

/-- The whole machine. -/
structure State where
  threads   : List (Nat × Thread)
  cores     : List (Nat × Core)
  mem       : List Host.Cell
  wsets     : List (Nat × WriteSet)
  fsc       : List (Nat × Frontier)
  poison    : List Nat
  dir       : List (Nat × DirEntry)
  homeTx    : List HomeTx
  errInv    : List ErrInv
  sliceMsgs : List SliceMsg
  detached  : List (Nat × Nat × Nat)
  l1d       : List L1Line
  l1i       : List L1ILine
  l2        : List L2Line
  tlb       : List TlbEntry
  cmds      : List Command
  qfront    : List (Nat × Frontier)
  peers     : List (Nat × Frontier)
  rmas      : List PeerPart
  slices    : List (Nat × Frontier)
  dev       : Frontier
  gangs     : List Gang
  slots     : List Slot
  claims    : List (Nat × Nat)
  accPoison : List Nat
  rowErr    : List (Nat × Word)
  parts     : List Partition
  launches  : List Launch
  groups    : List Group
  saved     : List SavedThread
  sgangs    : List SavedGang
  spawns    : List SpawnMsg
  operands  : List Operand
  deliveries : List Delivery
  markers   : List (Nat × Nat × Nat)
  appends   : List Append
  halted    : List (Nat × Nat)
  ranks     : List (Nat × Nat × Nat)
  dieErr    : Vector DieErr 8
  mdieErr   : Vector MdieErr 4
  hbmErr    : Vector Word 16
  carve     : Vector Nat 8
  time      : Word
  flash     : Flash
  mon       : Monitor
  out       : List Reply
  banks     : List Nat
  moves     : List Instr
  issue     : List Nat
  picks     : List (Nat × Nat)
  late      : List Nat
  cur       : Nat
  ir        : Code
  fresh     : Nat
  draws     : Nat
  deriving DecidableEq, Repr

/-- The machine right after module reset, before memory die 0 has begun bring-up (R9, R357): no thread exists, memory is
zero, every counter is 0, and the phase is in reset, so that the first step of its own is MODULE_RESET. -/
def State.reset : State where
  threads   := []
  cores     := []
  cur       := 0
  ir        := 0
  issue     := []
  picks     := []
  late      := []
  moves     := []
  fresh     := 16384
  draws     := 0
  time      := 0
  mem       := []
  wsets     := []
  fsc       := []
  poison    := []
  banks     := []
  carve     := Vector.replicate 8 0
  dir       := []
  homeTx    := []
  errInv    := []
  sliceMsgs := []
  detached  := []
  mdieErr   := Vector.replicate 4 (MdieErr.mk 0 0 0)
  l1d       := []
  l1i       := []
  l2        := []
  tlb       := []
  dieErr    := Vector.replicate 8 (DieErr.mk 0 0 0)
  hbmErr    := Vector.replicate 16 0
  cmds      := []
  qfront    := []
  peers     := []
  rmas      := []
  slices    := []
  dev       := []
  gangs     := []
  slots     := []
  claims    := []
  accPoison := []
  rowErr    := []
  flash     := Flash.mk [] [] [] [] []
  parts     := []
  launches  := []
  groups    := []
  saved     := []
  sgangs    := []
  spawns    := []
  mon       := Monitor.mk .inReset 20 0 0 0 false 0
  operands  := []
  deliveries := []
  markers   := []
  appends   := []
  halted    := []
  ranks     := []
  out       := []

end Sys2Proof.Machine
end

