-- ==== Sys2Proof/Machine/Data.lean ====
section
/-! DEFINITION. The plain helpers of the machine: lists keyed by number kept in rising order, bit fields, bytes of words,
sign extension, and the places of locators, banks and memory locations. -/
namespace Sys2Proof.Machine

/-! ## Keyed lists -/

/-- The entry of a key. -/
def alGet {α : Type} : List (Nat × α) → Nat → Option α
  | [], _ => none
  | (k, v) :: l, x => if k = x then some v else alGet l x

/-- The list with the entry of a key set, keys rising. -/
def alSet {α : Type} : List (Nat × α) → Nat → α → List (Nat × α)
  | [], x, v => [(x, v)]
  | (k, w) :: l, x, v =>
    if x < k then (x, v) :: (k, w) :: l
    else if k = x then (x, v) :: l
    else (k, w) :: alSet l x v

/-- The list without a key. -/
def alDel {α : Type} (l : List (Nat × α)) (x : Nat) : List (Nat × α) := l.filter (fun e => e.1 != x)

/-! ## Bits and bytes -/

/-- The n bits of a word from bit lo upward, as a number (R3). -/
def bits {w : Nat} (v : BitVec w) (lo n : Nat) : Nat := v.toNat / 2 ^ lo % 2 ^ n

/-- Bit i of a word. -/
def bit {w : Nat} (v : BitVec w) (i : Nat) : Bool := v.toNat / 2 ^ i % 2 == 1

/-- A number as a register value. -/
def wd (n : Nat) : Word := BitVec.ofNat 64 n

/-- v with the n bits from lo replaced by x. -/
def setBits (v : Word) (lo n x : Nat) : Word :=
  wd (v.toNat - bits v lo n * 2 ^ lo + (x % 2 ^ n) * 2 ^ lo)

/-- The low n bits of x read as a two's-complement number (R43). -/
def toSigned (n x : Nat) : Int :=
  let y := x % 2 ^ n
  if y < 2 ^ (n - 1) then (y : Int) else (y : Int) - (2 ^ n : Nat)

/-- An integer as an n-bit two's-complement pattern. -/
def ofInt (n : Nat) (x : Int) : Nat := (x % ((2 ^ n : Nat) : Int)).toNat

/-- SignExtend of the low n bits to 64 (R13). -/
def signExt (n x : Nat) : Word := wd (ofInt 64 (toSigned n x))

/-- One bit as a register value. -/
def boolWord (b : Bool) : Word := if b then 1 else 0

/-- The n little-endian bytes of a number (R4). -/
def toBytes : Nat → Nat → List Byte
  | 0, _ => []
  | n + 1, x => BitVec.ofNat 8 x :: toBytes n (x / 256)

/-- The number of little-endian bytes. -/
def ofBytes : List Byte → Nat
  | [] => 0
  | b :: l => b.toNat + 256 * ofBytes l

/-- The numbers a, a+1, ..., a+n-1. -/
def span (a n : Nat) : List Nat := (List.range n).map (a + ·)

/-- ceil (a / b). -/
def ceilDiv (a b : Nat) : Nat := (a + b - 1) / b

/-! ## Locators (R18) -/

/-- The core, locator bits [16:7]. -/
def coreOf (loc : Nat) : Nat := loc / 128
/-- The row, locator bits [16:9]. -/
def rowOf (loc : Nat) : Nat := loc / 512
/-- The cluster, locator bits [16:10]. -/
def clusterOf (loc : Nat) : Nat := loc / 1024
/-- The compute die, locator bits [16:14]. -/
def dieOf (loc : Nat) : Nat := loc / 16384
/-- The core's number within its cluster. -/
def coreInCluster (loc : Nat) : Nat := loc / 128 % 8

/-! ## Locations of storage

A location is bank x 2^40 + offset. Bank 0 is HBM; 1 to 8 the cellars of dies 0 to 7; 9 the allocation tags, one byte a
granule; 16 to 271 the accumulators of the rows; 512 to 8,703 the larder slots; from 16,384 on, alcoves, group shares
and detached copies, each given a bank never used before. -/

/-- Bytes of a bank. -/
def bankSize : Nat := 1099511627776
/-- The bank of a location. -/
def bankOf (x : Nat) : Nat := x / bankSize
/-- The offset of a location in its bank. -/
def offOf (x : Nat) : Nat := x % bankSize
/-- The cellar of a die. -/
def cellarBase (die : Nat) : Nat := (1 + die) * bankSize
/-- The allocation tag of the granule of a physical address (R106). -/
def tagLoc (pa : Nat) : Nat := 9 * bankSize + pa / 64
/-- The accumulators of a row (R96). -/
def accBase (row : Nat) : Nat := (16 + row) * bankSize
/-- A larder slot of a row (R94): payload from 0, scale bytes from 32,768. -/
def slotBase (row slot : Nat) : Nat := (512 + row * 32 + slot) * bankSize
/-- A bank given at run time. -/
def dynBase (bank : Nat) : Nat := bank * bankSize

/-- The home memory die of a physical address (R100). -/
def homeDie (pa : Nat) : Nat := Nat.xor (pa / 4096 % 4) (pa / 4194304 % 4)
/-- The HBM stack of a physical address (R100). -/
def stackOf (pa : Nat) : Nat := 4 * homeDie pa + Nat.xor (pa / 16384 % 4) (pa / 16777216 % 4)
/-- The offset of a physical address within its stack (R100). -/
def stackOffset (pa : Nat) : Nat := pa / 65536 * 4096 + pa % 4096

/-! ## Memory as a list of cells -/

/-- The byte at a location; an unlisted location reads zero (R92, R93, R101). -/
def memGet : List Host.Cell → Nat → Byte
  | [], _ => 0
  | (k, v) :: l, x => if k = x then v else memGet l x

/-- The memory with one byte written; the canonical form lists no zero byte. -/
def memSet : List Host.Cell → Nat → Byte → List Host.Cell
  | [], x, v => if v = 0 then [] else [(x, v)]
  | (k, w) :: l, x, v =>
    if x < k then (if v = 0 then (k, w) :: l else (x, v) :: (k, w) :: l)
    else if k = x then (if v = 0 then l else (x, v) :: l)
    else (k, w) :: memSet l x v

/-- The canonical form of memory: addresses strictly rising, no byte equal to what an unlisted address reads as. -/
def Memory.wf : List Host.Cell → Bool
  | [] => true
  | [(_, v)] => v != 0
  | (k, v) :: (k2, v2) :: l => v != 0 && decide (k < k2) && Memory.wf ((k2, v2) :: l)

end Sys2Proof.Machine
end

