-- ==== Sys2Proof/Machine/Order.lean ====
section
/-! DEFINITION. The ordering machine of R175 to R188: write sets, frontiers, labels and scopes, how a write enters, how
a read chooses, and which releases an acquire meets. A read takes the newest entered writes that it may take together unless
the tape names other candidates (log entry 1). -/
namespace Sys2Proof.Machine

/-! ## Agents and scopes (R177) -/

/-- The smallest scope at which an agent has an instance. -/
def Agent.minScope : Agent → Nat
  | .thread _ => 0
  | .queue _ _ => 1
  | .matrix _ _ => 2
  | .sluice _ => 3
  | .memory => 4
  | .peer => 5

/-- The instance number of an agent at a scope. -/
def Agent.place : Agent → Nat → Nat
  | .thread l, 0 => l
  | .thread l, 1 => coreOf l
  | .thread l, 2 => clusterOf l
  | .thread l, 3 => dieOf l
  | .queue c _, 1 => c
  | .queue c _, 2 => c / 8
  | .queue c _, 3 => c / 128
  | .matrix r _, 2 => r / 2
  | .matrix r _, 3 => r / 32
  | .sluice d, 3 => d
  | _, _ => 0

/-- The die whose copies an agent works on, where it has one. -/
def Agent.die : Agent → Option Nat
  | .thread l => some (dieOf l)
  | .queue c _ => some (c / 128)
  | .matrix r _ => some (r / 32)
  | .sluice d => some d
  | .memory => none
  | .peer => none

/-- The instance a scope names for an agent: its own or the next wider scope at which it has one. -/
def Agent.instanceAt (a : Agent) (scope : Nat) : Nat × Nat :=
  let s := max scope a.minScope
  (s, a.place s)

/-- Agent b lies in an instance. -/
def Agent.liesIn (b : Agent) (i : Nat × Nat) : Bool :=
  decide (b.minScope ≤ i.1) && (i.1 ≥ 4 || b.place i.1 == i.2)

/-- An acquire by b at scope sb meets a release's label (R177). -/
def Label.meets (l : Label) (b : Agent) (sb : Nat) : Bool :=
  b.liesIn (l.agent.instanceAt l.scope) && l.agent.liesIn (b.instanceAt sb)

/-- The key of a scope instance's sequential frontier (R175). -/
def fscKey (a : Agent) (scope : Nat) : Nat :=
  let i := a.instanceAt scope
  i.1 * 1048576 + i.2

/-! ## Frontiers (R176) -/

/-- The writes of an address that a frontier holds; none listed stands for the initial write. -/
def fGet (F : Frontier) (x : Nat) : List Nat := (alGet F x).getD []

/-- The write set of a byte; one not listed holds its current value as the initial write. -/
def wsGet (s : State) (x : Nat) : WriteSet := (alGet s.wsets x).getD ⟨memGet s.mem x, false, []⟩

/-- The identifiers below a write in its byte's order. -/
def belowOf (ws : WriteSet) (id : Nat) : List Nat :=
  match ws.writes.find? (fun r => r.id == id) with
  | some r => r.below
  | none => []

/-- The maximal writes of a set (R176). -/
def maximal (ws : WriteSet) (ids : List Nat) : List Nat :=
  let u := ids.eraseDups
  u.filter (fun i => !(u.any (fun j => (belowOf ws j).contains i)))

/-- Merge (R176). -/
def fMerge (s : State) (F G : Frontier) : Frontier :=
  G.foldl (fun acc e => alSet acc e.1 (maximal (wsGet s e.1) (fGet acc e.1 ++ e.2))) F

/-- A write is a candidate for a frontier: no write the frontier holds lies above it (R176), and it is not the initial write of a byte
that has been reclaimed (R193). -/
def candidate (ws : WriteSet) (F : Frontier) (x id : Nat) : Bool :=
  if id = 0 then !ws.closed && !((fGet F x).any (fun f => ws.writes.any (fun r => r.id == f)))
  else ws.writes.any (fun r => r.id == id) && !((fGet F x).any (fun f => (belowOf ws f).contains id))

/-! ## Entering a write (R179, R183) -/

/-- The identifiers below a write that enters above a frontier's writes of the byte; `top` puts it above every write. -/
def lowerSet (ws : WriteSet) (F : Frontier) (x : Nat) (top : Bool) : List Nat :=
  if top then 0 :: ws.writes.map (·.id)
  else (0 :: (fGet F x).flatMap (fun f => f :: belowOf ws f)).eraseDups

/-- One byte's write enters its write set; memory holds the newest entered value. -/
def enterByte (s : State) (F : Frontier) (x : Nat) (v : Byte) (id : Nat) (top : Bool) (label : Option Label) : State :=
  let ws := wsGet s x
  let r : WriteRec := ⟨id, v, lowerSet ws F x top, label⟩
  { s with mem := memSet s.mem x v, wsets := alSet s.wsets x ⟨ws.init, ws.closed, r :: ws.writes⟩ }

/-- The masked value a cell leaves at its byte. -/
def cellValue (s : State) (c : Nat × Byte × Byte) : Byte :=
  (c.2.1 &&& c.2.2) ||| (memGet s.mem c.1 &&& ~~~ c.2.2)

/-- The frontier after its agent has written some bytes with one write. -/
def fWrite (F : Frontier) (xs : List Nat) (id : Nat) : Frontier :=
  xs.foldl (fun acc x => alSet acc x [id]) F

/-- The bytes of one single-copy-atomic write enter together (R178). -/
def enterCells (s : State) (F : Frontier) (cells : List (Nat × Byte × Byte)) (id : Nat) (top : Bool)
    (label : Option Label) : State :=
  cells.foldl (fun st c => enterByte st F c.1 (cellValue st c) id top label) s

/-! ## Choosing a read (R176, R178, R180) -/

/-- The write a byte's read takes when nothing else is chosen: the newest entered. -/
def newestId (ws : WriteSet) : Nat :=
  match ws.writes with
  | r :: _ => r.id
  | [] => 0

/-- The value of a write of a byte. -/
def valueOf (ws : WriteSet) (id : Nat) : Byte :=
  match ws.writes.find? (fun r => r.id == id) with
  | some r => r.val
  | none => ws.init

/-- The label of a write of a byte. -/
def labelOf (ws : WriteSet) (id : Nat) : Option Label :=
  match ws.writes.find? (fun r => r.id == id) with
  | some r => r.label
  | none => none

/-- A choice per byte of one read. -/
abbrev Choice := List (Nat × Nat)

/-- Two bytes of one aligned unit break R178's constraint: the write taken at the first covers the second, whose choice
is neither that write nor one above it. -/
def clash (s : State) (a b : Nat × Nat) : Bool :=
  a.1 != b.1 && a.1 / 8 == b.1 / 8 && a.2 != 0 &&
    (let ws := wsGet s b.1
     ws.writes.any (fun r => r.id == a.2) && b.2 != a.2 && !((belowOf ws b.2).contains a.2))

/-- A choice satisfies R178's constraint. -/
def consistent (s : State) (c : Choice) : Bool := c.all (fun a => c.all (fun b => !(clash s a b)))

/-- A write is maximal in its byte's write set: no write lies above it (R183). -/
def isTop (ws : WriteSet) (id : Nat) : Bool := !(ws.writes.any (fun r => r.below.contains id))

/-- A byte's read may take a write: a candidate, and for an atomic a maximal one (R176, R183). -/
def mayTake (s : State) (F : Frontier) (top : Bool) (e : Nat × Nat) : Bool :=
  candidate (wsGet s e.1) F e.1 e.2 && (!top || isTop (wsGet s e.1) e.2)

/-- A choice is one that a read may make. -/
def mayChoose (s : State) (F : Frontier) (top : Bool) (c : Choice) : Bool := c.all (mayTake s F top) && consistent s c

/-- The first choice, newest writes first, that a read of some bytes may make beside what it has chosen. -/
def searchRead (s : State) (F : Frontier) (top : Bool) : List Nat → Choice → Option Choice
  | [], c => some c
  | x :: xs, c => ((wsGet s x).writes.map WriteRec.id ++ [0]).findSome? (fun id =>
      if mayTake s F top (x, id) && c.all (fun a => !(clash s a (x, id)) && !(clash s (x, id) a)) then searchRead s F top xs ((x, id) :: c)
      else none)

/-- The newest entered write of each byte. -/
def newestChoice (s : State) (xs : List Nat) : Choice := xs.map (fun x => (x, newestId (wsGet s x)))

/-- The default choice in one aligned unit: the newest entered writes where a read may take them together, else the first
choice that it may make. Where R178 allows none (two writes that overlap in part, seen apart), the newest entered writes
(log entry 1). -/
def unitChoice (s : State) (F : Frontier) (top : Bool) (xs : List Nat) : Choice :=
  if mayChoose s F top (newestChoice s xs) then newestChoice s xs else (searchRead s F top xs []).getD (newestChoice s xs)

/-- The default choice of a read of some bytes. -/
def defaultChoice (s : State) (F : Frontier) (top : Bool) (xs : List Nat) : Choice :=
  ((xs.map (· / 8)).eraseDups).flatMap (fun u => unitChoice s F top (xs.filter (fun x => x / 8 == u)))

/-- The choice of a read of some bytes: the tape's picks where they may be taken together, else the default. -/
def chooseRead (s : State) (F : Frontier) (xs : List Nat) (picks : List (Nat × Nat)) (top : Bool := false) : Option Choice :=
  if picks.isEmpty then some (defaultChoice s F top xs)
  else
    let c := xs.map (fun x => (x, ((picks.find? (fun p => p.1 == x)).map (·.2)).getD (newestId (wsGet s x))))
    if mayChoose s F top c then some c else none

/-- The write that a read of one byte takes: that of the tape's picks where it may be taken, else the default. -/
def seenId (s : State) (F : Frontier) (picks : List (Nat × Nat)) (x : Nat) : Nat :=
  match picks.find? (fun p => p.1 == x && mayTake s F false p) with
  | some p => p.2
  | none => match defaultChoice s F false [x] with | c :: _ => c.2 | [] => 0

/-- The value a read of one byte takes. -/
def seenByte (s : State) (F : Frontier) (picks : List (Nat × Nat)) (x : Nat) : Byte := valueOf (wsGet s x) (seenId s F picks x)

/-- The labels of the writes a read took. -/
def choiceLabels (s : State) (c : Choice) : List Label :=
  (c.filterMap (fun e => labelOf (wsGet s e.1) e.2)).eraseDups

/-- The frontier after a read (R176). -/
def fRead (s : State) (F : Frontier) (c : Choice) : Frontier :=
  c.foldl (fun acc e =>
    if e.2 = 0 then acc
    else alSet acc e.1 (maximal (wsGet s e.1) (fGet acc e.1 ++ [e.2]))) F

/-- The value a read took at a byte. -/
def choiceValue (s : State) (c : Choice) (x : Nat) : Byte :=
  match c.find? (fun e => e.1 == x) with
  | some e => valueOf (wsGet s x) e.2
  | none => memGet s.mem x

/-- The frontiers met by an acquire at a scope (R180, R181). -/
def meetAll (s : State) (F : Frontier) (ls : List Label) (b : Agent) (scope : Nat) : Frontier :=
  ls.foldl (fun acc l => if l.meets b scope then fMerge s acc l.front else acc) F

/-! ## Device accesses

What the device itself reads (tables, descriptors, records) it reads at the point of coherence, where the newest entered
write stands; what it writes it writes above every write of the byte, as the one agent that the dispatcher and the other
memory-die functions are, whose frontier is `dev` (R175; log entry 16). -/

/-- n bytes at a location. -/
def peekBytes (s : State) (x n : Nat) : List Byte := (span x n).map (memGet s.mem)

/-- An n-byte number at a location. -/
def peek (s : State) (x n : Nat) : Nat := ofBytes (peekBytes s x n)

/-- A write by the device's own functions, with an optional publication. -/
def devWrite (s : State) (x : Nat) (bs : List Byte) (label : Option Label) : State :=
  let id := s.fresh
  let s := { s with fresh := s.fresh + 1, dev := fWrite s.dev (span x bs.length) id }
  enterCells s [] ((span x bs.length).zip bs |>.map (fun e => (e.1, e.2, 255#8))) id true label

/-- What a release by the device's functions of n bytes at x publishes: their frontier with that write, and some more (R181). -/
def devLabel (s : State) (x n scope : Nat) (more : Frontier) : Label :=
  ⟨fMerge s (fWrite s.dev (span x n) s.fresh) more, scope, .memory⟩

/-- A write by the device's functions that releases at a scope. -/
def devRelease (s : State) (x : Nat) (bs : List Byte) (scope : Nat) (more : Frontier) : State :=
  devWrite s x bs (some (devLabel s x bs.length scope more))

/-- The device's functions acquire at package scope what the newest writes of n bytes at x released (R131, R355, R356). -/
def devAcquire (s : State) (x n : Nat) : State :=
  let c := newestChoice s (span x n)
  { s with dev := meetAll s (fRead s s.dev c) (choiceLabels s c) .memory 4 }

/-- Zeroing or filling of storage that is an initial write (R92, R93, R175): the write set starts anew. -/
def initByte (s : State) (x : Nat) (v : Byte) : State :=
  { s with mem := memSet s.mem x v, wsets := alDel s.wsets x }

/-- Every location of a half-open range becomes zero as an initial write. -/
def zeroRange (s : State) (lo hi : Nat) : State :=
  { s with mem := s.mem.filter (fun c => !(decide (lo ≤ c.1) && decide (c.1 < hi)))
           wsets := s.wsets.filter (fun c => !(decide (lo ≤ c.1) && decide (c.1 < hi))) }

end Sys2Proof.Machine
end

