-- ==== Sys2Proof/Machine/Access.lean ====
section
/-! DEFINITION. Reaching storage: the state's containers, partition descriptors, poison, translation and the checks of
R103, local windows, L1 lookup, slice watches, and landing a write. -/
namespace Sys2Proof.Machine

/-! ## Containers -/

/-- A core at reset (R25, R76, R108, R126, R173). -/
def Core.init : Core where
  tvec := 0
  tfbase := 0
  tvecNext := none
  tfbaseNext := none
  merge := 0x2000
  ptrA := 0
  ptrM := 0
  heldA := 0
  pickA := 0
  pickM := 0
  genDie := 0
  genPkg := 0
  inbox := []
  errRegfile := 0
  errLocal := 0
  errL1 := 0
  errDiscard := 0
  perf := Vector.replicate 8 0
  select := 0
  selectNext := none

/-- The state of a core. -/
def State.core (s : State) (c : Nat) : Core := (alGet s.cores c).getD Core.init
/-- The state with a core's state set. -/
def State.setCore (s : State) (c : Nat) (k : Core) : State := { s with cores := alSet s.cores c k }
/-- The thread in a context. -/
def State.thread (s : State) (loc : Nat) : Option Thread := alGet s.threads loc
/-- The state with a context's thread set. -/
def State.setThread (s : State) (loc : Nat) (t : Thread) : State := { s with threads := alSet s.threads loc t }
/-- The state with the current thread set. -/
def State.put (s : State) (t : Thread) : State := s.setThread s.cur t
/-- The state with a context freed; what starts in it in this cycle is held back by nothing that held its former thread (R22). -/
def State.dropThread (s : State) (loc : Nat) : State := { s with threads := alDel s.threads loc, late := s.late.filter (· != loc) }
/-- The state with a thread changed in place. -/
def State.mapThread (s : State) (loc : Nat) (f : Thread → Thread) : State :=
  match s.thread loc with
  | some t => s.setThread loc (f t)
  | none => s
/-- The state with a core changed in place. -/
def State.mapCore (s : State) (c : Nat) (f : Core → Core) : State := s.setCore c (f (s.core c))
/-- A partition by number. -/
def State.partition (s : State) (p : Nat) : Option Partition := s.parts.find? (fun q => q.num == p)
/-- The state with a partition replaced. -/
def State.setPartition (s : State) (p : Partition) : State :=
  { s with parts := s.parts.map (fun q => if q.num == p.num then p else q) }
/-- A group by identifier. -/
def State.group (s : State) (g : Nat) : Option Group := s.groups.find? (fun q => q.id == g)
/-- The state with a group replaced. -/
def State.setGroup (s : State) (g : Group) : State :=
  { s with groups := s.groups.map (fun q => if q.id == g.id then g else q) }
/-- The state with a group changed in place. -/
def State.mapGroup (s : State) (id : Nat) (f : Group → Group) : State :=
  { s with groups := s.groups.map (fun q => if q.id == id then f q else q) }
/-- A live launch of a partition by number (R148). -/
def State.launchOf (s : State) (p n : Nat) : Option Launch := s.launches.find? (fun l => l.part == p && l.num == n)
/-- The state with a launch replaced. -/
def State.setLaunch (s : State) (l : Launch) : State :=
  { s with launches := s.launches.map (fun q => if q.part == l.part && q.num == l.num then l else q) }

/-- A saturating error counter's next value (R173). -/
def satInc (w : Word) : Word := if w = BitVec.allOnes 64 then w else w + 1

/-- One more event of a code in a core's performance counters (R171, R172). -/
def State.count (s : State) (c code n : Nat) : State :=
  s.mapCore c (fun k =>
    { k with perf := Vector.ofFn (fun i : Fin 8 => if bits k.select (8 * i.val) 8 == code && code != 0 then k.perf[i] + wd n else k.perf[i]) })

/-! ## Events that one cycle orders (R155, R156, R159, R167)

Kinds: 0 a request at the home of a line, by die; 1 an allocation of tags of a partition, by locator; 2 an arrival at one tag of a
partition: 2 and the sender's locator; 3 an update of an arrival word, by queue code and locator. -/

/-- An event of a later rank has happened in this cycle at the same place. -/
def State.overtaken (s : State) (kind place rank : Nat) : Bool := s.ranks.any (fun r => r.1 == kind && r.2.1 == place && decide (rank < r.2.2))
/-- An event of this cycle. -/
def State.ranked (s : State) (kind place rank : Nat) : State := { s with ranks := (kind, place, rank) :: s.ranks }

/-! ## Partition descriptors (R353) -/

/-- Word k of the descriptor. -/
def Partition.word (p : Partition) (k : Nat) : Word := p.desc.toArray.getD k 0
/-- The partition owns a cluster. -/
def Partition.hasCluster (p : Partition) (c : Nat) : Bool := bit (p.word (c / 64)) (c % 64)
/-- Its clusters in ascending order. -/
def Partition.clusters (p : Partition) : List Nat := (List.range 128).filter p.hasCluster
/-- The dies on which it owns clusters, ascending. -/
def Partition.dies (p : Partition) : List Nat := (List.range 8).filter (fun d => p.clusters.any (fun c => c / 16 == d))
/-- An HBM range: physical base and bytes. -/
def Partition.range (p : Partition) (j : Nat) : Nat × Nat :=
  (bits (p.word (2 + j)) 26 14 * 67108864, bits (p.word (2 + j)) 50 14 * 67108864)
/-- A physical address lies in the partition's HBM ranges. -/
def Partition.hasAddr (p : Partition) (pa : Nat) : Bool :=
  (List.range 8).any (fun j => let r := p.range j; decide (r.1 ≤ pa) && decide (pa < r.1 + r.2))
/-- n bytes lie wholly in its HBM ranges and in HBM: each 64 MiB unit they touch does. -/
def Partition.hasBytes (p : Partition) (pa n : Nat) : Bool :=
  decide (pa + n ≤ Config.hbmBytes) && (n == 0 ||
    (List.range ((pa + n - 1) / 67108864 - pa / 67108864 + 1)).all (fun k => p.hasAddr ((pa / 67108864 + k) * 67108864)))
def Partition.asidBase (p : Partition) : Nat := bits (p.word 10) 12 28 * 4096
def Partition.asidK (p : Partition) : Nat := bits (p.word 10) 48 5
def Partition.qblock (p : Partition) : Nat := bits (p.word 11) 8 32 * 256
def Partition.tagtab (p : Partition) : Nat := bits (p.word 12) 16 24 * 65536
def Partition.ovfBase (p : Partition) : Nat := bits (p.word 13) 16 24 * 65536
def Partition.ovfSize (p : Partition) : Nat := bits (p.word 14) 0 40
def Partition.ctrBase (p : Partition) : Nat := bits (p.word 15) 7 33 * 128
def Partition.ctrK (p : Partition) : Nat := bits (p.word 15) 56 5
def Partition.mbox (p : Partition) : Nat := bits (p.word 16) 7 33 * 128
def Partition.outq (p : Partition) : Nat := bits (p.word 17) 6 34 * 64
def Partition.wintab (p : Partition) : Nat := bits (p.word 18) 9 31 * 512
def Partition.peertab (p : Partition) : Nat := bits (p.word 19) 11 29 * 2048
def Partition.bootEntry (p : Partition) : Nat := bits (p.word 20) 0 48
def Partition.bootAsid (p : Partition) : Nat := bits (p.word 20) 48 16
def Partition.cellarMax (p : Partition) (d : Nat) : Nat := bits (p.word 21) (8 * d) 8
def Partition.ports (p : Partition) : Nat := bits (p.word 22) 0 8
def Partition.jobid (p : Partition) : Nat := bits (p.word 22) 8 24
def Partition.watchtab (p : Partition) : Nat := bits (p.word 23) 8 32 * 256
/-- The cellar share on a die (R93). -/
def Partition.shareOn (p : Partition) (d : Nat) : Option CellarShare := p.cellar.find? (fun e => e.die == d)
/-- The byte at which a share begins in its die's cellar. -/
def CellarShare.base (c : CellarShare) : Nat := cellarBase c.die + c.place * 1048576
/-- Its size in bytes. -/
def CellarShare.bytes (c : CellarShare) : Nat := c.mib * 1048576

/-! ## L2 slices (R93, R110) -/

/-- The carve-out of a die in MiB. -/
def carveOf (s : State) (d : Nat) : Nat := s.carve.toArray.getD d 0
/-- The slices of a die whose line storage is not carved out. -/
def State.uncarved (s : State) (d : Nat) : Nat := 192 - carveOf s d
/-- The slice of a die in which a line lives: PA[15:6] modulo the uncarved slices (R110). -/
def State.l2Slice (s : State) (d line : Nat) : Nat := line % 1024 % s.uncarved d

/-! ## Directory and poison (R111, R114, R154) -/

/-- The directory entry of a line (number = physical address / 64). -/
def State.dirEntry (s : State) (line : Nat) : DirEntry := (alGet s.dir line).getD ⟨0, 0, 0, false, false⟩
/-- The state with a directory entry set. -/
def State.setDir (s : State) (line : Nat) (e : DirEntry) : State := { s with dir := alSet s.dir line e }
/-- The 24-bit word of a directory entry. -/
def DirEntry.word (e : DirEntry) : BitVec 24 :=
  0#4 ++ (BitVec.ofBool e.lost ++ (BitVec.ofBool e.poison ++ (e.fenced ++ (e.holders ++ e.state))))

/-- A die is fenced for the line. -/
def DirEntry.isFenced (e : DirEntry) (d : Nat) : Bool := bit e.fenced d

/-- A die's L2 holds a line. -/
def State.held (s : State) (die line : Nat) : Bool := s.l2.any (fun l => l.die == die && l.pa == line)

/-- A die may not reach a line: it is fenced for it and holds no copy, so that its message is discarded (R113). -/
def lineRefused (s : State) (die line : Nat) : Bool := (s.dirEntry line).isFenced die && !(s.held die line)

/-- The detached copy's bank of a die for a line (R193). -/
def State.detachedBank (s : State) (die line : Nat) : Option Nat :=
  (s.detached.find? (fun e => e.1 == die && e.2.1 == line)).map (·.2.2)

/-- The line whose directory entry governs a location: a granule's own for its tag. -/
def lineOf (x : Nat) : Nat := if bankOf x = 9 then offOf x else x / 64

/-- A location is a byte of HBM or the tag of a granule. -/
def inLine (x : Nat) : Bool := bankOf x == 0 || bankOf x == 9

/-- The location an agent's access reaches: its die's detached copy of a fenced line, with the copy's tag after its 64 bytes, else the
line itself (R110, R193). -/
def State.resolve (s : State) (a : Agent) (x : Nat) : Nat :=
  if inLine x then
    match a.die with
    | some d =>
      match s.detachedBank d (lineOf x) with
      | some b => dynBase b + (if bankOf x = 9 then 64 else x % 64)
      | none => x
    | none => x
  else x

/-- The die and the line whose detached copy a bank holds. -/
def State.detachedAt (s : State) (x : Nat) : Option (Nat × Nat) := (s.detached.find? (fun e => e.2.2 == bankOf x)).map (fun e => (e.1, e.2.1))

/-- The poison unit of local storage is the 8-byte word (R116). -/
def poisonUnit (x : Nat) : Nat := x / 8

/-- A byte or tag is poisoned: its line's poison bit, or its 8-byte word's in local storage (R114, R116). -/
def State.poisoned (s : State) (x : Nat) : Bool :=
  if inLine x then (s.dirEntry (lineOf x)).poison else s.poison.contains (poisonUnit x)

/-- A byte's storage exists still: a bank given at run time has not been freed (R383). -/
def State.live (s : State) (x : Nat) : Bool := decide (bankOf x < 16384) || s.banks.contains (bankOf x)

/-- A fresh identifier. -/
def State.draw (s : State) : Nat × State := (s.fresh, { s with fresh := s.fresh + 1 })

/-- n fresh banks of storage, zero as their initial writes; the first is named (R91, R92). -/
def State.newBanks (s : State) (n : Nat) : Nat × State :=
  (s.fresh, { s with fresh := s.fresh + n, banks := s.banks ++ span s.fresh n })

/-- The state with n banks freed: their contents are gone (R92). -/
def State.freeBanks (s : State) (b n : Nat) : State :=
  { zeroRange s (dynBase b) (dynBase (b + n)) with
    banks := s.banks.filter (fun k => !(decide (b ≤ k) && decide (k < b + n)))
    poison := s.poison.filter (fun k => !(decide (dynBase b ≤ 8 * k) && decide (8 * k < dynBase (b + n)))) }

/-! ## Translation (R105, R144 to R146) -/

/-- What a translation yields. -/
inductive Xlate where
  | page (pa : Nat) (attrs : Attrs)
  | absent
  | bad (sub : Nat)
  | poisoned
  deriving DecidableEq, Repr

/-- The attributes of a leaf (R145). -/
def attrsOf (e : Nat) : Attrs where
  g := e / 256 % 2 == 1
  c := e / 128 % 2 == 1
  tc := e / 64 % 2 == 1
  u := e / 32 % 2 == 1
  x := e / 16 % 2 == 1
  w := e / 8 % 2 == 1
  r := e / 4 % 2 == 1

/-- Levels 1 to 4 of the walk: the level, the lowest VA bit of its index, the width of its index (R146). -/
def walkLevels : List (Nat × Nat × Nat) := [(1, 39, 9), (2, 30, 9), (3, 21, 9), (4, 16, 5)]

/-- A present entry is malformed (R146). -/
def malformed (e level shift : Nat) : Bool :=
  let leaf := e / 2 % 2 == 1
  e / 2 ^ 40 != 0 || e / 512 % 8 != 0 ||
  (leaf && level == 1) || (!leaf && level == 4) || (leaf && e / 4096 % 2 ^ (shift - 12) != 0)

/-- A die's read of a table entry meets a poisoned line, or one that the die may not reach, whose reply is an error (R113, R114, R146). -/
def tableStops (s : State) (die a : Nat) : Bool := s.poisoned a || lineRefused s die (a / 64)

/-- The walk of a die from a table at physical address t. -/
def walkFrom (s : State) (die : Nat) (p : Partition) (va : Nat) : List (Nat × Nat × Nat) → Nat → Xlate × Nat
  | [], _ => (.bad 2, 0)
  | (level, shift, width) :: rest, t =>
    let a := t + 8 * (va / 2 ^ shift % 2 ^ width)
    if !(p.hasBytes a 8) then (.bad 1, 0)
    else if tableStops s die a then (.poisoned, 0)
    else
      let e := peek s a 8
      if e % 2 == 0 then (.absent, 0)
      else if malformed e level shift then (.bad 2, 0)
      else
        let t' := e / 4096 % 2 ^ 28 * 4096
        if e / 2 % 2 == 1 then (.page (t' + va % 2 ^ shift) (attrsOf e), shift)
        else walkFrom s die p va rest t'

/-- The walk of an address under an ASID by a die: the address-space table, then the four levels (R144, R146). -/
def walk (s : State) (die : Nat) (p : Partition) (asid va : Nat) : Xlate × Nat :=
  if 2 ^ p.asidK ≤ asid then (.absent, 0)
  else
    let a := p.asidBase + 8 * asid
    if tableStops s die a then (.poisoned, 0)
    else
      let e := peek s a 8
      if e % 2 == 0 then (.absent, 0)
      else if e / 2 ^ 40 != 0 || e / 2 % 2 ^ 11 != 0 then (.bad 2, 0)
      else walkFrom s die p va walkLevels (e / 4096 % 2 ^ 28 * 4096)

/-- The translation unit of an address (R105). -/
def unitOf (va : Nat) : Nat := Nat.xor (va / 65536 % 4) (va / 2097152 % 4)

/-- A translation entry serves an address of its unit and of an ASID; a page has 64 KiB at least (R102, R105, R143). -/
def TlbEntry.serves (e : TlbEntry) (die part asid va : Nat) : Bool :=
  decide (16 ≤ e.bits) && e.die == die && e.unit == unitOf va && e.part == part && (e.attrs.g || e.asid == asid) && va / 2 ^ e.bits == e.base

/-- What a failed walk came to that an entry shares: its page was absent, or it met a poisoned line. -/
def ReplayEntry.walkOutcome (e : ReplayEntry) : Option Xlate :=
  match e.flight with
  | .faulting => some .absent
  | .poisoning => some .poisoned
  | _ => none

/-- The outcome of a walk of a page by a die that has failed and is outstanding still, the reply of a load that had it being in transit: a
miss on the page shares it (R105, R146). -/
def outstandingWalk (s : State) (die part asid va : Nat) : Option Xlate :=
  s.threads.findSome? (fun p =>
    if dieOf p.1 == die && p.2.part == part && p.2.asid == asid then
      (p.2.replay.find? (fun e => e.state == .pending && e.walk.any (fun v => v / 65536 == va / 65536))).bind (·.walkOutcome)
    else none)

/-- The translation a die's accesses use: a held entry, else the outcome of an outstanding walk, else a walk (R105, R146). -/
def xlate (s : State) (die part asid va : Nat) : Xlate :=
  match s.tlb.find? (fun e => e.serves die part asid va) with
  | some e => .page (e.frame + va % 2 ^ e.bits) e.attrs
  | none =>
    match outstandingWalk s die part asid va, s.partition part with
    | some x, _ => x
    | none, some p => (walk s die p asid va).1
    | none, none => .absent

/-! ## The checks of a global access (R98, R102, R103) -/

/-- Kinds of access as `s.info` names them (R103). -/
inductive Kind where
  | load
  | store
  | atomic
  | fetch
  deriving DecidableEq, Repr

def Kind.code : Kind → Nat
  | .load => 1
  | .store => 2
  | .atomic => 3
  | .fetch => 4

/-- The attributes permit an access of a kind at a privilege level (R102). -/
def permits (at' : Attrs) (super : Bool) (k : Kind) : Bool :=
  match k with
  | .load => at'.r && (super || at'.u)
  | .store => at'.w && (super || at'.u)
  | .atomic => at'.r && at'.w && (super || at'.u)
  | .fetch => at'.x && (if super then !at'.u else at'.u)

/-- The outcome of the checks: the location of each byte and the attributes of its page, or the first failure. -/
inductive Checked where
  | ok (xs : List Nat) (attrs : List Attrs)
  | absent (va : Nat)
  | poisoned
  | trap (t : TrapReq)
  deriving DecidableEq, Repr

/-- The 64 KiB pieces of [va, va + n): start and length, lower first. -/
def pieces (va n : Nat) : List (Nat × Nat) :=
  if n = 0 then []
  else (List.range ((va + n - 1) / 65536 - va / 65536 + 1)).map (fun k =>
    let lo := max va ((va / 65536 + k) * 65536)
    (lo, min (va + n) ((va / 65536 + k + 1) * 65536) - lo))

/-- The byte that an agent's read of a location gives (R106, R180). -/
abbrev View := Nat → Byte

/-- The attributes of a local space's bytes. -/
def localAttrs : Attrs := ⟨false, false, false, false, false, true, true⟩

/-- The same attributes for each of some bytes. -/
def sameAttrs (xs : List Nat) (at' : Attrs) : List Attrs := xs.map (fun _ => at')

/-- The attributes of byte j. -/
def attrAt (as : List Attrs) (j : Nat) : Attrs := as.getD j localAttrs

/-- The attributes of the page that a location of an access lies on. -/
def attrOf (xs : List Nat) (as : List Attrs) (x : Nat) : Attrs :=
  match (xs.zip as).find? (fun e => e.1 == x) with | some e => e.2 | none => attrAt as 0

/-- The granule tags of a piece that differ from the pointer's tag: the first one (R106). -/
def tagClash (view : View) (pa n : Nat) (tag : Nat) : Option Nat :=
  ((List.range ((pa + n - 1) / 64 - pa / 64 + 1)).map (fun k =>
    (view (tagLoc ((pa / 64 + k) * 64))).toNat % 16)).find? (fun g => g != tag)

/-- The checks of one piece on one page (R103): translation, range, permission, tag. `tag` is none where tags are never
compared. -/
def checkPiece (s : State) (view : View) (die part asid : Nat) (super : Bool) (k : Kind) (tag : Option Nat) (va0 va n : Nat) : Checked :=
  match xlate s die part asid va with
  | .absent => .absent va
  | .bad sub => .trap ⟨8, sub, wd k.code, wd va0⟩
  | .poisoned => .poisoned
  | .page pa at' =>
    match s.partition part with
    | none => .trap ⟨8, 1, wd k.code, wd va0⟩
    | some p =>
      if !(p.hasBytes pa n) then .trap ⟨8, 1, wd k.code, wd va0⟩
      else if !(permits at' super k) then .trap ⟨9, 0, wd k.code, wd va0⟩
      else
        match tag with
        | none => .ok (span pa n) (sameAttrs (span pa n) at')
        | some g =>
          match (if at'.tc then tagClash view pa n g else none) with
          | some m => .trap ⟨6, 0, wd (g + 16 * m), wd va0⟩
          | none => .ok (span pa n) (sameAttrs (span pa n) at')

/-- The checks of an access of n bytes, page by page from the lower one. -/
def checkPieces (s : State) (view : View) (die part asid : Nat) (super : Bool) (k : Kind) (tag : Option Nat) (va0 : Nat) :
    List (Nat × Nat) → Checked
  | [] => .ok [] []
  | (va, n) :: rest =>
    match checkPiece s view die part asid super k tag va0 va n with
    | .ok xs as =>
      match checkPieces s view die part asid super k tag va0 rest with
      | .ok ys bs => .ok (xs ++ ys) (as ++ bs)
      | r => r
    | r => r

/-- The checks of R103 on a global access of n bytes. -/
def checkGlobal (s : State) (die part asid : Nat) (super : Bool) (k : Kind) (tag : Option Nat) (va n : Nat)
    (view : View := memGet s.mem) : Checked :=
  checkPieces s view die part asid super k tag va (pieces va n)

/-! ## Local windows (R89 to R91) -/

/-- The windows of a thread. -/
def windowsOf (s : State) (loc : Nat) (t : Thread) : Windows :=
  let base : Windows := ⟨t.alcBank, bits t.alcove 16 16, none, none, 0, dieOf loc, t.part, (s.partition t.part).bind (fun p => p.shareOn (dieOf loc))⟩
  match t.grp.bind s.group with
  | some g =>
    if clusterOf loc == g.cluster then
      { base with pantry := some (g.shares + coreInCluster loc), hall := some g.shares, share := g.share }
    else base
  | none => base

/-- The bytes of a local access, or its trap (R90, R33). -/
def localBytes (w : Windows) (space off n : Nat) : Except TrapReq (List Nat) :=
  let out : Except TrapReq (List Nat) := .error ⟨7, 0, wd space, wd off⟩
  match space with
  | 1 => if off + n ≤ w.alcSize then .ok (span (dynBase w.alcove + off) n) else out
  | 2 =>
    match w.pantry with
    | some b => if off + n ≤ w.share then .ok (span (dynBase b + off) n) else out
    | none => out
  | 3 =>
    match w.hall with
    | none => .error ⟨9, 0, 3, wd off⟩
    | some b =>
      if off / 2097152 = 0 ∧ off % 262144 + n ≤ w.share then
        .ok (span (dynBase (b + off / 262144) + off % 262144) n)
      else out
  | _ =>
    match w.cellar with
    | some c => if off + n ≤ c.bytes then .ok (span (c.base + off) n) else out
    | none => out

/-- A local space that some windows name is there still: the thread's alcove, its group's shares, its partition's cellar share as
it was granted (R383). -/
def windowLive (s : State) (w : Windows) (space : Nat) : Bool :=
  match space with
  | 0 => true
  | 1 => s.banks.contains w.alcove
  | 2 => match w.pantry with | some b => s.banks.contains b | none => true
  | 3 => match w.hall with | some b => s.banks.contains b | none => true
  | _ => match w.cellar with | some c => (match s.partition w.part with | some p => p.cellar.contains c | none => false) | none => true

/-! ## The L1 data cache (R107, R108) -/

/-- A valid line of a core for an address of an ASID. -/
def l1Find (s : State) (core asid va : Nat) : Option L1Line :=
  let c := s.core core
  s.l1d.find? (fun l => l.core == core && l.va == va / 64 && (l.attrs.g || l.asid == asid) && l.die == c.genDie && l.pkg == c.genPkg)

/-- Every line of an access hits. -/
def l1Hits (s : State) (core asid va n : Nat) : Bool :=
  decide (0 < n) && (List.range ((va + n - 1) / 64 - va / 64 + 1)).all (fun k => (l1Find s core asid ((va / 64 + k) * 64)).isSome)

/-- The valid lines of a core that an access hits. -/
def hitLines (s : State) (core asid va n : Nat) : List L1Line :=
  (List.range ((va + n - 1) / 64 - va / 64 + 1)).filterMap (fun j => l1Find s core asid ((va / 64 + j) * 64))

/-- The checks an L1 hit makes at issue: the permissions copied into the lines, and the tag that the access sees at each (R104). -/
def checkHit (s : State) (core asid : Nat) (super : Bool) (k : Kind) (tag : Option Nat) (va n : Nat)
    (seen : L1Line → Nat) : Checked :=
  let lines := hitLines s core asid va n
  match lines.find? (fun l => !(permits l.attrs super k) || (l.attrs.tc && tag.any (fun g => seen l != g))) with
  | some l =>
    if !(permits l.attrs super k) then .trap ⟨9, 0, wd k.code, wd va⟩
    else .trap ⟨6, 0, wd (tag.getD 0 + 16 * seen l), wd va⟩
  | none =>
    match lines with
    | l :: _ =>
      let at' := (span va n).map (fun a => ((lines.find? (fun m => m.va == a / 64)).getD l, a % 64))
      .ok (at'.map (fun e => e.1.pa * 64 + e.2)) (at'.map (fun e => e.1.attrs))
    | [] => .absent va

/-- A core's L1 drops the lines of a physical line. -/
def l1DropPa (s : State) (core line : Nat) : State :=
  { s with l1d := s.l1d.filter (fun l => !(l.core == core && l.pa == line)) }

/-- A fill first drops any other line of the set with the same physical frame; the set keeps at most four lines (R107, R108). -/
def l1Fill (s : State) (core asid va pa : Nat) (at' : Attrs) : State :=
  let c := s.core core
  let set := fun (l : L1Line) => l.core == core && l.va % 256 == va / 64 % 256
  let kept := s.l1d.filter (fun l => !(set l && (l.pa / 1024 == pa / 65536 || (l.va == va / 64 && l.asid == asid))))
  let kept := if 4 ≤ (kept.filter set).length then (match kept.find? set with | some o => kept.erase o | none => kept) else kept
  let g := s.resolve (.thread (128 * core)) (tagLoc pa)
  { s with l1d := kept ++ [⟨core, va / 64, asid, pa / 64, at', BitVec.ofNat 4 (memGet s.mem g).toNat, newestId (wsGet s g), c.genDie, c.genPkg⟩] }

/-- An acquire at cluster or die scope adds 1 to the core's die number, one at package or system scope to its package
number; a wrap from 15 to 0 first invalidates the core's L1 data cache (R108). -/
def bumpGen (s : State) (core scope : Nat) : State :=
  if scope < 2 then s
  else
    let c := s.core core
    let wrap := if scope ≤ 3 then c.genDie == 15#4 else c.genPkg == 15#4
    let s := if wrap then { s with l1d := s.l1d.filter (fun l => l.core != core) }.count core 15 1 else s
    s.mapCore core (fun c => if scope ≤ 3 then { c with genDie := c.genDie + 1 } else { c with genPkg := c.genPkg + 1 })

/-! ## Slice watch units (R136) -/

/-- The unit at which a write to a line enters: the home die of a non-cacheable write, else the slice of the writer's die where
the line lives (R110, R136). -/
def watchUnit (s : State) (pa : Nat) (slice : Option Nat) : Nat :=
  match slice with
  | some die => 1024 * die + s.l2Slice die (pa / 64)
  | none => 16384 + homeDie pa

/-- A partition's watch table covers a line for a kind of agent. -/
def watched (s : State) (p : Partition) (line kind : Nat) : Bool :=
  (List.range 8).any (fun j =>
    let a := p.watchtab + 32 * j
    let w0 := peek s a 8
    let w1 := peek s (a + 8) 8
    let base := w0 / 64
    let n := w1 % 65536 + 1
    w1 / 2 ^ 63 == 1 && w0 % 64 == 0 && w0 / 2 ^ 40 == 0 && w1 / 2 ^ 22 % 2 ^ 41 == 0 &&
    peek s (a + 16) 8 == 0 && peek s (a + 24) 8 == 0 && w1 / 2 ^ (16 + kind) % 2 == 1 &&
    decide (base ≤ line) && decide (line < base + n) && p.hasBytes (base * 64) (n * 64))

/-- The writer identity of R134. -/
def writerId (loc kind part : Nat) : Word := wd (loc + kind * 2 ^ 20 + part * 2 ^ 24)

/-- The watch records of a write to some bytes by an agent of a launch: one per watched line (R134, R136). -/
def watchWrite (s : State) (xs : List Nat) (slice : Option Nat) (loc kind part num : Nat) : State :=
  let hbm := xs.filter (fun x => bankOf x == 0)
  let lines := (hbm.map (· / 64)).eraseDups
  lines.foldl (fun st line =>
    match st.parts.find? (fun p => watched st p line kind) with
    | none => st
    | some p =>
      let lowest := (hbm.filter (fun x => x / 64 == line)).foldl min (line * 64 + 63)
      { st with appends := st.appends ++ [⟨p.num, 0, none, wd (6 + loc * 2 ^ 24 + num * 2 ^ 48), wd lowest, writerId loc kind part, some (watchUnit s lowest slice), false, false, []⟩] }) s

/-- The units at which a write to some bytes adds a record. -/
def watchUnits (s : State) (xs : List Nat) (slice : Option Nat) (kind : Nat) : List Nat :=
  let hbm := xs.filter (fun x => bankOf x == 0)
  ((hbm.map (· / 64)).eraseDups.filter (fun line => s.parts.any (fun p => watched s p line kind))).map (fun line =>
    watchUnit s ((hbm.filter (fun x => x / 64 == line)).foldl min (line * 64 + 63)) slice)

/-- The records that writes, each of some bytes by a slice or at the home, add have room in their units (R136). -/
def watchFits (s : State) (ws : List (List Nat × Option Nat)) (kind : Nat) : Bool :=
  let us := ws.flatMap (fun w => watchUnits s w.1 w.2 kind)
  us.eraseDups.all (fun u => decide ((s.appends.filter (fun a => a.unit == some u)).length + (us.filter (· == u)).length ≤ 64))

/-- A write to some bytes would add a record at a unit that holds 64 (R136). -/
def watchBlocked (s : State) (xs : List Nat) (slice : Option Nat) (kind : Nat) : Bool :=
  xs.any (fun x => bankOf x == 0 && s.parts.any (fun p => watched s p (x / 64) kind) &&
    decide (64 ≤ (s.appends.filter (fun a => a.unit == some (watchUnit s x slice))).length))

/-- A slice watch unit holds more than its 64 records (R136). -/
def overfull (s : State) : Bool :=
  s.appends.any (fun a => a.unit.isSome && decide (64 < (s.appends.filter (fun b => b.unit == a.unit)).length))

/-! ## Landing a write (R114, R116, R179, R383) -/

/-- One more store dropped at the home of a line (R114, R173). -/
def countDropped (s : State) (pa : Nat) : State :=
  { s with mdieErr := Vector.ofFn (fun i : Fin 4 =>
      if i.val == homeDie pa then { s.mdieErr[i] with dropped := satInc s.mdieErr[i].dropped } else s.mdieErr[i]) }

/-- The cells cover their whole 8-byte word. -/
def coversWord (cells : List (Nat × Byte × Byte)) : Bool :=
  decide ((cells.filter (fun c => c.2.2 == 255#8)).length = 8)

/-- A write's cells land: dropped at a poisoned line (and counted, where `counts`) or word, discarded in freed storage, redirected to a
detached copy, else entered. A store of a whole poisoned word clears the poison. The frontier afterwards is returned. -/
def land (s : State) (a : Agent) (F : Frontier) (cells : List (Nat × Byte × Byte)) (id : Nat) (top : Bool)
    (label : Frontier → Option Label) (counts : Bool := true) : State × Frontier × Bool :=
  match cells with
  | [] => (s, F, false)
  | c0 :: _ =>
    let cells := cells.map (fun c => (s.resolve a c.1, c.2))
    let x0 := s.resolve a c0.1
    let line := lineOf x0
    let hbm := inLine x0
    if hbm && (s.dirEntry line).poison then (if counts then countDropped s (line * 64) else s, F, false)
    else if !(s.live x0) then (s, F, false)
    else if !hbm && s.poisoned x0 && !(coversWord cells) then (s, F, false)
    else
      let s := if !hbm && s.poisoned x0 then { s with poison := s.poison.filter (· != poisonUnit x0) } else s
      let F' := fWrite F (cells.map (·.1)) id
      (enterCells s F cells id top (label F'), F', true)

/-- A 64-bit value as cells of one access. -/
def cellsOf (xs : List Nat) (bs : List Byte) : List (Nat × Byte × Byte) := (xs.zip bs).map (fun e => (e.1, e.2, 255#8))

/-- Cells grouped by aligned 8-byte unit, in order (R178). -/
def unitsOf (cells : List (Nat × Byte × Byte)) : List (List (Nat × Byte × Byte)) :=
  ((cells.map (fun c => c.1 / 8)).eraseDups).map (fun u => cells.filter (fun c => c.1 / 8 == u))

end Sys2Proof.Machine
end

