-- ==== Sys2Proof/Machine/Coherence.lean ====
section
/-! DEFINITION. The slices' copies and the home directory's entries (R110 to R115, R154, R193): what a die holds, writing
back and dropping a copy, losing an owner, the detached copy of a fenced owner, reclaiming a line, and what accesses other than
a thread's do to the directory (R105, R111). -/
namespace Sys2Proof.Machine

/-! ## Copies -/

/-- A die's L2 holds a line modified. -/
def State.owns (s : State) (die line : Nat) : Bool := s.l2.any (fun l => l.die == die && l.pa == line && l.modified)

/-- A die's copy becomes shared. -/
def State.downgrade (s : State) (die line : Nat) : State :=
  { s with l2 := s.l2.map (fun l => if l.die == die && l.pa == line then { l with modified := false } else l) }

/-! ## Directory entries (R154) -/

/-- The holders bit of a die. -/
def dieBit (d : Nat) : BitVec 8 := 1#8 <<< d
/-- A die is recorded as a holder. -/
def DirEntry.holds (e : DirEntry) (d : Nat) : Bool := bit e.holders d
/-- The holders, ascending. -/
def DirEntry.holderList (e : DirEntry) : List Nat := (List.range 8).filter e.holds
/-- The holders agree with the state; state 3 agrees with nothing. -/
def DirEntry.agrees (e : DirEntry) : Bool :=
  match e.state.toNat with
  | 0 => e.holders == 0
  | 1 => e.holders != 0
  | 2 => e.holderList.length == 1
  | _ => false
/-- No die holds the line: state invalid, and no holder that would disagree with it (R154). -/
def DirEntry.unheld (e : DirEntry) : Bool := e.state == 0 && e.holders == 0
/-- The entry without a holder. -/
def DirEntry.without (e : DirEntry) (d : Nat) : DirEntry :=
  let h := e.holders &&& ~~~ dieBit d
  { e with holders := h, state := if h = 0 then 0 else if e.state = 2 then 2 else 1 }
/-- The entry with a sharer more. -/
def DirEntry.shared (e : DirEntry) (d : Nat) : DirEntry := { e with holders := e.holders ||| dieBit d, state := 1 }
/-- The entry with one owner. -/
def DirEntry.modifiedBy (e : DirEntry) (d : Nat) : DirEntry := { e with holders := dieBit d, state := 2 }

/-! ## Frontiers of a die's agents (R193) -/

/-- What is added to the queue number of an entry saved with its thread (R124). -/
def savedQueue : Nat := 32768
/-- The die of a queue number. -/
def queueDie (q : Nat) : Nat := let q := q % savedQueue; if q < 8192 then q / 8 / 128 else (q - 8192) / 4 / 32

/-- The frontiers of the agents of some dies changed: threads in contexts and saved ones with the records they
wait for, engine queues with the commands they hold, sluices with the operands and deliveries at them. -/
def mapFronts (s : State) (inDie : Nat → Bool) (f : Frontier → Frontier) : State :=
  { s with threads := s.threads.map (fun e => if inDie (dieOf e.1) then (e.1, { e.2 with front := f e.2.front }) else e)
           saved := s.saved.map (fun x => if inDie (dieOf x.loc) then { x with thread := { x.thread with front := f x.thread.front } } else x)
           qfront := s.qfront.map (fun e => if inDie (queueDie e.1) then (e.1, f e.2) else e)
           cmds := s.cmds.map (fun c => if inDie (queueDie c.queue) then { c with front := f c.front } else c)
           slices := s.slices.map (fun e => if inDie (e.1 / 192) then (e.1, f e.2) else e)
           operands := s.operands.map (fun o => if inDie (o.slice / 192) then { o with front := f o.front } else o)
           deliveries := s.deliveries.map (fun d =>
             if d.ops.any (fun o => inDie (o.1.slice / 192)) then { d with front := f d.front } else d)
           appends := s.appends.map (fun a => if (a.thread.any (fun l => inDie (dieOf l))) then { a with front := f a.front } else a) }

/-- The frontiers of the agents of no compute die changed: the memory dies' functions and the Ethernet peers in the peer tables. -/
def mapOuter (s : State) (f : Frontier → Frontier) : State :=
  let live := s.parts.flatMap (fun p => ((List.range 64).filter (fun k => peek s (p.peertab + 32 * k + 16) 8 % 2 == 1)).map (64 * p.num + ·))
  let peers := live.foldl (fun ps k => if (alGet ps k).isSome then ps else alSet ps k []) s.peers
  { s with dev := f s.dev, peers := peers.map (fun e => (e.1, f e.2)) }

/-- The bytes of a line. -/
def lineBytes (line : Nat) : List Nat := span (64 * line) 64

/-- A line leaves a die's L2, and with it the L1 data caches of the die's cores (DESIGN CHOICE, log entry 64: R107 states no inclusion). -/
def removeCopy (s : State) (die line : Nat) : State :=
  { s with l2 := s.l2.filter (fun l => !(l.die == die && l.pa == line))
           l1d := s.l1d.filter (fun l => !(l.core / 128 == die && l.pa == line)) }

/-- A slice drops its die's copy of a line; a detached copy ends, and the frontiers of the die's agents at the line become
the top of its write sets (R113, R193). -/
def dropCopy (s : State) (die line : Nat) : State :=
  let s := removeCopy s die line
  match s.detachedBank die line with
  | none => s
  | some b =>
    let s := { s with detached := s.detached.filter (fun e => !(e.1 == die && e.2.1 == line)), banks := s.banks.filter (· != b) }
    mapFronts s (· == die) (fun F => (lineBytes line).foldl (fun G x => alSet G x [newestId (wsGet s x)]) F)

/-- An error invalidate goes to a die for a line (R113). -/
def errorInvalidate (s : State) (die line : Nat) : State :=
  if s.errInv.any (fun e => e.line == line && e.die == die) then s
  else { s with errInv := s.errInv ++ [⟨line, die, s.time, false⟩] }

/-- One more line made owner-lost at its home (R173). -/
def countLost (s : State) (line : Nat) : State :=
  { s with mdieErr := Vector.ofFn (fun i : Fin 4 =>
      if i.val == homeDie (64 * line) then { s.mdieErr[i] with lost := satInc s.mdieErr[i].lost } else s.mdieErr[i]) }

/-- The write set of one byte of a detached copy: the last write the copy held, with its publication, and no older one (R180, R193). -/
def lastWrite (s : State) (x : Nat) : WriteSet :=
  match (wsGet s x).writes with
  | r :: _ => ⟨r.val, true, [{ r with below := [0] }]⟩
  | [] => ⟨memGet s.mem x, false, []⟩

/-- A byte of a detached copy begins as the last write of the byte it is a copy of. -/
def copyByte (s : State) (dst x : Nat) : State :=
  { s with mem := memSet s.mem dst (memGet s.mem x), wsets := alSet s.wsets dst (lastWrite s x) }

/-- The fenced owner's copy goes on as a detached copy of what it held, its tag after its 64 bytes (R110, R193). -/
def detach (s : State) (die line : Nat) : State :=
  if s.held die line && (s.detachedBank die line).isNone then
    let b := s.newBanks 1
    let s := { b.2 with detached := b.2.detached ++ [(die, line, b.1)] }
    (List.range 64).foldl (fun st i => copyByte st (dynBase b.1 + i) (64 * line + i)) (copyByte s (dynBase b.1 + 64) (tagLoc (64 * line)))
  else s

/-- A line becomes owner-lost: poisoned and invalid, counted, and the silent owner, where there is one, fenced and sent an error
invalidate; the requests that wait for the line at its home are gone (R113, R193). -/
def loseOwner (s : State) (line : Nat) (owner : Option Nat) : State :=
  let e := s.dirEntry line
  let fenced := match owner with | some d => e.fenced ||| dieBit d | none => e.fenced
  let s := s.setDir line ⟨0, 0, fenced, true, true⟩
  let s := { countLost s line with homeTx := s.homeTx.filter (fun x => x.line != line)
                                   sliceMsgs := s.sliceMsgs.filter (fun m => !(m.line == line && m.stage == .home)) }
  match owner with
  | some d => errorInvalidate (detach s d line) d line
  | none => s

/-- A message of a die about a line is under way. -/
def lineMsg (s : State) (die line : Nat) : Bool := s.sliceMsgs.any (fun m => m.die == die && m.line == line)

/-- The attributes of a line held for a page-table entry. -/
def tableAttrs : Attrs := ⟨true, true, false, false, false, false, false⟩

/-- A die's slice sends a message about a line, unless one is under way (R113). -/
def sendMsg (s : State) (die line : Nat) (kind : HomeKind) : State :=
  if lineMsg s die line then s else { s with sliceMsgs := s.sliceMsgs ++ [⟨die, line, kind, s.time, .sent, 64 * line, 0, tableAttrs, .access⟩] }

/-- A slice writes a modified line back and keeps a shared copy; the home is still to answer (R111, R113, R285). -/
def writeBack (s : State) (die line : Nat) : State :=
  if s.owns die line then (sendMsg s die line .cleaned).downgrade die line else s

/-- A slice evicts its copy, writing it back where it is modified, and notifies the home, which is still to answer (R111, R113). -/
def evict (s : State) (die line : Nat) : State :=
  dropCopy (sendMsg s die line (if s.owns die line then .writeback else .notice)) die line

/-- A slice of 16,384 lines (R110). -/
def l2Lines : Nat := 16384

/-- Room for a line in its slice: where it is full, its oldest line that is no detached copy and has no message under way is evicted
(R110, R193; log entry 25). -/
def makeRoom (s : State) (die line : Nat) : State :=
  let mine := s.l2.filter (fun l => l.die == die && s.l2Slice die l.pa == s.l2Slice die line)
  if l2Lines ≤ mine.length then
    match mine.find? (fun l => (s.detachedBank die l.pa).isNone && !(lineMsg s die l.pa)) with | some l => evict s die l.pa | none => s
  else s

/-- A die's copy of a line with its directory state. -/
def State.addCopy (s : State) (die line va asid : Nat) (at' : Attrs) (modified : Bool) : State :=
  let s := makeRoom { s with l2 := s.l2.filter (fun l => !(l.die == die && l.pa == line)) } die line
  { s with l2 := s.l2 ++ [⟨die, line, va / 64, asid, at', modified⟩] }

/-- `reclaim`'s move: the line takes 64 bytes, is no longer poisoned or lost, and every frontier holds the new write; older
writes of the line can never be read again, the initial one among them (R115, R193). The state is invalid; the tag and the fence bits stay. -/
def reclaimLine (s : State) (line : Nat) (bs : List Byte) (label : Frontier → Option Label) : State :=
  let id := s.fresh
  let s := { s with fresh := s.fresh + 1 }.setDir line { s.dirEntry line with state := 0, holders := 0, poison := false, lost := false }
  let xs := lineBytes line
  let lbl := label (xs.map (fun x => (x, [id])))
  let s := (xs.zip bs).foldl (fun st e =>
    { st with mem := memSet st.mem e.1 e.2, wsets := alSet st.wsets e.1 ⟨e.2, true, [⟨id, e.2, [0], lbl⟩]⟩ }) s
  let f := fun (F : Frontier) => xs.foldl (fun G x => alSet G x [id]) F
  mapOuter (mapFronts s (fun _ => true) f) f

/-- A line is poisoned in its storage: no copy of it is left in an L2 or an L1 (R114). -/
def poisonLine (s : State) (line : Nat) : State :=
  { s.setDir line { s.dirEntry line with state := 0, holders := 0, poison := true } with
    l2 := s.l2.filter (fun l => !(l.pa == line && (s.detachedBank l.die line).isNone))
    l1d := s.l1d.filter (fun l => !(l.pa == line && (s.detachedBank (l.core / 128) line).isNone)) }

/-! ## Accesses of engines, sluices, walks, fetches and frames (R105, R111)

A thread's loads, stores and atomics wait for the messages of R111. Any other access takes its line in its own move, the answers
of the other dies come with it; it waits while a message about the line is under way (log entry 16). -/

/-- What a message tells its home and asks nothing: a writeback or an eviction notice. -/
def HomeKind.tells (k : HomeKind) : Bool := k == .writeback || k == .cleaned || k == .notice

/-- A writeback or a notice about a line has not reached its home. -/
def tellsHome (s : State) (line : Nat) : Bool := s.sliceMsgs.any (fun m => m.line == line && m.stage == .sent && m.kind.tells)

/-- A grant of a line is on its way to some die: what follows at the home comes to that die after it (R113). -/
def granting (s : State) (line : Nat) : Bool :=
  s.sliceMsgs.any (fun m => m.line == line && m.stage == .answered && (m.kind == .read || m.kind == .upgrade))

/-- The home of a line is engaged: a request is being served, a grant is on its way, or a writeback or notice has not arrived. -/
def homeBusy (s : State) (line : Nat) : Bool := s.homeTx.any (fun q => q.line == line) || granting s line || tellsHome s line

/-- A message about a line stands between a die and its home, or the home is engaged. -/
def lineBusy (s : State) (die line : Nat) : Bool := homeBusy s line || lineMsg s die line

/-- Every other die's copy of a line is recalled: written back and kept shared for a read, else dropped; a die recorded as its
owner that does not hold it loses the line (R111, R113). -/
def recallCopies (s : State) (die line : Nat) (keep : Bool) : State :=
  let e := s.dirEntry line
  let others := e.holderList.filter (· != die)
  if !e.agrees || (e.state == 2 && e.holderList.any (fun d => !(s.held d line))) then loseOwner s line none
  else if keep then (if e.state == 2 then others.foldl (fun st d => st.downgrade d line) s else s).setDir line { e with state := if e.state == 0 then 0 else 1 }
  else (others.foldl (fun st d => removeCopy st d line) s).setDir line (others.foldl DirEntry.without e)

/-- A die takes a read copy of a line. -/
def touchRead (s : State) (die line va asid : Nat) (at' : Attrs) : State :=
  if s.held die line || (s.dirEntry line).poison || lineBusy s die line || (s.dirEntry line).isFenced die then s
  else
    let s := recallCopies s die line true
    if (s.dirEntry line).poison then s else (s.setDir line ((s.dirEntry line).shared die)).addCopy die line va asid at' false

/-- A die takes a line to write it. -/
def touchWrite (s : State) (die line va asid : Nat) (at' : Attrs) : State :=
  if s.owns die line || (s.dirEntry line).poison || lineBusy s die line || (s.dirEntry line).isFenced die then s
  else
    let s := recallCopies s die line false
    if (s.dirEntry line).poison then s else (s.setDir line ((s.dirEntry line).modifiedBy die)).addCopy die line va asid at' true

/-- An access at the home: no copy is left (R111). -/
def touchHome (s : State) (line : Nat) : State :=
  if (s.dirEntry line).poison || homeBusy s line || (s.dirEntry line).unheld then s else recallCopies s 8 line false

/-- The lines of the bytes an access touches, each with the address it is reached by and its page's attributes. -/
def linesTouched (va : Nat) (xs : List Nat) (as : List Attrs) : List (Nat × Nat × Attrs) :=
  (List.range xs.length).filterMap (fun j =>
    let x := xs.getD j 0
    if bankOf x == 0 && (j == 0 || x % 64 == 0) then some (x / 64, va + j, attrAt as j) else none)

/-- What an access to some bytes does to the directory. -/
def touch (s : State) (die asid va : Nat) (xs : List Nat) (as : List Attrs) (write : Bool) : State :=
  (linesTouched va xs as).foldl (fun st e =>
    if !e.2.2.c then touchHome st e.1
    else if write then touchWrite st die e.1 e.2.1 asid e.2.2 else touchRead st die e.1 e.2.1 asid e.2.2) s

/-- An access to some bytes has to wait for a message about one of their lines. -/
def touchBusy (s : State) (die : Nat) (xs : List Nat) (as : List Attrs) (write : Bool) : Bool :=
  (linesTouched 0 xs as).any (fun e => !((s.dirEntry e.1).poison) &&
    (if e.2.2.c then !(if write then s.owns die e.1 else s.held die e.1) && lineBusy s die e.1
     else homeBusy s e.1))

/-! ## Filling the translation units (R105) -/

/-- The page-table entries a die's walk reads from a table on. -/
def walkReads (s : State) (die : Nat) (p : Partition) (va : Nat) : List (Nat × Nat × Nat) → Nat → List Nat
  | [], _ => []
  | (level, shift, width) :: rest, t =>
    let a := t + 8 * (va / 2 ^ shift % 2 ^ width)
    if !(p.hasBytes a 8) then []
    else
      let e := peek s a 8
      a :: (if tableStops s die a || e % 2 == 0 || malformed e level shift || e / 2 % 2 == 1 then []
        else walkReads s die p va rest (e / 4096 % 2 ^ 28 * 4096))

/-- The table entries that a die's walk of an address reads, up to the one that ends it (R144, R146). -/
def tableReads (s : State) (die : Nat) (p : Partition) (asid va : Nat) : List Nat :=
  if 2 ^ p.asidK ≤ asid then []
  else
    let a := p.asidBase + 8 * asid
    let e := peek s a 8
    a :: (if tableStops s die a || e % 2 == 0 || e / 2 ^ 40 != 0 || e / 2 % 2 ^ 11 != 0 then []
      else walkReads s die p va walkLevels (e / 4096 % 2 ^ 28 * 4096))

/-- A walk's reads of the tables, through the die's L2. -/
def touchWalk (s : State) (p : Partition) (die asid va : Nat) : State :=
  (tableReads s die p asid va).foldl (fun st x => touchRead st die (x / 64) x 0 tableAttrs) s

/-- A page has to be walked: its unit holds no entry for it, and no walk of it is outstanding (R105). -/
def walks (s : State) (die part asid va : Nat) : Bool :=
  !(s.tlb.any (fun e => e.serves die part asid va)) && (outstandingWalk s die part asid va).isNone

/-- The lines of the tables that a die's access to some bytes walks (R105, R146). -/
def walkLines (s : State) (die part asid va n : Nat) : List Nat :=
  match s.partition part with
  | none => []
  | some p => ((pieces va n).filter (fun e => walks s die part asid e.1)).flatMap (fun e => (tableReads s die p asid e.1).map (· / 64))

/-- A walk has to wait for a message about a line of the tables (R111; log entry 16). -/
def walkWaits (s : State) (die part asid va n : Nat) : Bool :=
  (walkLines s die part asid va n).any (fun l => !(s.held die l) && !((s.dirEntry l).poison) && lineBusy s die l)

/-- The unit of an address holds its entry: 8,192 entries a unit, the oldest making room; the walk reads the tables through the
die's L2, whatever it comes to (R105). -/
def fillTlb (s : State) (die part asid va : Nat) : State :=
  if !(walks s die part asid va) then s
  else
    match s.partition part with
    | none => s
    | some p =>
      touchWalk (match walk s die p asid va with
        | (.page pa at', shift) =>
          let e : TlbEntry := ⟨die, unitOf va, part, asid, va / 2 ^ shift, shift, pa - va % 2 ^ shift, at'⟩
          let mine := fun (x : TlbEntry) => x.die == die && x.unit == unitOf va
          let full := decide (8192 ≤ (s.tlb.filter mine).length)
          let kept := if full then (match s.tlb.find? mine with | some o => s.tlb.erase o | none => s.tlb) else s.tlb
          { s with tlb := kept ++ [e] }
        | _ => s) p die asid va

/-- The translation units' entries for the pages of an access. -/
def fillTlbs (s : State) (die part asid va n : Nat) : State :=
  (pieces va n).foldl (fun st p => fillTlb st die part asid p.1) s

end Sys2Proof.Machine
end

