-- ==== Sys2Proof/Machine/Ops.lean ====
section
/-! DEFINITION. The named operations on a thread: register reads and writes, moving past an instruction, the kinds of
producer, store-buffer forwarding, breaking a gang, and TAKING A SYNCHRONOUS TRAP as one shared operation (R82, R83, R85). -/
namespace Sys2Proof.Machine

/-- The outcome of a move whose condition does not hold: it is not permitted, and nothing changes (R174). -/
def noMove (s : State) : Host.Outcome State Fault Refusal := .next s

/-! ## Status fields (R72) -/

/-- The thread runs at supervisor level. -/
def Thread.super (t : Thread) : Bool := bits t.status 0 2 == 1
/-- s.status in_trap. -/
def Thread.inTrap (t : Thread) : Bool := bit t.status 2
/-- s.status watch_skip. -/
def Thread.watchSkip (t : Thread) : Bool := bit t.status 3
/-- s.pix reps (R75). -/
def Thread.reps (t : Thread) : Nat := bits t.pix 0 16
/-- The launch number of s.launch (R73). -/
def Thread.launchNum (t : Thread) : Nat := bits t.launch 48 16
/-- The thread was started by `spawn` (R73). -/
def Thread.spawned (t : Thread) : Bool := bit t.gid 63
/-- The thread belongs to a partition's boot set (R352). -/
def Thread.boot (t : Thread) : Bool := t.launchNum == 65535
/-- The address of the instruction being executed: the body's address under a repeat (R219). -/
def Thread.here (t : Thread) : BitVec 48 := if t.rep.isSome then t.pc + 4 else t.pc

/-! ## General, predicate and other registers (R63 to R69) -/

/-- Gpr(n): g0 reads zero (R14, R63). -/
def Thread.gpr (t : Thread) (r : Reg) : Word := if r = 0 then 0 else t.g[r.toNat]
/-- A producer that names g0 carries a poison or fault mark (R65). -/
def Thread.zeroMarked (t : Thread) : Bool := t.replay.any (fun e => e.dst == 0 && e.mark.isSome)
/-- The full/empty state of a register; g0 is full but for the mark of a producer that names it (R65). -/
def Thread.regState (t : Thread) (r : Reg) : RegState :=
  if r = 0 then (if t.zeroMarked then .owed else .full) else t.gs[r.toNat]
/-- A write of a general register: it becomes full and enters the operand log (R64, R86); g0 discards it. -/
def Thread.setG (t : Thread) (r : Reg) (v : Word) : Thread :=
  if r = 0 then t
  else { t with g := t.g.set r.toNat v
                gs := t.gs.set r.toNat .full
                oplog := (t.oplog ++ [(r, v)]).drop (t.oplog.length + 1 - 16) }
/-- SetEmpty: the register becomes empty and owed (R14, R64). -/
def Thread.setOwed (t : Thread) (r : Reg) : Thread := if r = 0 then t else { t with gs := t.gs.set r.toNat .owed }
/-- A predicate; p0 reads 1 (R66). -/
def Thread.pred (t : Thread) (k : BitVec 3) : Bool := k == 0 || bit t.p k.toNat
/-- A predicate write; p0 discards it (R66). -/
def Thread.setP (t : Thread) (k : BitVec 3) (v : Bool) : Thread :=
  if k = 0 then t
  else { t with p := if v then t.p ||| (1#8 <<< k.toNat) else t.p &&& ~~~ (1#8 <<< k.toNat) }
/-- Branch-target register k. -/
def Thread.bReg (t : Thread) (k : BitVec 3) : Word := t.b[k.toNat]
/-- Descriptor k. -/
def Thread.dReg (t : Thread) (k : BitVec 4) : BitVec 128 := t.d[k.toNat]
/-- Engine register k. -/
def Thread.eReg (t : Thread) (k : BitVec 4) : Word := t.e[k.toNat]

/-! ## Moving past an instruction (R22, R72, R75, R221) -/

/-- The thread after its instruction has completed: past it, or at the next repetition of its `rpt`; watch_skip is
cleared; its next instruction may issue `lat` cycles after this one. -/
def Thread.advance (t : Thread) (now : Word) (lat : Nat) : Thread :=
  let t := { t with issueAt := now + wd lat, status := setBits t.status 3 1 0, check := none, guard := none }
  match t.rep with
  | none => { t with pc := t.pc + 4 }
  | some n =>
    if n ≤ t.reps + 1 then { t with pc := t.pc + 8, pix := setBits t.pix 0 16 0, rep := none }
    else { t with pix := setBits t.pix 0 16 (t.reps + 1), rep := none }

/-- The thread after a redirect of fetch. -/
def Thread.jump (t : Thread) (target : BitVec 48) (now : Word) (lat : Nat) : Thread :=
  { t.advance now lat with pc := target }

/-! ## Long-latency producers (R64) -/

end Sys2Proof.Machine

namespace Sys2Proof

/-- A load: a producer whose reply may fault recoverably (R103). -/
def Instr.isLoad : Instr → Bool
  | .ld .. | .ldn .. | .ordLd .. | .ordLdn .. | .ldb .. | .ldx .. | .ldg .. => true
  | _ => false
/-- An atomic producer. -/
def Instr.isAtomic : Instr → Bool
  | .amoAdd .. | .amoMin .. | .amoMax .. | .amoMinn .. | .amoMaxn .. | .amoAnd .. | .amoOr .. | .amoXor .. | .amoXchg ..
  | .amoFaddS .. | .amoFaddBf .. | .cas .. => true
  | _ => false
/-- A wait. -/
def Instr.isWait : Instr → Bool
  | .waita .. | .waitge .. => true
  | _ => false
/-- `spawn`, to a core or a cluster. -/
def Instr.isSpawn : Instr → Bool
  | .spawn .. | .spawnCl .. => true
  | _ => false
/-- `taga`. -/
def Instr.isTaga : Instr → Bool
  | .taga .. => true
  | _ => false
/-- A long-latency producer (R64). -/
def Instr.isProducer (i : Instr) : Bool := i.isLoad || i.isAtomic || i.isWait || i.isSpawn || i.isTaga

end Sys2Proof

namespace Sys2Proof.Machine

/-- The instruction of an entry's word. -/
def ReplayEntry.instr (e : ReplayEntry) : Option Instr :=
  match decode e.word with
  | .ok i => some i
  | .error _ => none

/-- An atomic, `spawn` or `taga` in transit to its point of performance (R82), a `spawn` that has been issued again and still waits for g1 to
g4 among them: it is no pending entry of a frame or a saved state (R246, R248). -/
def ReplayEntry.inTransit (e : ReplayEntry) : Bool :=
  e.state == .pending && e.mark.isNone &&
  match e.instr with
  | some i => i.isAtomic || i.isSpawn || i.isTaga
  | none => false

/-- The code of an entry's state (R81). -/
def EntryState.code : EntryState → Nat
  | .pending => 0
  | .done => 1
  | .faulted => 2
  | .poisoned => 3

/-- The newest entry that owes a register; for g0 the oldest that carries a mark (R65). -/
def Thread.ower (t : Thread) (r : Reg) : Option ReplayEntry :=
  if r = 0 then t.replay.find? (fun e => e.dst == 0 && e.mark.isSome) else (t.replay.reverse).find? (fun e => e.dst == r)

/-- The state with one replay entry of a thread changed. -/
def Thread.mapEntry (t : Thread) (id : Nat) (f : ReplayEntry → ReplayEntry) : Thread :=
  { t with replay := t.replay.map (fun e => if e.id == id then f e else e) }
/-- The thread without one replay entry. -/
def Thread.dropEntry (t : Thread) (id : Nat) : Thread := { t with replay := t.replay.filter (fun e => e.id != id) }

/-! ## Store buffer (R179, R180, R184) -/

/-- Some entry of SB(t) holds a byte. -/
def Thread.sbHas (t : Thread) (x : Nat) : Bool := t.sb.any (fun e => e.cells.any (fun c => c.1 == x))

/-- An entry put among entries of rising identifiers. -/
def insertEntry (e : StoreEntry) : List StoreEntry → List StoreEntry
  | [] => [e]
  | x :: l => if e.id < x.id then e :: x :: l else x :: insertEntry e l

/-- The cells of SB(t) and NT(t) at a byte, oldest first: identifiers rise with issue. -/
def Thread.bufCells (t : Thread) (x : Nat) : List (Byte × Byte) :=
  let es := t.nt.foldl (fun l e => insertEntry e l) t.sb
  es.flatMap (fun e => (e.cells.filter (fun c => c.1 == x)).map (·.2))

/-- A byte read through the buffered writes: each in turn replaces its masked bits (R180). -/
def Thread.forward (t : Thread) (x : Nat) (below : Byte) : Byte :=
  (t.bufCells x).foldl (fun v c => (c.1 &&& c.2) ||| (v &&& ~~~ c.2)) below

/-- A byte's whole value comes from the buffers. -/
def Thread.forwards (t : Thread) (x : Nat) : Bool := (t.bufCells x).any (fun c => c.2 == 255#8)

/-- The byte that a thread's read of a location gives: through its buffered stores, a candidate of its frontier, that of the pick in
progress where it names one (R106, R180). -/
def Thread.view (s : State) (loc : Nat) (t : Thread) : View := fun x =>
  t.forward x (seenByte s t.front s.picks (s.resolve (.thread loc) x))

/-- The tags' writes that an agent reads as it compares the tags of some bytes on pages with tc set, those apart that its own buffers supply
(R106). -/
def tagsRead (s : State) (a : Agent) (own : Nat → Bool) (F : Frontier) (xs : List Nat) (as : List Attrs) : Choice :=
  let gs := (((xs.zip as).filter (fun e => e.2.tc && bankOf e.1 == 0)).map (fun e => tagLoc (e.1 / 64 * 64))).eraseDups
  (gs.filter (fun x => !(own x))).map (fun x => let y := s.resolve a x; (y, seenId s F s.picks y))

/-- The tag write that a thread compares where it hits a line of its core's L1: the one the line copies where the thread may take it, else as
at a miss (R106, R107, R176). -/
def Thread.hitTag (s : State) (loc : Nat) (t : Thread) (l : L1Line) : Nat × Nat :=
  let y := s.resolve (.thread loc) (tagLoc (64 * l.pa))
  (y, if mayTake s t.front false (y, l.tagId) then l.tagId else seenId s t.front s.picks y)

/-- The tag that a thread sees at a line it hits, through its buffered stores (R107, R180). -/
def Thread.hitSeen (s : State) (loc : Nat) (t : Thread) (l : L1Line) : Nat :=
  let c := t.hitTag s loc l
  (t.forward (tagLoc (64 * l.pa)) (if c.2 = l.tagId then l.tag.setWidth 8 else valueOf (wsGet s c.1) c.2)).toNat % 16

/-- The frontier of an agent that has compared the tags of some bytes (R106, R176). -/
def sawTags (s : State) (a : Agent) (own : Nat → Bool) (F : Frontier) (xs : List Nat) (as : List Attrs) : Frontier :=
  fRead s F (tagsRead s a own F xs as)

/-- A thread that has read some tag writes: its frontier and O(t) hold what it has read, as after a read of data (R106, R180). -/
def Thread.tookTags (s : State) (t : Thread) (c : Choice) : Thread :=
  { t with front := fRead s t.front c, obs := t.obs ++ (choiceLabels s c).filter (fun l => !(t.obs.contains l)) }

/-- A thread that has compared the tags of some bytes at its slice. -/
def Thread.sawTags (s : State) (loc : Nat) (t : Thread) (xs : List Nat) (as : List Attrs) : Thread :=
  t.tookTags s (tagsRead s (.thread loc) t.forwards t.front xs as)

/-- A thread that has compared the tags of some lines it hits, those apart that its own buffers supply. -/
def Thread.sawHits (s : State) (loc : Nat) (t : Thread) (ls : List L1Line) : Thread :=
  t.tookTags s ((ls.filter (fun l => l.attrs.tc && !(t.forwards (tagLoc (64 * l.pa))))).map (t.hitTag s loc))

/-- The label of a drained write: its own release, else the fence label (R179, R183); none on a non-temporal write (R184). -/
def drainLabel (t : Thread) (a : Agent) (e : StoreEntry) (F : Frontier) : Option Label :=
  match e.release with
  | some sc => some ⟨F, sc, a⟩
  | none => if t.nt.any (fun x => x.id == e.id) then none else t.fence

/-! ## Gangs (R36 to R38, R94, R95) -/

/-- A gang of a row by number. -/
def State.gangOf (s : State) (row num : Nat) : Option Gang := s.gangs.find? (fun g => g.row == row && g.num == num)
/-- The state with a gang replaced. -/
def State.setGang (s : State) (g : Gang) : State :=
  { s with gangs := s.gangs.map (fun h => if h.row == g.row && h.num == g.num then g else h) }
/-- The queue number of a gang's q.mx; core queues are 8 x core + code. -/
def mxQueue (row num : Nat) : Nat := 8192 + 4 * row + num

/-- Once a broken or ended gang has no started command, its slots and claims become free; an ended gang's number too
(R36, R95). -/
def gangCleanup (s : State) (row num : Nat) : State :=
  match s.gangOf row num with
  | none => s
  | some g =>
    let busy := s.cmds.any (fun c => c.queue == mxQueue row num)
    let ended := decide (4 ≤ g.left.length)
    if busy || !(ended || g.broken.isSome) then s
    else
      let s := { s with slots := s.slots.filter (fun x => !(x.row == row && x.gang == num))
                        claims := s.claims.filter (fun x => !(x.1 / 32 == row && x.2 == num)) }
      if ended then { s with gangs := s.gangs.filter (fun h => !(h.row == row && h.num == num)) } else s

/-- A gang is broken by one of its members: its commands that have not started are dropped, and every other member that
is stalled in a gang instruction is released with the engine trap, gang broken (R38). -/
def breakGang (s : State) (loc : Nat) (t : Thread) : State :=
  match t.gang with
  | none => s
  | some n =>
    match s.gangOf (rowOf loc) n with
    | none => s
    | some g =>
      if g.broken.isSome then s
      else
        let s := s.setGang { g with broken := some loc }
        let s := { s with cmds := s.cmds.filter (fun c => !(c.queue == mxQueue g.row g.num && !c.started)) }
        let s := g.members.foldl (fun st m =>
          if m == loc then st
          else st.mapThread m (fun u => if u.gangCmd.isSome then { u with gangCmd := none, trapReq := some ⟨12, 1, wd loc, 0⟩ } else u)) s
        gangCleanup s g.row g.num

/-- A member leaves its gang by `disband` or `quit` (R36, R291). -/
def leaveGang (s : State) (loc : Nat) (t : Thread) (disbands : Bool) : State :=
  match t.gang with
  | none => s
  | some n =>
    match s.gangOf (rowOf loc) n with
    | none => s
    | some g =>
      let g := { g with left := if g.left.contains loc then g.left else g.left ++ [loc]
                        firstOut := if disbands && g.firstOut.isNone then some loc else g.firstOut }
      gangCleanup (s.setGang g) g.row g.num

/-! ## Records (R131, R134, R137) -/

/-- A trap-queue record of a kind awaits its append, with what it is to publish (R187). -/
def trapRecord (s : State) (part kind cause sub loc num : Nat) (w2 w3 : Word) (agent : Option Nat) (front : Frontier := []) : State :=
  { s with appends := s.appends ++
      [⟨part, 0, agent, wd (kind + cause * 2 ^ 8 + sub * 2 ^ 16 + loc * 2 ^ 24 + num * 2 ^ 48), w2, w3, none, false, false, front⟩] }

/-! ## Synchronous traps (R82, R83, R85) -/

/-- The 48 bytes of a replay entry in a frame (R83); the third captured value stands at offset 32 while the entry is not
done (R215). -/
def entryBytes (e : ReplayEntry) : List Byte :=
  toBytes 8 (e.word.toNat + e.dst.toNat * 2 ^ 32 + e.state.code * 2 ^ 38) ++ toBytes 8 e.addr.toNat ++
  toBytes 8 e.src1.toNat ++ toBytes 8 e.src2.toNat ++
  toBytes 8 (if e.state == .done then e.value.toNat else e.src3.toNat) ++ toBytes 8 0

/-- The empty mask of a frame: bit n is 1 when gn is empty. -/
def emptyMask (t : Thread) : Nat :=
  ((List.range 64).filter (fun n => n != 0 && t.regState (BitVec.ofNat 6 n) != .full)).foldl (fun m n => m + 2 ^ n) 0

/-- The 512 bytes of a trap frame (R83); the trapping instruction has issued, so watch_skip is already clear (R72). -/
def frameBytes (loc : Nat) (t : Thread) (r : TrapReq) : List Byte :=
  let head := toBytes 8 t.pc.toNat ++ toBytes 8 (setBits t.status 3 1 0).toNat ++ toBytes 8 (r.sub * 256 + r.cause) ++
    toBytes 8 r.info.toNat ++ toBytes 8 r.faddr.toNat ++ toBytes 8 (loc + t.launchNum * 2 ^ 32) ++
    toBytes 8 t.gid.toNat ++ toBytes 8 t.pix.toNat ++ toBytes 8 (emptyMask t) ++ toBytes 8 t.replay.length ++
    List.replicate 48 0
  let body := t.replay.flatMap entryBytes
  head ++ body ++ List.replicate (384 - body.length) 0

/-- The thread is held until `kill` by a double (2), no-vector (3) or frame-fault (8) trap, and a record carries the
cause; its gang is broken like that of any member that traps (R38, R85). -/
def holdThread (s : State) (loc : Nat) (t : Thread) (kind : Nat) (r : TrapReq) : State :=
  let s := s.setThread loc { t with held := some kind, trapReq := none, rep := none, gangCmd := none, check := none, guard := none }
  let s := breakGang s loc t
  trapRecord s t.part kind r.cause r.sub loc t.launchNum (wd t.pc.toNat) r.info none t.front

/-- An entry that changes only some bits of its bytes: a masked atomic write, which enters above every write (R280). -/
def StoreEntry.masked (e : StoreEntry) : Bool := e.cells.any (fun c => c.2.2 != 255#8)

/-- The bytes, or the granules of the tags, that a buffered store writes. -/
def StoreEntry.reached (e : StoreEntry) : List Nat := e.cells.map (fun c => if bankOf c.1 == 9 then 64 * offOf c.1 else c.1)

/-- A drained store joins the frontiers of the commands its thread issued after it (R185). -/
def commandsSee (s : State) (loc id : Nat) (xs : List Nat) : State :=
  { s with cmds := s.cmds.map (fun c =>
      if (c.waits.contains id || c.joins.contains id) && (c.owner == loc || 8192 ≤ c.queue) then
        { c with waits := c.waits.filter (· != id), joins := c.joins.filter (· != id), front := fMerge s c.front (fWrite [] xs id) }
      else c) }

/-- A store's entries that were to be dropped at the same line as one that has been: the store is counted once (R173). -/
def sameDrop (e x : StoreEntry) : Bool :=
  x.store == e.store && x.cells.any (fun c => e.cells.any (fun d => lineOf c.1 == lineOf d.1 && bankOf c.1 == bankOf d.1))

/-- The thread's buffers without an entry that has been drained: where it was dropped, its store's other entries at the line have
been counted with it (R173). -/
def Thread.drained (t : Thread) (e : StoreEntry) (landed : Bool) : Thread :=
  let rest := fun (l : List StoreEntry) => (l.filter (fun x => x.id != e.id)).map (fun x => if !landed && sameDrop e x then { x with counted := true } else x)
  { t with sb := rest t.sb, nt := rest t.nt }

/-- One buffered store of a thread lands at once: a permitted drain (R179). -/
def drainEntry (s : State) (loc : Nat) (t : Thread) (e : StoreEntry) : State × Thread :=
  let r := land s (.thread loc) t.front e.cells e.id e.masked (drainLabel t (.thread loc) e) (!e.counted)
  (commandsSee r.1 loc e.id (if r.2.2 then e.cells.map (·.1) else []), ({ t with front := r.2.1 } : Thread).drained e r.2.2)

/-- One buffered store of a thread is dropped and counted at a line its die may not reach (R113, R114, R173). -/
def dropEntry (s : State) (loc : Nat) (t : Thread) (e : StoreEntry) (line : Nat) : State × Thread :=
  (commandsSee (if e.counted then s else countDropped s (64 * line)) loc e.id [], t.drained e false)

/-- Two locations whose writes keep their thread's order: the same byte, or a granule's tag and a byte of it (R106). -/
def ordered (x y : Nat) : Bool :=
  x == y || (bankOf x == 9 && bankOf y == 0 && offOf x == y / 64) || (bankOf y == 9 && bankOf x == 0 && offOf y == x / 64)

/-- No buffered store of a thread stands before a store to some bytes issued now: none of the same bytes, and no release
(R179). -/
def Thread.clearFor (t : Thread) (xs : List Nat) : Bool :=
  (t.sb ++ t.nt).all (fun e => e.release.isNone && !(e.cells.any (fun c => xs.any (ordered c.1))))

/-- The slice that the stores of a page reach: the die's own where it is cacheable, else the home. -/
def sliceFor (loc : Nat) (cacheable : Bool) : Option Nat := if cacheable then some (dieOf loc) else none

/-- Cells of an access by aligned 8-byte unit, each with where its page's stores are made. -/
def placedUnits (loc : Nat) (xs : List Nat) (as : List Attrs) (cells : List (Nat × Byte × Byte)) : List (List (Nat × Byte × Byte) × Option Nat) :=
  (unitsOf cells).map (fun u => (u, sliceFor loc (attrOf xs as ((u.map (·.1)).headD 0)).c))

/-- One of a frame's stores meets a line that is poisoned or refused to the die (R113, R114). -/
def unitStops (s : State) (loc : Nat) (e : List (Nat × Byte × Byte) × Option Nat) : Bool :=
  e.1.any (fun c => s.poisoned (s.resolve (.thread loc) c.1) || (e.2.isSome && lineRefused s (dieOf loc) (c.1 / 64)))

/-- The ordinary stores of a frame, each issued and drained unit by unit with the label L(t); they stop at the first line that is
poisoned or refused to the die (R82, R85, R113, R179). -/
def writeUnits (s : State) (loc : Nat) (t : Thread) (F : Frontier) :
    List (List (Nat × Byte × Byte) × Option Nat) → State × Frontier × Bool
  | [] => (s, F, true)
  | (u, slice) :: us =>
    let a := Agent.thread loc
    if unitStops s loc (u, slice) then (s, F, false)
    else
      let r := land { s with fresh := s.fresh + 1 } a F u s.fresh false (fun _ => t.fence)
      writeUnits (watchWrite r.1 (u.map (fun c => s.resolve a c.1)) slice loc 0 t.part t.launchNum) loc t r.2.1 us

/-- The thread inside its handler from the next cycle on, or the one in which the trapping instruction's result would come: registers
owed to an entry are empty-unowed, the replay queue is empty, the cause registers, the status and the pc are set (R20, R82, R252). -/
def enterHandler (t : Thread) (tvec now : Word) (r : TrapReq) : Thread :=
  { t with
    gs := t.gs.map (fun g => if g == .owed then .unowed else g)
    replay := []
    cause := wd (r.sub * 256 + r.cause)
    info := r.info
    faddr := r.faddr
    status := setBits (setBits (setBits t.status 0 2 1) 2 1 1) 3 1 0
    pc := BitVec.ofNat 48 tvec.toNat
    issueAt := if t.issueAt.toNat ≤ now.toNat then now + 1 else t.issueAt
    rep := none
    check := none
    guard := none
    trapReq := none
    gangCmd := none
    recordOwed := true }

/-- The bytes of the frame at `s.tfp` with their pages' attributes, where they pass the checks of a supervisor store with
pointer tag 0 (R82, R85, R103). -/
def framePlaces (s : State) (loc : Nat) (t : Thread) : Option (List Nat × List Attrs) :=
  let va := bits t.tfp 0 48
  if bits t.tfp 60 4 != 0 || decide (2 ^ 48 < va + 512) then none
  else match checkGlobal s (dieOf loc) t.part t.asid true .store (some 0) va 512 (t.view s loc) with | .ok xs as => some (xs, as) | _ => none

/-- The stores of a thread's frame at some bytes (R83). -/
def frameWrites (loc : Nat) (t : Thread) (r : TrapReq) (p : List Nat × List Attrs) : List (List (Nat × Byte × Byte) × Option Nat) :=
  placedUnits loc p.1 p.2 (cellsOf p.1 (frameBytes loc t r))

/-- A handler is entered by a trap of the thread: it is in none, and its core has a vector (R82, R85). -/
def entersHandler (s : State) (loc : Nat) (t : Thread) : Bool := !t.inTrap && (s.core (coreOf loc)).tvec != 0

/-- A trap waits before it is entered: for the thread's atomics, `spawn`s and `taga`s in transit (R82), and for its frame's
stores to be the next to drain: earlier stores of the same bytes, earlier releases, slice watch units without room for their records, a
message about one of its lines or of the lines that the walks of its pages read (R111, R136, R146, R179). -/
def trapWaits (s : State) (loc : Nat) (t : Thread) : Bool :=
  entersHandler s loc t &&
  (t.replay.any (·.inTransit) ||
    (bits t.tfp 60 4 == 0 && decide (bits t.tfp 0 48 + 512 ≤ 2 ^ 48) && walkWaits s (dieOf loc) t.part t.asid (bits t.tfp 0 48) 512) ||
    (match framePlaces s loc t with
     | some p =>
       !(t.clearFor p.1) || touchBusy s (dieOf loc) p.1 p.2 true ||
       !(watchFits s ((frameWrites loc t ⟨0, 0, 0, 0⟩ p).map (fun u => (u.1.map (fun c => s.resolve (.thread loc) c.1), u.2))) 0)
     | none => false))

/-- A state in which a thread's core has counted the stores of its frame that miss L1, as far as the first that stops them (R82, R172). -/
def countFrame (s : State) (loc : Nat) (t : Thread) (us : List (List (Nat × Byte × Byte) × Option Nat)) (s' : State) : State :=
  let made := (us.takeWhile (fun u => !(unitStops s loc u))).length + 1
  s'.count (coreOf loc) 9 ((List.range (min 64 made)).filter (fun k => !(l1Hits s (coreOf loc) t.asid (bits t.tfp 0 48 + 8 * k) 8))).length

/-- TAKING A SYNCHRONOUS TRAP that waits for nothing (R82, R85). A thread whose core has lost its vector, or that stands in a
handler, is held; `s.tvec` is looked at when the trap is raised and again when it is entered (log entry 64). -/
def trapNow (s : State) (loc : Nat) (t : Thread) (r : TrapReq) : State :=
  let tvec := (s.core (coreOf loc)).tvec
  if t.inTrap then holdThread s loc t 2 r
  else if tvec = 0 then holdThread s loc t 3 r
  else
      match framePlaces s loc t with
      | some p =>
        let t := t.sawTags s loc p.1 p.2
        let va := bits t.tfp 0 48
        let s := touch (fillTlbs s (dieOf loc) t.part t.asid va 512) (dieOf loc) t.asid va p.1 p.2 true
        let w := writeUnits s loc t t.front (frameWrites loc t r p)
        let met := countFrame s loc t (frameWrites loc t r p) w.1
        let t := { t with front := w.2.1 }
        if w.2.2 then
          let s := met.setThread loc (enterHandler t tvec s.time r)
          let s := breakGang s loc t
          trapRecord s t.part 1 r.cause r.sub loc t.launchNum t.tfp r.info (some loc) t.front
        else holdThread met loc t 8 r
      | none => holdThread (fillTlbs s (dieOf loc) t.part t.asid (bits t.tfp 0 48) 512) loc t 8 r

/-- Raising a synchronous trap: the thread waits where its trap has something to wait for, else it enters its handler or is
held (R82, R85). -/
def takeTrap (s : State) (loc : Nat) (t : Thread) (r : TrapReq) : State :=
  if trapWaits s loc t then s.setThread loc { t with trapReq := some r, check := none, guard := none } else trapNow s loc t r

/-- The current thread traps at its instruction. -/
def State.trap (s : State) (t : Thread) (r : TrapReq) : State := takeTrap s s.cur t r

/-- The illegal-instruction trap (R222). -/
def illegal (sub info : Nat) : TrapReq := ⟨1, sub, wd info, 0⟩

end Sys2Proof.Machine
end

