-- ==== Sys2Proof/Machine/Operands.lean ====
section
/-! DEFINITION. The operand forms: which general registers an instruction reads, with which wait/trap bit, and which it
writes (R196, R197, R215); its port (R20), feature (R223) and privilege (R217); whether a repeat may step its fields (R220);
and the gate every instruction passes before its effect: stall, trap or go (R22, R64, R222 steps 3 and 4). -/
namespace Sys2Proof

/-- The even register of a `cas` d field (R213). -/
def evenReg (d : BitVec 5) : Reg := d ++ 0#1

/-- The general registers an instruction reads, each with its wait/trap bit: the a field, the b field, then one read
through the d or s field (R197). -/
def Instr.srcs : Instr → List (Reg × Bool)
  | .add _ _ a b t u => [(a, t), (b, u)]
  | .sub _ _ a b t u => [(a, t), (b, u)]
  | .mul _ _ a b t u => [(a, t), (b, u)]
  | .mulh _ _ a b t u => [(a, t), (b, u)]
  | .mulhn _ _ a b t u => [(a, t), (b, u)]
  | .div _ _ a b t u => [(a, t), (b, u)]
  | .divn _ _ a b t u => [(a, t), (b, u)]
  | .rem _ _ a b t u => [(a, t), (b, u)]
  | .remn _ _ a b t u => [(a, t), (b, u)]
  | .and _ _ a b t u => [(a, t), (b, u)]
  | .or _ _ a b t u => [(a, t), (b, u)]
  | .xor _ _ a b t u => [(a, t), (b, u)]
  | .andn _ _ a b t u => [(a, t), (b, u)]
  | .orn _ _ a b t u => [(a, t), (b, u)]
  | .shl _ _ a b t u => [(a, t), (b, u)]
  | .shr _ _ a b t u => [(a, t), (b, u)]
  | .sra _ _ a b t u => [(a, t), (b, u)]
  | .rot _ _ a b t u => [(a, t), (b, u)]
  | .min _ _ a b t u => [(a, t), (b, u)]
  | .minn _ _ a b t u => [(a, t), (b, u)]
  | .max _ _ a b t u => [(a, t), (b, u)]
  | .maxn _ _ a b t u => [(a, t), (b, u)]
  | .clz _ _ a t => [(a, t)]
  | .ctz _ _ a t => [(a, t)]
  | .popc _ _ a t => [(a, t)]
  | .brev _ _ a t => [(a, t)]
  | .bswap _ _ a t => [(a, t)]
  | .sext _ a _ t => [(a, t)]
  | .zext _ a _ t => [(a, t)]
  | .cmp _ _ a b t u => [(a, t), (b, u)]
  | .cmpW _ _ a b t u => [(a, t), (b, u)]
  | .movpToPred _ a t => [(a, t)]
  | .sel _ a b t u _ => [(a, t), (b, u)]
  | .addp _ a b t u => [(a, t), (b, u)]
  | .setf _ a b t u => [(a, t), (b, u)]
  | .getf _ a t => [(a, t)]
  | .settag _ a b t u => [(a, t), (b, u)]
  | .gettag _ a t => [(a, t)]
  | .addpImm _ a t _ => [(a, t)]
  | .lic d _ => [(d, false)]
  | .cmpi _ _ a t _ => [(a, t)]
  | .addImm _ a t _ => [(a, t)]
  | .andImm _ a t _ => [(a, t)]
  | .orImm _ a t _ => [(a, t)]
  | .xorImm _ a t _ => [(a, t)]
  | .shlImm _ a t _ => [(a, t)]
  | .shrImm _ a t _ => [(a, t)]
  | .sraImm _ a t _ => [(a, t)]
  | .rotImm _ a t _ => [(a, t)]
  | .bfx _ a t _ _ => [(a, t)]
  | .bfi d a t _ _ => [(a, t), (d, false)]
  | .pbt _ a t => [(a, t)]
  | .fadd _ a b t u _ _ => [(a, t), (b, u)]
  | .fsub _ a b t u _ _ => [(a, t), (b, u)]
  | .fmul _ a b t u _ _ => [(a, t), (b, u)]
  | .fdiv _ a b t u _ _ => [(a, t), (b, u)]
  | .fma d a b t u _ _ => [(a, t), (b, u), (d, false)]
  | .fms d a b t u _ _ => [(a, t), (b, u), (d, false)]
  | .fnma d a b t u _ _ => [(a, t), (b, u), (d, false)]
  | .fsqrt _ a t _ _ => [(a, t)]
  | .frcp _ a t _ _ => [(a, t)]
  | .frsq _ a t _ _ => [(a, t)]
  | .fex2 _ a t _ _ => [(a, t)]
  | .flg2 _ a t _ _ => [(a, t)]
  | .fsin _ a t _ _ => [(a, t)]
  | .fcos _ a t _ _ => [(a, t)]
  | .fcvt _ a _ t _ _ => [(a, t)]
  | .fcvti _ a _ t _ _ => [(a, t)]
  | .ficvt _ a _ t _ _ => [(a, t)]
  | .fmin _ a b t u _ => [(a, t), (b, u)]
  | .fmax _ a b t u _ => [(a, t), (b, u)]
  | .fneg _ a t _ => [(a, t)]
  | .fcmp _ _ a b t u _ => [(a, t), (b, u)]
  | .fclass _ a t _ => [(a, t)]
  | .padd _ a b t u _ => [(a, t), (b, u)]
  | .psub _ a b t u _ => [(a, t), (b, u)]
  | .pmul _ a b t u _ => [(a, t), (b, u)]
  | .pmin _ a b t u _ => [(a, t), (b, u)]
  | .pmax _ a b t u _ => [(a, t), (b, u)]
  | .pdot4 _ a b t u => [(a, t), (b, u)]
  | .pfadd _ a b t u _ => [(a, t), (b, u)]
  | .pfmul _ a b t u _ => [(a, t), (b, u)]
  | .pfma d a b t u _ => [(a, t), (b, u), (d, false)]
  | .pshuf _ a b t u _ => [(a, t), (b, u)]
  | .ppack _ a b t u _ => [(a, t), (b, u)]
  | .punpk _ a t _ => [(a, t)]
  | .pfcvt _ a b t u _ => [(a, t), (b, u)]
  | .bxd _ a b t u _ => [(a, t), (b, u)]
  | .mts a t _ => [(a, t)]
  | .cwb a b t u => [(a, t), (b, u)]
  | .cinv a b t u => [(a, t), (b, u)]
  | .icinv a b t u => [(a, t), (b, u)]
  | .arrive _ a b t u => [(a, t), (b, u)]
  | .barc a t => [(a, t)]
  | .ldb _ a _ t _ => [(a, t)]
  | .stb s a _ t _ => [(a, t), (s, false)]
  | .mkd _ a b t u => [(a, t), (b, u)]
  | .dnar _ a b t u => [(a, t), (b, u)]
  | .stn s a t _ => [(a, t), (s, false)]
  | .stg a b t u => [(a, t), (b, u)]
  | .ldg _ a t => [(a, t)]
  | .rtag _ a b t u => [(a, t), (b, u)]
  | .mte _ a t => [(a, t)]
  | .spawn _ a b t u => [(a, t), (b, u)]
  | .spawnCl _ a b t u => [(a, t), (b, u)]
  | .taga _ a b t u => [(a, t), (b, u)]
  | .tagf a b t u => [(a, t), (b, u)]
  | .unpark _ a t => [(a, t)]
  | .kill a t => [(a, t)]
  | .reclaim a b t u => [(a, t), (b, u)]
  | .cinvT a b t u => [(a, t), (b, u)]
  | .lsub _ a t => [(a, t)]
  | .lprq _ a t => [(a, t)]
  | .stop _ a t => [(a, t)]
  | .lres _ a t => [(a, t)]
  | .cpy a b t u _ => [(a, t), (b, u)]
  | .qnt a b t u _ => [(a, t), (b, u)]
  | .gath a b t u => [(a, t), (b, u)]
  | .scat a b t u => [(a, t), (b, u)]
  | .slsend a b t u => [(a, t), (b, u)]
  | .tclm a t => [(a, t)]
  | .tld a b t u => [(a, t), (b, u)]
  | .trel a t => [(a, t)]
  | .aclr a t => [(a, t)]
  | .acst a b t u => [(a, t), (b, u)]
  | .acld a b t u => [(a, t), (b, u)]
  | .mma a b t u _ _ _ => [(a, t), (b, u)]
  | .ld _ _ a t _ _ => [(a, t)]
  | .ldn _ _ a t _ _ => [(a, t)]
  | .st _ s a t u _ _ => [(a, u), (s, t)]
  | .ordLd _ _ a _ t _ => [(a, t)]
  | .ordLdn _ _ a _ t _ => [(a, t)]
  | .ordSt _ s a _ t _ => [(a, t), (s, false)]
  | .amoAdd _ d a _ t _ => [(a, t), (d, false)]
  | .amoMin _ d a _ t _ => [(a, t), (d, false)]
  | .amoMax _ d a _ t _ => [(a, t), (d, false)]
  | .amoMinn _ d a _ t _ => [(a, t), (d, false)]
  | .amoMaxn _ d a _ t _ => [(a, t), (d, false)]
  | .amoAnd _ d a _ t _ => [(a, t), (d, false)]
  | .amoOr _ d a _ t _ => [(a, t), (d, false)]
  | .amoXor _ d a _ t _ => [(a, t), (d, false)]
  | .amoXchg _ d a _ t _ => [(a, t), (d, false)]
  | .amoFaddS _ d a t _ => [(a, t), (d, false)]
  | .amoFaddBf _ d a t _ => [(a, t), (d, false)]
  | .cas _ d a _ t _ => [(a, t), (evenReg d, false), (evenReg d + 1, false)]
  | .ldx _ _ a b t u => [(a, t), (b, u)]
  | .stx _ s a b t u => [(a, t), (b, u), (s, false)]
  | .waita _ d a b t u _ => [(a, t), (b, u), (d, false)]
  | .waitge _ d a b t u _ => [(a, t), (b, u), (d, false)]
  | _ => []

/-- The general register an instruction writes. -/
def Instr.dst : Instr → Option Reg
  | .add _ d _ _ _ _ => some d
  | .sub _ d _ _ _ _ => some d
  | .mul _ d _ _ _ _ => some d
  | .mulh _ d _ _ _ _ => some d
  | .mulhn _ d _ _ _ _ => some d
  | .div _ d _ _ _ _ => some d
  | .divn _ d _ _ _ _ => some d
  | .rem _ d _ _ _ _ => some d
  | .remn _ d _ _ _ _ => some d
  | .and _ d _ _ _ _ => some d
  | .or _ d _ _ _ _ => some d
  | .xor _ d _ _ _ _ => some d
  | .andn _ d _ _ _ _ => some d
  | .orn _ d _ _ _ _ => some d
  | .shl _ d _ _ _ _ => some d
  | .shr _ d _ _ _ _ => some d
  | .sra _ d _ _ _ _ => some d
  | .rot _ d _ _ _ _ => some d
  | .min _ d _ _ _ _ => some d
  | .minn _ d _ _ _ _ => some d
  | .max _ d _ _ _ _ => some d
  | .maxn _ d _ _ _ _ => some d
  | .clz _ d _ _ => some d
  | .ctz _ d _ _ => some d
  | .popc _ d _ _ => some d
  | .brev _ d _ _ => some d
  | .bswap _ d _ _ => some d
  | .sext d _ _ _ => some d
  | .zext d _ _ _ => some d
  | .movpToGpr d _ => some d
  | .sel d _ _ _ _ _ => some d
  | .addp d _ _ _ _ => some d
  | .setf d _ _ _ _ => some d
  | .getf d _ _ => some d
  | .settag d _ _ _ _ => some d
  | .gettag d _ _ => some d
  | .addpImm d _ _ _ => some d
  | .li d _ => some d
  | .lic d _ => some d
  | .addImm d _ _ _ => some d
  | .andImm d _ _ _ => some d
  | .orImm d _ _ _ => some d
  | .xorImm d _ _ _ => some d
  | .shlImm d _ _ _ => some d
  | .shrImm d _ _ _ => some d
  | .sraImm d _ _ _ => some d
  | .rotImm d _ _ _ => some d
  | .bfx d _ _ _ _ => some d
  | .bfi d _ _ _ _ => some d
  | .fadd d _ _ _ _ _ _ => some d
  | .fsub d _ _ _ _ _ _ => some d
  | .fmul d _ _ _ _ _ _ => some d
  | .fdiv d _ _ _ _ _ _ => some d
  | .fma d _ _ _ _ _ _ => some d
  | .fms d _ _ _ _ _ _ => some d
  | .fnma d _ _ _ _ _ _ => some d
  | .fsqrt d _ _ _ _ => some d
  | .frcp d _ _ _ _ => some d
  | .frsq d _ _ _ _ => some d
  | .fex2 d _ _ _ _ => some d
  | .flg2 d _ _ _ _ => some d
  | .fsin d _ _ _ _ => some d
  | .fcos d _ _ _ _ => some d
  | .fcvt d _ _ _ _ _ => some d
  | .fcvti d _ _ _ _ _ => some d
  | .ficvt d _ _ _ _ _ => some d
  | .fmin d _ _ _ _ _ => some d
  | .fmax d _ _ _ _ _ => some d
  | .fneg d _ _ _ => some d
  | .fclass d _ _ _ => some d
  | .padd d _ _ _ _ _ => some d
  | .psub d _ _ _ _ _ => some d
  | .pmul d _ _ _ _ _ => some d
  | .pmin d _ _ _ _ _ => some d
  | .pmax d _ _ _ _ _ => some d
  | .pdot4 d _ _ _ _ => some d
  | .pfadd d _ _ _ _ _ => some d
  | .pfmul d _ _ _ _ _ => some d
  | .pfma d _ _ _ _ _ => some d
  | .pshuf d _ _ _ _ _ => some d
  | .ppack d _ _ _ _ _ => some d
  | .punpk d _ _ _ => some d
  | .pfcvt d _ _ _ _ _ => some d
  | .bxd d _ _ _ _ _ => some d
  | .mfs d _ => some d
  | .muster d => some d
  | .ldb d _ _ _ _ => some d
  | .ldg d _ _ => some d
  | .rtag d _ _ _ _ => some d
  | .mfe d _ => some d
  | .spawn d _ _ _ _ => some d
  | .spawnCl d _ _ _ _ => some d
  | .taga d _ _ _ _ => some d
  | .qstat d _ => some d
  | .unpark d _ _ => some d
  | .lsub d _ _ => some d
  | .lprq d _ _ => some d
  | .stop d _ _ => some d
  | .lres d _ _ => some d
  | .ld _ d _ _ _ _ => some d
  | .ldn _ d _ _ _ _ => some d
  | .ordLd _ d _ _ _ _ => some d
  | .ordLdn _ d _ _ _ _ => some d
  | .amoAdd _ d _ _ _ _ => some d
  | .amoMin _ d _ _ _ _ => some d
  | .amoMax _ d _ _ _ _ => some d
  | .amoMinn _ d _ _ _ _ => some d
  | .amoMaxn _ d _ _ _ _ => some d
  | .amoAnd _ d _ _ _ _ => some d
  | .amoOr _ d _ _ _ _ => some d
  | .amoXor _ d _ _ _ _ => some d
  | .amoXchg _ d _ _ _ _ => some d
  | .amoFaddS _ d _ _ _ => some d
  | .amoFaddBf _ d _ _ _ => some d
  | .cas _ d _ _ _ _ => some (evenReg d)
  | .ldx _ d _ _ _ _ => some d
  | .waita _ d _ _ _ _ _ => some d
  | .waitge _ d _ _ _ _ _ => some d
  | _ => none

/-- The instruction issues on port M; every other one issues on port A (R20). -/
def Instr.portM : Instr → Bool
  | .mfs .. | .mts .. | .fence .. | .qfence .. | .cwb .. | .cinv .. | .icinv .. | .ifence | .drain | .arrive .. |
  .bar | .barc .. | .muster .. | .disband | .ldb .. | .stb .. | .mkd .. | .dnar .. | .stn .. | .stg .. | .ldg .. |
  .rtag .. | .mfe .. | .mte .. | .spawn .. | .spawnCl .. | .taga .. | .tagf .. | .qstat .. | .unpark .. | .kill .. |
  .reclaim .. | .cinvT .. | .lsub .. | .lprq .. | .stop .. | .lres .. | .cpy .. | .qnt .. | .gath .. | .scat .. |
  .slsend .. | .tclm .. | .tld .. | .trel .. | .aclr .. | .acst .. | .acld .. | .mma .. | .ld .. | .ldn .. | .st .. |
  .ordLd .. | .ordLdn .. | .ordSt .. | .amoAdd .. | .amoMin .. | .amoMax .. | .amoMinn .. | .amoMaxn .. | .amoAnd .. |
  .amoOr .. | .amoXor .. | .amoXchg .. | .amoFaddS .. | .amoFaddBf .. | .cas .. | .ldx .. | .stx .. | .waita .. |
  .waitge .. => true
  | _ => false

/-- The instruction holds port A for two cycles (R20). -/
def Instr.holdsTwo : Instr → Bool
  | .fadd _ _ _ _ _ w _ | .fsub _ _ _ _ _ w _ | .fmul _ _ _ _ _ w _ | .fma _ _ _ _ _ w _ | .fms _ _ _ _ _ w _
  | .fnma _ _ _ _ _ w _ => w == 0
  | .fdiv .. | .fsqrt .. | .frcp .. | .frsq .. | .fex2 .. | .flg2 .. | .fsin .. | .fcos .. => true
  | _ => false

/-- Supervisor-only encodings (R217). -/
def Instr.supervisorOnly : Instr → Bool
  | .tret | .unpark .. | .kill .. | .reclaim .. | .cinvT .. | .lsub .. | .lprq .. | .stop .. | .lres .. => true
  | _ => false

/-- The features an encoding belongs to (R223); none listed stands for feature 0. -/
def Instr.features : Instr → List Nat
  | .fadd _ _ _ _ _ w _ | .fsub _ _ _ _ _ w _ | .fmul _ _ _ _ _ w _ | .fdiv _ _ _ _ _ w _ | .fma _ _ _ _ _ w _
  | .fms _ _ _ _ _ w _ | .fnma _ _ _ _ _ w _ => if w = 0 then [1] else [0]
  | .fsqrt _ _ _ w _ | .frcp _ _ _ w _ | .frsq _ _ _ w _ | .fex2 _ _ _ w _ | .flg2 _ _ _ w _ | .fsin _ _ _ w _
  | .fcos _ _ _ w _ => if w = 0 then [1] else [0]
  | .fcvt _ _ s _ w _ => if w = 0 ∨ s = 0 then [1] else [0]
  | .fcvti _ _ _ _ w _ | .ficvt _ _ _ _ w _ => if w = 0 then [1] else [0]
  | .fmin _ _ _ _ _ w | .fmax _ _ _ _ _ w => if w = 0 then [1] else [0]
  | .fneg _ _ _ w | .fclass _ _ _ w => if w = 0 then [1] else [0]
  | .fcmp _ _ _ _ _ _ w => if w = 0 then [1] else [0]
  | .padd .. | .psub .. | .pmul .. | .pmin .. | .pmax .. | .pdot4 .. | .pfadd .. | .pfmul .. | .pfma .. | .pshuf ..
  | .ppack .. | .punpk .. | .pfcvt .. | .bxd .. => [2]
  | .ldx .. | .stx .. => [3]
  | .cpy .. | .gath .. | .scat .. => [4]
  | .mma _ _ _ _ c x h =>
    (if c.toNat = 1 ∨ c.toNat = 2 then [5] else if c.toNat = 0 then [6] else if c.toNat = 6 then [8] else [7]) ++
    (if x then [9] else []) ++ (if h then [10] else [])
  | .qnt .. => [11]
  | .slsend .. | .taga .. | .tagf .. => [12]
  | .stg .. | .ldg .. | .rtag .. => [14]
  | .spawn .. | .spawnCl .. => [15]
  | _ => [0]

/-- The lowest-numbered feature of an encoding that the device lacks (R222 step 3). -/
def Instr.missing (i : Instr) : Option Nat := i.features.find? (fun f => !(Config.deviceMask.testBit f))

/-- Orders of an order/scope code (R202). -/
def ordOf (o : BitVec 5) : Nat := o.toNat / 6
/-- Scope of an order/scope code (R202). -/
def scopeOf (o : BitVec 5) : Nat := o.toNat % 6
/-- An order with an acquire part. -/
def acquires (order : Nat) : Bool := order == 1 || order == 3 || order == 4
/-- An order with a release part. -/
def releases (order : Nat) : Bool := order == 2 || order == 3 || order == 4

/-- The order and scope of an encoding that carries them, relaxed otherwise; a wait's fn is 6 x space + acquire scope
(R202, R214). -/
def Instr.order : Instr → Nat × Nat
  | .ordLd _ _ _ _ _ o | .ordLdn _ _ _ _ _ o | .ordSt _ _ _ _ _ o => (ordOf o, scopeOf o)
  | .amoAdd _ _ _ _ _ f | .amoMin _ _ _ _ _ f | .amoMax _ _ _ _ _ f | .amoMinn _ _ _ _ _ f | .amoMaxn _ _ _ _ _ f
  | .amoAnd _ _ _ _ _ f | .amoOr _ _ _ _ _ f | .amoXor _ _ _ _ _ f | .amoXchg _ _ _ _ _ f
  | .cas _ _ _ _ _ f => (ordOf f, scopeOf f)
  | .amoFaddS _ _ _ _ f | .amoFaddBf _ _ _ _ f => (ordOf f, scopeOf f)
  | .fence o => (ordOf o, scopeOf o)
  | .waita _ _ _ _ _ _ f | .waitge _ _ _ _ _ _ f => if f.toNat % 6 = 0 then (0, 0) else (1, f.toNat % 6)
  | _ => (0, 0)

/-- Instructions that an earlier acquire holds back: those that make accesses (R181), and a read of `s.time`, which promises a
later value than any that the acquired release follows (R169). -/
def Instr.isAccess (i : Instr) : Bool :=
  match i with
  | .call .. | .callb .. | .ret => true
  | .mfs _ n => n == 0x20
  | .mts .. | .mfe .. | .mte .. | .qstat .. | .ifence | .rtag .. => false
  | _ => i.portM

/-- A body that `rpt` may not repeat, whatever its steps (R220). -/
def Instr.notBody : Instr → Bool
  | .bp .. | .call .. | .pbr .. | .nop | .jb .. | .jbp .. | .callb .. | .ret | .pbt .. | .quit | .yield | .rejoin ..
  | .trap .. | .ecall .. | .tret | .rpt .. | .unpark .. | .kill .. | .reclaim .. | .cinvT .. | .lsub .. | .lprq ..
  | .stop .. | .lres .. | .muster .. | .disband | .bar | .barc .. => true
  | _ => false

/-- Which of the fields [24:19], [18:13] and [12:7] name a general register, for the steps of `rpt` (R219, R220). -/
def Instr.stepFields (i : Instr) : Bool × Bool × Bool :=
  match i with
  | .st .. => (true, true, false)
  | .cpy .. | .qnt .. | .gath .. | .scat .. | .slsend .. | .tld .. | .acst .. | .acld .. | .mma .. => (true, true, false)
  | .tclm .. | .trel .. | .aclr .. => (true, false, false)
  | .stx .. => (true, true, true)
  | .ordSt .. | .stb .. | .stn .. => (true, true, false)
  | .arrive .. | .mkd .. | .dnar .. | .cwb .. | .cinv .. | .icinv .. | .stg .. | .tagf .. | .cmp .. | .cmpW ..
  | .fcmp .. => (false, true, true)
  | _ => (i.dst.isSome, decide (1 ≤ i.srcs.length) && hasA i, hasB i)
where
  hasA : Instr → Bool
    | .lic .. | .li .. => false
    | _ => true
  hasB : Instr → Bool
    | .add .. | .sub .. | .mul .. | .mulh .. | .mulhn .. | .div .. | .divn .. | .rem .. | .remn .. | .and .. | .or ..
    | .xor .. | .andn .. | .orn .. | .shl .. | .shr .. | .sra .. | .rot .. | .min .. | .minn .. | .max .. | .maxn ..
    | .sel .. | .addp .. | .setf .. | .settag .. | .fadd .. | .fsub .. | .fmul .. | .fdiv .. | .fma .. | .fms ..
    | .fnma .. | .fmin .. | .fmax .. | .padd .. | .psub .. | .pmul .. | .pmin .. | .pmax .. | .pdot4 .. | .pfadd ..
    | .pfmul .. | .pfma .. | .pshuf .. | .ppack .. | .pfcvt .. | .bxd .. | .rtag .. | .spawn .. | .spawnCl .. | .taga ..
    | .ldx .. | .waita .. | .waitge .. => true
    | _ => false

end Sys2Proof

namespace Sys2Proof.Machine

/-- What an instruction meets at its issue. -/
inductive Gate where
  | go
  | stall
  | trap (r : TrapReq)
  deriving DecidableEq, Repr

/-- The gate of one register (R64): as a source with its wait/trap bit, or as a destination. -/
def regGate (t : Thread) (r : Reg) (bang isDst : Bool) : Gate :=
  match t.regState r with
  | .full => .go
  | .unowed => if isDst then .go else .trap ⟨3, 0, wd r.toNat, 0⟩
  | .owed =>
    match (t.ower r).bind (·.mark) with
    | some m => .trap m
    | none => if !isDst && bang then .trap ⟨3, 0, wd r.toNat, 0⟩ else .stall

/-- The first gate of a list that is not open. -/
def firstGate : List Gate → Gate
  | [] => .go
  | .go :: l => firstGate l
  | g :: _ => g

/-- The gates of an instruction's sources in the order a, b, d or s, then of its destination: where one register would trap
and another stall, the first of them decides (DESIGN CHOICE, log entry 64: R64 gives no order). -/
def operandGate (t : Thread) (i : Instr) : Gate :=
  firstGate (i.srcs.map (fun p => regGate t p.1 p.2 false) ++
    (match i.dst with | some d => [regGate t d false true] | none => []))

/-- The thread cannot issue whatever its next instruction (R21, R22, R28, R85, R104, R122, R132, R289). A stop mark is none of
these: it keeps a thread from being picked, and one that has been picked completes or traps in that cycle (R301). -/
def Thread.blocked (t : Thread) (now : Word) : Bool :=
  decide (now.toNat < t.issueAt.toNat) || t.held.isSome || t.recordOwed || t.trapReq.isSome || t.check.isSome ||
  t.guard.isSome || t.gangCmd.isSome || t.muster.isSome || t.linger.isSome || t.quitting || t.yielding || t.forced ||
  (t.atBar && !t.released) ||
  t.replay.any (fun e => e.state != .done && e.mark.isNone && (match e.instr with | some i => i.isWait | none => false))

/-- An earlier acquire of the thread has not taken its read move (R181): one still under way, or faulted until `unpark`
issues it again; one that is poisoned or marked takes none. -/
def Thread.acquiring (t : Thread) : Bool :=
  t.replay.any (fun e => (e.state == .pending || e.state == .faulted) && e.mark.isNone && e.flight != .read &&
    (match e.instr with | some i => acquires i.order.1 | none => false))

/-- The stalls every instruction of a form shares (R22, R181). -/
def formStall (t : Thread) (i : Instr) : Bool :=
  (i.isProducer && decide (Config.replayDepth ≤ t.replay.length)) || (i.isAccess && t.acquiring)

/-- The gate an instruction passes before its effect: the thread's own condition, feature and privilege (R222 steps 3 and
4), its operands (R64), and the stalls of its form. -/
def gate (s : State) (t : Thread) (i : Instr) : Gate :=
  if t.blocked s.time then .stall
  else
    match i.missing with
    | some f => .trap (illegal 1 f)
    | none =>
      if i.supervisorOnly && !t.super then .trap ⟨2, 0, wd s.ir.toNat, 0⟩
      else
        match operandGate t i with
        | .go => if formStall t i then .stall else .go
        | g => g

/-- A stalled instruction: nothing of it happens, and an `rpt` before it has not started its repetition (R22, R221). -/
def State.stalled (s : State) (t : Thread) : Host.Outcome State Fault Refusal := .next (s.put { t with rep := none })

/-- The issue of an instruction by the current thread: its effect `k` when its gate is open. -/
def issue (s : State) (i : Instr) (k : Thread → Host.Outcome State Fault Refusal) : Host.Outcome State Fault Refusal :=
  match s.thread s.cur with
  | none => .fault .noThread
  | some t =>
    match gate s t i with
    | .go => k t
    | .stall => s.stalled t
    | .trap r => .next (s.trap t r)

/-- An instruction that changes only the thread that issues it. -/
def issueLocal (s : State) (i : Instr) (lat : Nat) (f : Thread → Thread) : Host.Outcome State Fault Refusal :=
  issue s i (fun t => .next (s.put ((f t).advance s.time lat)))

end Sys2Proof.Machine
end

