-- ==== Sys2Proof/Machine/Fetch.lean ====
section
/-! DEFINITION. Fetching the next instruction's word (R102, R103, R109, R114, R146, R222) and the repeat prefix's view of
its body (R219, R220). -/
namespace Sys2Proof.Machine

/-- A line of the core's L1 instruction cache for an address of an ASID (R109). -/
def l1iFind (s : State) (core asid va : Nat) : Option L1ILine :=
  s.l1i.find? (fun l => l.core == core && l.va == va / 64 && (l.attrs.g || l.asid == asid))

/-- A fill of the L1 instruction cache: four lines a set, the oldest making room (R109). -/
def l1iFill (s : State) (core asid va pa : Nat) (at' : Attrs) : State :=
  let set := fun (l : L1ILine) => l.core == core && l.va % 256 == va / 64 % 256
  let kept := s.l1i.filter (fun l => !(set l && l.va == va / 64 && l.asid == asid))
  let kept := if 4 ≤ (kept.filter set).length then (match kept.find? set with | some o => kept.erase o | none => kept) else kept
  let base := pa / 64 * 64
  let line : L1ILine := ⟨core, va / 64, asid, pa / 64, at', Vector.ofFn (fun i : Fin 16 => BitVec.ofNat 32 (peek s (base + 4 * i.val) 4))⟩
  { s with l1i := kept ++ [line] }

/-- The word at an address of a thread's code space, or the trap of its fetch. -/
def fetchCode (s : State) (loc : Nat) (t : Thread) (va : Nat) : State × Except TrapReq Code :=
  let core := coreOf loc
  let perm : TrapReq := ⟨9, 0, 4, wd va⟩
  match l1iFind s core t.asid va with
  | some l => if permits l.attrs t.super .fetch then (s, .ok (l.words.toArray.getD (va / 4 % 16) 0)) else (s, .error perm)
  | none =>
    let s := (fillTlb s (dieOf loc) t.part t.asid va).count core 10 1
    match xlate s (dieOf loc) t.part t.asid va with
    | .absent => (s, .error ⟨8, 0, 4, wd va⟩)
    | .bad sub => (s, .error ⟨8, sub, 4, wd va⟩)
    | .poisoned => (s, .error ⟨11, 2, 4, wd va⟩)
    | .page pa at' =>
      match s.partition t.part with
      | none => (s, .error ⟨8, 1, 4, wd va⟩)
      | some p =>
        if !(p.hasBytes pa 4) then (s, .error ⟨8, 1, 4, wd va⟩)
        else if !(permits at' t.super .fetch) then (s, .error perm)
        else
          let s := touch s (dieOf loc) t.asid va [pa] [at'] false
          let x := s.resolve (.thread loc) pa
          if s.poisoned x || (at'.c && lineRefused s (dieOf loc) (pa / 64)) then (s, .error ⟨11, 0, 4, wd va⟩)
          else
            let w := BitVec.ofNat 32 (peek s x 4)
            (if at'.c then l1iFill s core t.asid va pa at' else s, .ok w)

/-- A fetch past the L1 instruction cache has to wait for a message about its line, or about a line of the tables that it walks (R111; log
entry 16). -/
def fetchWaits (s : State) (loc : Nat) (t : Thread) (va : Nat) : Bool :=
  (l1iFind s (coreOf loc) t.asid va).isNone &&
  (walkWaits s (dieOf loc) t.part t.asid va 1 ||
    (match xlate s (dieOf loc) t.part t.asid va with | .page pa at' => touchBusy s (dieOf loc) [pa] [at'] false | _ => false))

/-- The body word of repetition k: each stepped field holds its value plus k steps (R219); none when a stepped field of
a register leaves 0 to 63. -/
def stepWord (w : Code) (k : Nat) (d a b : BitVec 2) : Option Code :=
  let st := fun (x : BitVec 2) => if x.toNat = 3 then (-1 : Int) else (x.toNat : Int)
  let f := fun (lo : Nat) (x : BitVec 2) => (bits w lo 6 : Int) + (k : Int) * st x
  let ok := fun (z : Int) => decide (0 ≤ z) && decide (z ≤ 63)
  let fd := f 19 d
  let fa := f 13 a
  let fb := f 7 b
  if ok fd && ok fa && ok fb then
    some (BitVec.ofNat 32 (w.toNat - bits w 19 6 * 524288 - bits w 13 6 * 8192 - bits w 7 6 * 128 +
      fd.toNat * 524288 + fa.toNat * 8192 + fb.toNat * 128))
  else none

/-- The checks of R220 on a prefix and its body: every repetition's word decodes, and every non-zero step acts on a
register field. -/
def bodyOk (w : Code) (n : Nat) (d a b : BitVec 2) : Bool :=
  match decode w with
  | .error _ => false
  | .ok i =>
    let f := i.stepFields
    !i.notBody && (d == 0 || f.1) && (a == 0 || f.2.1) && (b == 0 || f.2.2) &&
    (List.range n).all (fun k =>
      match stepWord w k d a b with
      | none => false
      | some v =>
        match decode v with
        | .error _ => false
        | .ok j => (match j with | .waita .. | .waitge .. | .cas .. => d == 0 || decide (bits v 19 6 ≤ 62) | _ => true))

/-- The word the thread executes next: at its pc, or the body word of the repetition in progress. -/
def nextCode (s : State) (loc : Nat) (t : Thread) : State × Except TrapReq Code :=
  match t.rep with
  | none => fetchCode s loc t t.pc.toNat
  | some _ =>
    match fetchCode s loc t t.pc.toNat with
    | (s, .error r) => (s, .error r)
    | (s, .ok p) =>
      match fetchCode s loc t t.here.toNat with
      | (s, .error r) => (s, .error r)
      | (s, .ok w) =>
        match stepWord w t.reps (fieldAt p.toNat 17 2) (fieldAt p.toNat 15 2) (fieldAt p.toNat 13 2) with
        | some v => (s, .ok v)
        | none => (s, .error (illegal 2 p.toNat))

/-- The illegal-instruction trap of a word that is not an instruction (R119, R222, R329). -/
def illegalWord (w : Code) : DecodeError → TrapReq
  | .queueCode q => illegal 0 q
  | .queueMismatch q => illegal 0 (0x400 + q)
  | _ => illegal 2 w.toNat

end Sys2Proof.Machine
end

