-- ==== Sys2Proof/Machine/MemOps.lean ====
section
/-! DEFINITION. A thread's accesses as the ordering machine makes them: entering SB(t) and NT(t), the read move, poison
met by a read, and the checks of an access in the order of R273. -/
namespace Sys2Proof.Machine

/-- One entry more of a store whose first entry has a given identifier. -/
def pushGroup (first : Nat) (cacheable : Bool) (va : Nat) (release : Option Nat) (seq nt : Bool) (acc : State × Thread)
    (u : List (Nat × Byte × Byte)) : State × Thread :=
  let e : StoreEntry := ⟨acc.1.fresh, u, cacheable, va, release, seq, first, false⟩
  ({ acc.1 with fresh := acc.1.fresh + 1 },
    if nt then { acc.2 with nt := acc.2.nt ++ [e] } else { acc.2 with sb := acc.2.sb ++ [e] })

/-- Groups of cells, each with its page's cacheability and its address, enter SB(t), or NT(t) for a non-temporal store, one entry for
each group (R178, R179). -/
def pushGroups (s : State) (t : Thread) (groups : List (Bool × Nat × List (Nat × Byte × Byte))) (release : Option Nat) (seq nt : Bool) :
    State × Thread :=
  groups.foldl (fun acc g => pushGroup s.fresh g.1 g.2.1 release seq nt acc g.2.2) (s, t)

/-- A store's cells enter by aligned 8-byte unit. -/
def pushStore (s : State) (t : Thread) (cells : List (Nat × Byte × Byte)) (cacheable : Bool) (va : Nat)
    (release : Option Nat) (seq nt : Bool) : State × Thread :=
  pushGroups s t ((unitsOf cells).map (fun u => (cacheable, va, u))) release seq nt

/-- The bytes of an access from an address, each with its location. -/
def addressed (addr : Nat) (xs : List Nat) : List (Nat × Nat) := xs.zipIdx.map (fun e => (addr + e.2, e.1))

/-- The bytes of an access that a thread's buffered stores do not supply whole (R180). -/
def Thread.unforwarded (t : Thread) (xs : List (Nat × Nat)) : List (Nat × Nat) := xs.filter (fun e => !(t.forwards e.2))

/-- The address reported for the first poisoned byte of a read: the line's address, or the 8-byte word's offset in a local
space (R64, R114, R382). -/
def firstPoison (s : State) (a : Agent) (xs : List (Nat × Nat)) (glob : Bool) : Option Nat :=
  (xs.find? (fun e => s.poisoned (s.resolve a e.2))).map (fun e => if glob then e.1 / 64 * 64 else e.1 / 8 * 8)

/-- The read move of a thread at some bytes (R180 to R182): the bytes that SB(t) and NT(t) do not forward take a candidate
each, a maximal write where `top` says so; labels that an acquire meets merge into the frontier, others join O(t). None where
the picks may not be taken. -/
def readMove (s : State) (loc : Nat) (t : Thread) (xs : List Nat) (picks : List (Nat × Nat)) (order scope : Nat) (top : Bool := false) :
    Option (State × Thread × List Byte) :=
  let a := Agent.thread loc
  let key := fscKey a scope
  let F0 := if order = 4 then fMerge s t.front ((alGet s.fsc key).getD []) else t.front
  match chooseRead s F0 ((xs.filter (fun x => !(t.forwards x))).map (s.resolve a)) picks top with
  | none => none
  | some c =>
    let F1 := fRead s F0 c
    let ls := choiceLabels s c
    let F2 := if acquires order then meetAll s F1 (ls.filter (fun l => l.meets a scope)) a scope else F1
    let obs := ls.filter (fun l => !(acquires order && l.meets a scope))
    let t := { t with front := F2, obs := (t.obs ++ obs).eraseDups }
    let s := if order = 4 then { s with fsc := alSet s.fsc key F2 } else s
    some (s, t, xs.map (fun x => t.forward x (choiceValue s c (s.resolve a x))))

/-- A read move made at an instruction's issue or at the return of its check: the pick's candidates where they may be taken, else the
default (R176, R180). -/
def issueRead (s : State) (loc : Nat) (t : Thread) (xs : List Nat) : Option (State × Thread × List Byte) :=
  let ys := xs.map (s.resolve (.thread loc))
  (readMove s loc t xs (s.picks.filter (fun p => ys.contains p.1)) 0 0).or (readMove s loc t xs [] 0 0)

/-- The one move of an atomic (R182, R183): a maximal write of each byte is read, and where the new value is some bytes
they enter above every write. The bytes before are answered. None where the picks may not be taken. -/
def atomicMove (s : State) (loc : Nat) (t : Thread) (xs : List Nat) (picks : List (Nat × Nat)) (order scope : Nat)
    (new : List Byte → Option (List Byte)) : Option (State × Thread × List Byte) :=
  let ys := xs.map (s.resolve (.thread loc))
  match readMove s loc { t with sb := [], nt := [] } xs picks order scope true with
  | none => none
  | some r =>
    let t1 : Thread := { r.2.1 with sb := t.sb, nt := t.nt }
    match new r.2.2 with
    | none => some (r.1, t1, r.2.2)
    | some bs =>
      let id := r.1.fresh
      let F := fWrite t1.front ys id
      let label := if releases order then some ⟨F, scope, .thread loc⟩ else t.fence
      let s := enterCells { r.1 with fresh := id + 1 } F (cellsOf ys bs) id true label
      let s := if order = 4 then { s with fsc := alSet s.fsc (fscKey (.thread loc) scope) F } else s
      some (s, { t1 with front := F }, r.2.2)

/-- An acquire fence, or the acquire part of one: it meets every publication of O(t) that it meets, and empties O(t)
(R181). -/
def acquireFence (s : State) (loc : Nat) (t : Thread) (scope : Nat) : Thread :=
  { t with front := meetAll s t.front t.obs (.thread loc) scope, obs := [] }

/-! ## Watchpoints (R79) -/

/-- A watchpoint matches an access of kind mask (1 load, 2 store, 3 atomic) in a space. -/
def watchHit (w : Word) (space kind addr n : Nat) : Bool :=
  let size := 2 ^ (bits w 58 3 + 3)
  let base := bits w 0 48 / size * size
  bit w 63 && bits w 55 3 == space && Nat.land (bits w 61 2) kind != 0 && decide (addr < base + size) && decide (base < addr + n)

/-- The watch trap of an access, where one is taken (R72, R79). Where both watchpoints match, the index reported is that of
`s.watch0` (DESIGN CHOICE, log entry 64: R79 does not say). -/
def watchTrap (t : Thread) (space kind addr n : Nat) (faddr : Word) : Option TrapReq :=
  if t.watchSkip then none
  else if watchHit t.watch0 space kind addr n then some ⟨14, 0, wd (2 * kind), faddr⟩
  else if watchHit t.watch1 space kind addr n then some ⟨14, 0, wd (2 * kind + 1), faddr⟩
  else none

/-! ## The checks of an access (R273) -/

/-- An access with its address formed: the space, the virtual address or offset, its bytes, the pointer tag. -/
structure Access where
  space : Nat
  addr  : Nat
  size  : Nat
  tag   : Nat
  deriving DecidableEq, Repr

/-- Step 2 of R273: the address of a base register and an offset. -/
def formAddress (space : Nat) (p : Word) (off : Int) (size : Nat) : Except TrapReq Access :=
  if space = 0 then
    if bits p 60 4 ≠ 0 then .error ⟨5, 0, wd (bits p 60 4), p⟩
    else
      let va := (bits p 0 48 : Int) + off
      if va < 0 ∨ (2 ^ 48 : Nat) < va + size then .error ⟨5, 1, 0, p⟩
      else .ok ⟨0, va.toNat, size, bits p 56 4⟩
  else .ok ⟨space, ofInt 64 (p.toNat + off), size, 0⟩

/-- Steps 3 to 5 of R273 as far as issue decides them, for an access kind: alignment where demanded, watchpoints, a local
window. -/
def preCheck (s : State) (loc : Nat) (t : Thread) (a : Access) (k : Kind) (aligned : Bool) : Option TrapReq :=
  if aligned && a.addr % a.size != 0 then some ⟨4, 0, wd k.code, wd a.addr⟩
  else
    match watchTrap t a.space k.code a.addr a.size (wd a.addr) with
    | some r => some r
    | none =>
      if a.space = 0 then none
      else
        match localBytes (windowsOf s loc t) a.space a.addr a.size with
        | .error r => some r
        | .ok _ => none

/-- The bytes of an access whose checks are made now: a local window, an L1 hit's copied permissions, else R103. -/
def accessBytes (s : State) (loc : Nat) (t : Thread) (a : Access) (k : Kind) (tagged : Bool) : Checked :=
  if a.space = 0 then
    let tag := if tagged then some a.tag else none
    if l1Hits s (coreOf loc) t.asid a.addr a.size then checkHit s (coreOf loc) t.asid t.super k tag a.addr a.size (t.hitSeen s loc)
    else checkGlobal s (dieOf loc) t.part t.asid t.super k tag a.addr a.size (t.view s loc)
  else
    match localBytes (windowsOf s loc t) a.space a.addr a.size with
    | .ok xs => .ok xs (sameAttrs xs localAttrs)
    | .error r => .trap r

/-- The trap of a store, atomic, `stg` or frame access whose checks failed (R103, R146). -/
def checkTrap (a : Access) (k : Kind) : Checked → Option TrapReq
  | .ok _ _ => none
  | .absent _ => some ⟨8, 0, wd k.code, wd a.addr⟩
  | .poisoned => some ⟨11, 2, wd k.code, wd a.addr⟩
  | .trap r => some r

/-- The access misses the L1, so that its issue waits for its slice (R104). -/
def missesL1 (s : State) (loc : Nat) (t : Thread) (a : Access) : Bool :=
  a.space == 0 && !(l1Hits s (coreOf loc) t.asid a.addr a.size)

/-- The translation units hold the entries of an access's pages, each walked where none is held (R105). -/
def walkFor (s : State) (loc : Nat) (t : Thread) (a : Access) : State :=
  if missesL1 s loc t a then fillTlbs s (dieOf loc) t.part t.asid a.addr a.size else s

/-- The thread has compared the tags of an access: at its slice where it missed L1, else those of the lines it hits (R104, R106). -/
def comparedTags (s : State) (loc : Nat) (t : Thread) (a : Access) (tagged : Bool) (xs : List Nat) (as : List Attrs) : Thread :=
  if !tagged || a.space != 0 then t
  else if missesL1 s loc t a then t.sawTags s loc xs as
  else t.sawHits s loc (hitLines s (coreOf loc) t.asid a.addr a.size)

/-- The misses of some accesses of a thread in its core's counters (R172); an access over two lines that both miss is one data miss (DESIGN
CHOICE, log entry 64: R172 does not say). -/
def countMisses (s : State) (loc : Nat) (t : Thread) (as : List Access) : State :=
  s.count (coreOf loc) 9 (as.filter (missesL1 s loc t)).length

end Sys2Proof.Machine
end

