-- ==== Sys2Proof/Machine/LaunchOps.lean ====
section
/-! DEFINITION. The shared operations of launches, groups and spawned threads: the quiescence counts (R34, R163, R164),
room on cores and the launch charge (R30, R91, R128, R149), starting a thread (R31, R33, R63, R352), sending and taking a
spawn message (R126, R127, R246, R247), and the group scoreboard (R150 to R152). -/
namespace Sys2Proof.Machine

/-- The end of a group's deadline cycle has passed (R39, R168). -/
def Group.pastDeadline (g : Group) (now : Word) : Bool := match g.deadline with | some d => decide (d.toNat < now.toNat) | none => false

/-- The deadline of a thread's or message's group has passed: the group is about to be saved (R39). -/
def pastDeadline (s : State) (grp : Option Nat) : Bool := match grp.bind s.group with | some g => g.pastDeadline s.time | none => false

/-- A member of a thread's gang is forced or about to be: the gang is saved as one unit with full state (R41). -/
def gangForced (s : State) (loc : Nat) (t : Thread) : Bool :=
  match t.gang.bind (s.gangOf (rowOf loc)) with
  | none => false
  | some h => h.members.any (fun m => m != loc &&
      (match s.thread m with
       | some u => u.gang == t.gang && (u.forced || (!u.quitting && !u.yielding && pastDeadline s u.grp))
       | none => s.saved.any (fun x => x.loc == m && x.forced && x.thread.gang == t.gang && x.thread.part == t.part && x.thread.launchNum == t.launchNum)))

/-- A thread is forced, or its group's deadline has passed and it does not end cooperatively, so that it is about to be: what it waits for
does not complete any more. A `quit` and a `yield` that had begun still complete, the drains they wait for with them; a `yield` of a gang
member does not where another member is forced (R39 to R41, R242, R243). -/
def Thread.stopped (s : State) (loc : Nat) (t : Thread) : Bool :=
  t.forced || (pastDeadline s t.grp && !t.quitting && (!t.yielding || gangForced s loc t))

/-! ## Quiescence counts (R34, R163, R164)

Node n < 1,024 is core n, 2,000 + k cluster k, 3,000 + d die d, 4,000 the launch level. -/

/-- The level above a node. -/
def nodeAbove (n : Nat) : Nat := if n < 1024 then 2000 + n / 8 else if n < 3000 then 3000 + (n - 2000) / 16 else 4000

/-- A group's count at a node. -/
def Group.countAt (g : Group) (n : Nat) : Nat := (alGet g.counts n).getD 0

/-- A count goes up by one; leaving zero is reported to the level above (R34). -/
def Group.up (g : Group) (n : Nat) : Group :=
  let c := g.countAt n
  { g with counts := alSet g.counts n (c + 1)
           reports := if c = 0 && n != 4000 then g.reports ++ [(n, true)] else g.reports }

/-- A count goes down by one; returning to zero is reported (R34). -/
def Group.down (g : Group) (n : Nat) : Group :=
  let c := g.countAt n
  { g with counts := alSet g.counts n (c - 1)
           reports := if c = 1 && n != 4000 then g.reports ++ [(n, false)] else g.reports }

/-- One more item of a group counted at a core. -/
def countUp (s : State) (grp : Option Nat) (core : Nat) : State :=
  match grp.bind s.group with
  | some g => s.setGroup (g.up core)
  | none => s
/-- One item fewer. -/
def countDown (s : State) (grp : Option Nat) (core : Nat) : State :=
  match grp.bind s.group with
  | some g => s.setGroup (g.down core)
  | none => s

/-! ## Room (R30, R42, R91, R128) -/

/-- Bytes in the 256-byte units of a pantry. -/
def units256 (n : Nat) : Nat := ceilDiv n 256 * 256

/-- A saved thread's context waits for its restoration (R42). -/
def State.restoring (s : State) (x : SavedThread) : Bool :=
  match s.launchOf x.thread.part x.thread.launchNum with
  | some l => l.restoring
  | none => false

/-- Pantry bytes of a core in use, or held for a waiting restoration. -/
def pantryUsed (s : State) (core : Nat) : Nat :=
  ((s.threads.filter (fun e => coreOf e.1 == core)).map (fun e => units256 (bits e.2.alcove 16 16))).sum +
  ((s.groups.filter (fun g => g.cluster == core / 8 &&
      (!g.saved || (match s.launchOf g.part g.launch with | some l => l.restoring | none => false)))).map
    (fun g => units256 g.share)).sum +
  ((s.saved.filter (fun x => coreOf x.loc == core && s.restoring x)).map (fun x => units256 (bits x.thread.alcove 16 16))).sum

/-- The free contexts of a core that no restoration holds, lowest slot first. -/
def freeContexts (s : State) (core : Nat) : List Nat :=
  (span (core * 128) 128).filter (fun loc =>
    (s.thread loc).isNone && !(s.saved.any (fun x => x.loc == loc && s.restoring x)))

/-- The alcove size of the threads of a launch; 4,096 for the boot set (R33, R352). -/
def alcoveSize (s : State) (part num : Nat) : Nat :=
  match s.launchOf part num with
  | some l => l.alcove
  | none => 4096

/-- A message's launch number. -/
def SpawnMsg.launchNum (m : SpawnMsg) : Nat := bits m.launch 48 16

/-- The launch context charged so far, the 65,536 bytes of the launch's own saved state among it, so that a pre-emption always
fits (R149; log entry 65). -/
def charge (s : State) (l : Launch) : Nat :=
  let mine := fun (t : Thread) => t.part == l.part && t.launchNum == l.num && t.spawned
  let msg := fun (m : SpawnMsg) => m.part == l.part && m.launchNum == l.num
  65536 + (s.groups.filter (fun g => g.part == l.part && g.launch == l.num)).length *
    (l.hall + l.gsize * (l.alcove + 1024) + 3407872) +
  ((s.threads.filter (fun e => mine e.2)).length + (s.saved.filter (fun x => mine x.thread)).length) * (l.alcove + 1024) +
  64 * ((s.cores.map (fun c => (c.2.inbox.filter msg).length)).sum + l.savedMsgs.length)

/-- A charge more stays within the launch's context; the boot set is charged nothing (R149, R352). -/
def chargeFits (s : State) (part num more : Nat) : Bool :=
  match s.launchOf part num with
  | some l => decide (charge s l + more ≤ l.ctxsize)
  | none => true

/-- A core's free pantry has room for an alcove. -/
def alcoveFits (s : State) (core a : Nat) : Bool := decide (pantryUsed s core + units256 a ≤ Config.pantryBytes)

/-! ## Starting a thread (R31, R33, R63, R92, R352) -/

/-- A thread at its start, every register at its reset value (R9, R62 to R80). -/
def Thread.start (pc : Nat) (super : Bool) (gid launch : Word) (part asid : Nat) (args : Vector Word 4) (info : Word)
    (alc tfp now : Word) (bank : Nat) (grp : Option Nat) (front : Frontier) : Thread where
  pc := BitVec.ofNat 48 pc
  p := 1
  g := ((((Vector.replicate 64 (0 : Word)).set 1 args[0]).set 2 args[1]).set 3 args[2]).set 4 args[3]
  gs := Vector.replicate 64 .full
  b := Vector.replicate 8 0
  d := Vector.replicate 16 0
  e := Vector.replicate 16 0
  status := boolWord super
  gid := gid
  launch := launch
  part := part
  asid := asid
  info := info
  started := now
  issueAt := now
  fcsr := 0
  pix := 0
  cause := 0
  faddr := 0
  save0 := 0
  save1 := 0
  watch0 := 0
  watch1 := 0
  cyc := 0
  passedA := 0
  passedM := 0
  alcove := alc
  alcBank := bank
  tfp := tfp
  grp := grp
  front := front
  replay := []
  oplog := []
  sb := []
  nt := []
  obs := []
  joined := []
  fence := none
  linger := none
  rep := none
  check := none
  guard := none
  stamp := 0
  trapReq := none
  held := none
  gang := none
  muster := none
  gangCmd := none
  stop := false
  recordOwed := false
  atBar := false
  released := false
  quitting := false
  yielding := false
  forced := false

/-- The s.alcove of a fresh thread: floor 0, csp = size (R74). -/
def alcoveWord (size : Nat) : Word := wd (size * 65536 + size)

/-- A thread starts in a free context with a zeroed alcove; its start is an acquire at package scope (R31, R92, R108). -/
def startThread (s : State) (loc pc : Nat) (super : Bool) (gid launch : Word) (part asid : Nat) (args : Vector Word 4)
    (info : Word) (size : Nat) (grp : Option Nat) (front : Frontier) : State :=
  let b := s.newBanks 1
  let s := bumpGen b.2 (coreOf loc) 4
  s.setThread loc (Thread.start pc super gid launch part asid args info (alcoveWord size)
    ((s.core (coreOf loc)).tfbase + wd (512 * (loc % 128))) s.time b.1 grp front)

/-! ## Spawn messages (R126, R127, R246, R247) -/

/-- The status word of a spawn (R247). -/
def spawnStatus (code core loc : Nat) : Word := wd (code + core * 65536 + loc * 2 ^ 32)

/-- The checks of `spawn` on its handler and target (R246). -/
def spawnTrap (s : State) (t : Thread) (h x : Word) (cluster : Bool) : Option TrapReq :=
  let target := if cluster then bits x 0 7 else bits x 0 10 / 8
  let mine := match s.partition t.part with | some p => p.hasCluster target | none => false
  if bits h 48 16 ≠ 0 then some ⟨5, 0, wd (bits h 48 16), 0⟩
  else if bits h 0 2 ≠ 0 then some ⟨4, 0, 4, h⟩
  else if !mine then some ⟨9, 0, x, 0⟩
  else none

/-- The message a spawn entry sends: handler and target from its captured sources, g1 to g4 and F(t) of the thread. -/
def spawnMessage (s : State) (loc : Nat) (t : Thread) (handler target : Word) (cluster : Bool) (entry : Nat) : SpawnMsg where
  id := s.fresh
  handler := handler
  parent := loc
  super := t.super
  part := t.part
  asid := t.asid
  launch := t.launch
  gid := setBits t.gid 63 1 1
  grp := t.grp
  args := Vector.ofFn (fun i : Fin 4 => t.gpr (BitVec.ofNat 6 (i.val + 1)))
  front := t.front
  target := if cluster then bits target 0 7 else bits target 0 10
  cluster := cluster
  entry := entry
  slot := 0

/-- A message is sent; it counts at the sending core until the target has counted it (R34). -/
def sendSpawn (s : State) (m : SpawnMsg) : State :=
  countUp { s with spawns := s.spawns ++ [m], fresh := s.fresh + 1 } m.grp (coreOf m.parent)

/-- The gate of g1 to g4 for a `spawn` (R64, R246). -/
def argsGate (t : Thread) : Gate := firstGate ((List.range 4).map (fun k => regGate t (BitVec.ofNat 6 (k + 1)) false false))

/-- The gate of g1 to g4 for a `spawn` entry that waits to be sent: its own destination, read before it became owed, is no register it
waits for (R246). -/
def entryGate (t : Thread) (e : ReplayEntry) : Gate :=
  firstGate ((List.range 4).map (fun k => let r := BitVec.ofNat 6 (k + 1); if r == e.dst then .go else regGate t r false false))

/-- A `spawn` entry issued again is sent once it can read g1 to g4; one that fails a check of its issue, or finds one of them empty-unowed
or marked, carries that trap as the mark of its destination (R64, R246, R248; log entry 64). -/
def sendEntry (loc : Nat) (gate : Thread → ReplayEntry → Gate) (acc : State × Thread) (e : ReplayEntry) : State × Thread :=
  let cluster := match e.instr with | some (.spawnCl ..) => true | _ => false
  let fail := fun (r : TrapReq) => (acc.1, acc.2.mapEntry e.id (fun x => { x with state := .poisoned, mark := some r }))
  match spawnTrap acc.1 acc.2 e.src1 e.src2 cluster with
  | some r => fail r
  | none =>
    match gate acc.2 e with
    | .trap r => fail r
    | .stall => acc
    | .go => (sendSpawn acc.1 (spawnMessage acc.1 loc acc.2 e.src1 e.src2 cluster e.id), acc.2.mapEntry e.id (fun x => { x with flight := .sent }))

/-- An entry is a `spawn` that is still to be sent. -/
def ReplayEntry.unsent (e : ReplayEntry) : Bool :=
  e.state == .pending && e.mark.isNone && e.flight == .waiting && (match e.instr with | some i => i.isSpawn | none => false)

/-- The `spawn`s of a thread that still wait are sent where they can be (R246). -/
def sendWaiting (s : State) (loc : Nat) (t : Thread) : State :=
  let r := (t.replay.filter (·.unsent)).foldl (sendEntry loc entryGate) (s, t)
  r.1.setThread loc r.2

/-- A spawned thread starts in a context of a core (R33, R63, R72, R73). -/
def startSpawned (s : State) (loc : Nat) (m : SpawnMsg) : State :=
  startThread s loc m.handler.toNat m.super m.gid m.launch m.part m.asid m.args (wd m.parent)
    (alcoveSize s m.part m.launchNum) m.grp m.front

/-- A message can start on a core now: a free context, alcove room, and charge for the thread (R127, R128). -/
def canStart (s : State) (core : Nat) (m : SpawnMsg) : Bool :=
  let a := alcoveSize s m.part m.launchNum
  !(freeContexts s core).isEmpty && alcoveFits s core a && chargeFits s m.part m.launchNum (a + 1024)

/-- The parent's entry is done with a status (R81, R247). -/
def spawnReply (s : State) (m : SpawnMsg) (v : Word) : State :=
  s.mapThread m.parent (fun t => t.mapEntry m.entry (fun e => { e with state := .done, flight := .read, value := v }))

/-- A message reaches its target's inbox logic: started, queued or refused (R127). -/
def spawnArrives (s : State) (m : SpawnMsg) : State :=
  let s := { s with spawns := s.spawns.filter (fun x => x.id != m.id) }
  let from' := coreOf m.parent
  let core? := if m.cluster then (span (m.target * 8) 8).find? (fun c => decide ((s.core c).inbox.length < Config.inboxDepth))
    else some m.target
  let refuse := (countDown (spawnReply s m (spawnStatus 2 0 0)) m.grp from').count from' 13 1
  match core? with
  | none => refuse
  | some c =>
    if (s.core c).inbox.isEmpty && canStart s c m then
      let loc := (freeContexts s c).headD 0
      countDown (spawnReply (countUp (startSpawned s loc m) m.grp c) m (spawnStatus 0 c loc)) m.grp from'
    else if decide ((s.core c).inbox.length < Config.inboxDepth) && chargeFits s m.part m.launchNum 64 then
      let s := s.mapCore c (fun k => { k with inbox := k.inbox ++ [m] })
      (countDown (spawnReply (countUp s m.grp c) m (spawnStatus 1 c 0)) m.grp from').count from' 14 1
    else refuse

/-! ## The grid and the scoreboard (R147, R150 to R152) -/

/-- The coordinates of a linear index. -/
def Launch.coords (l : Launch) (i : Nat) : Int × Int × Int := ((i % l.gx : Nat), (i / l.gx % l.gy : Nat), (i / (l.gx * l.gy) : Nat))
/-- The linear index of coordinates inside the grid. -/
def Launch.indexOf (l : Launch) (c : Int × Int × Int) : Option Nat :=
  if 0 ≤ c.1 ∧ c.1 < l.gx ∧ 0 ≤ c.2.1 ∧ c.2.1 < l.gy ∧ 0 ≤ c.2.2 ∧ c.2.2 < l.gz then
    some (c.1.toNat + l.gx * (c.2.1.toNat + l.gy * c.2.2.toNat))
  else none
/-- The groups of a launch. -/
def Launch.total (l : Launch) : Nat := l.gx * l.gy * l.gz
/-- The sweep product s·g of a group. -/
def Launch.sweepOf (l : Launch) (i : Nat) : Int :=
  let c := l.coords i
  l.sweep.1 * c.1 + l.sweep.2.1 * c.2.1 + l.sweep.2.2 * c.2.2
/-- The in-grid predecessors of a group, one per vector (R150). -/
def Launch.preds (l : Launch) (i : Nat) : List Nat :=
  let c := l.coords i
  l.deps.filterMap (fun v => l.indexOf (c.1 + v.1, c.2.1 + v.2.1, c.2.2 + v.2.2))
/-- The in-grid successors, in the order of the vectors (R152). -/
def Launch.succs (l : Launch) (i : Nat) : List Nat :=
  let c := l.coords i
  l.deps.filterMap (fun v => l.indexOf (c.1 - v.1, c.2.1 - v.2.1, c.2.2 - v.2.2))
/-- Bytes of the bitmap (R151). -/
def Launch.bitmapBytes (l : Launch) : Nat := ceilDiv l.total 512 * 64
/-- Where a group's count byte stands. -/
def Launch.countByte (l : Launch) (i : Nat) : Nat := l.board + l.bitmapBytes + i
/-- A write of one scoreboard byte by the device (R151). -/
def boardWrite (s : State) (x v : Nat) : State := devWrite s x [BitVec.ofNat 8 v] none

/-- Every group of a launch that was resident at a request has been saved or has retired: the launch is saved and its
record is appended (R39). -/
def checkSaved (s : State) (part num : Nat) : State :=
  match s.launchOf part num with
  | none => s
  | some l =>
    if l.request && !l.saved && !l.restoring && decide (l.retired < l.total) &&
        s.groups.all (fun g => !(g.part == part && g.launch == num) || g.saved) then
      trapRecord (s.setLaunch { l with saved := true }) part 7 0 0 0 num (wd l.record)
        (wd (s.groups.filter (fun g => g.part == part && g.launch == num)).length) none
    else s

/-- A count byte after a predecessor has retired: its pending count is one lower, and at 0 it is ready; its other bits stay (R151, R152). -/
def countedDown (v : Nat) : Nat :=
  let n := (v % 8 + 7) % 8
  v - v % 8 + n + (if n = 0 && !(v.testBit 3) then 8 else 0)

/-- A group retires: bitmap bit, successors counted down, its shares freed, its launch completed when it was the last
(R35, R92, R152). -/
def retireGroup (s : State) (g : Group) : State :=
  match s.launchOf g.part g.launch with
  | none => s
  | some l =>
    let bx := l.board + g.index / 8
    let s := boardWrite s bx (peek s bx 1 + (if (memGet s.mem bx).toNat.testBit (g.index % 8) then 0 else 2 ^ (g.index % 8)))
    let s := (l.succs g.index).foldl (fun st q =>
      let x := l.countByte q
      boardWrite st x (countedDown (peek st x 1))) s
    let s := { s with groups := s.groups.filter (fun h => h.id != g.id) }
    let s := s.freeBanks g.shares 8
    let more := s.groups.any (fun h => h.part == l.part && h.launch == l.num && h.saved)
    let l := { l with retired := l.retired + 1, labels := l.labels ++ [(g.index, g.collector)], restoring := l.restoring && more }
    let s := s.setLaunch l
    if l.retired = l.total then trapRecord s l.part 4 0 0 0 l.num (wd l.record) 0 none
    else checkSaved s l.part l.num

/-- The frontier a thread of a placed group starts with: the submission's and its predecessors' publications (R187). -/
def startFront (s : State) (l : Launch) (i : Nat) : Frontier :=
  (l.preds i).foldl (fun F p =>
    match l.labels.find? (fun e => e.1 == p) with
    | some e => fMerge s F e.2
    | none => F) l.front

end Sys2Proof.Machine
end

