-- ==== Sys2Proof/Machine/Flags.lean ====
section
/-! DEFINITION. Floating-point formats, exact values, rounding with its flags, and the delivery of flags into `s.fcsr`
(R45, R46, R51 to R57, R253). -/
namespace Sys2Proof.Machine

/-! ## Formats and values (R45, R46) -/

/-- How a format uses its highest exponent: IEEE infinities and NaNs, E4M3's single NaN, or finite values only. -/
inductive FmtKind where
  | ieee
  | e4m3
  | finite
  deriving DecidableEq, Repr

/-- A format: exponent width, fraction width, bias, kind. -/
structure Fmt where
  w    : Nat
  m    : Nat
  bias : Nat
  kind : FmtKind
  deriving DecidableEq, Repr

def f64 : Fmt := ⟨11, 52, 1023, .ieee⟩
def f32 : Fmt := ⟨8, 23, 127, .ieee⟩
def f16 : Fmt := ⟨5, 10, 15, .ieee⟩
def bf16 : Fmt := ⟨8, 7, 127, .ieee⟩
def e4m3 : Fmt := ⟨4, 3, 7, .e4m3⟩
def e5m2 : Fmt := ⟨5, 2, 15, .ieee⟩
def e3m2 : Fmt := ⟨3, 2, 3, .finite⟩
def e2m3 : Fmt := ⟨2, 3, 1, .finite⟩

/-- The format of a float width code (R201). -/
def fmtOfWidth (c : BitVec 2) : Fmt :=
  match c.toNat with
  | 0 => f64
  | 1 => f32
  | 2 => f16
  | _ => bf16

/-- Bits of a pattern. -/
def Fmt.size (f : Fmt) : Nat := 1 + f.w + f.m

/-- A value: NaN, infinity, or (-1)^neg x mant x 2^exp. -/
inductive FVal where
  | nan (signalling : Bool)
  | inf (neg : Bool)
  | fin (neg : Bool) (mant : Nat) (exp : Int)
  deriving DecidableEq, Repr

/-- The value of a pattern (R45). -/
def Fmt.decode (f : Fmt) (p : Nat) : FVal :=
  let neg := p / 2 ^ (f.w + f.m) % 2 == 1
  let e := p / 2 ^ f.m % 2 ^ f.w
  let fr := p % 2 ^ f.m
  let top := e == 2 ^ f.w - 1
  if f.kind = .ieee ∧ top then
    if fr = 0 then .inf neg else .nan (fr / 2 ^ (f.m - 1) == 0)
  else if f.kind = .e4m3 ∧ top ∧ fr = 2 ^ f.m - 1 then .nan false
  else if e = 0 then .fin neg fr (1 - (f.bias : Int) - f.m)
  else .fin neg (2 ^ f.m + fr) ((e : Int) - f.bias - f.m)

/-- The canonical NaN; +0 where the format has none (R46, R51). -/
def Fmt.canonicalNaN (f : Fmt) : Nat :=
  match f.kind with
  | .ieee => (2 ^ f.w - 1) * 2 ^ f.m + 2 ^ (f.m - 1)
  | .e4m3 => 0x7F
  | .finite => 0

/-- The sign bit of a pattern. -/
def Fmt.signBit (f : Fmt) (neg : Bool) : Nat := if neg then 2 ^ (f.w + f.m) else 0
/-- The pattern of an infinity. -/
def Fmt.infinity (f : Fmt) (neg : Bool) : Nat := f.signBit neg + (2 ^ f.w - 1) * 2 ^ f.m
/-- The pattern of the largest finite value. -/
def Fmt.largest (f : Fmt) (neg : Bool) : Nat :=
  f.signBit neg + (match f.kind with
    | .ieee => (2 ^ f.w - 2) * 2 ^ f.m + (2 ^ f.m - 1)
    | .e4m3 => (2 ^ f.w - 1) * 2 ^ f.m + (2 ^ f.m - 2)
    | .finite => (2 ^ f.w - 1) * 2 ^ f.m + (2 ^ f.m - 1))

/-! ## Flags (R54) -/

def flagNv : Nat := 16
def flagDz : Nat := 8
def flagOf : Nat := 4
def flagUf : Nat := 2
def flagNx : Nat := 1

/-! ## Rounding (R51, R52) -/

/-- The bits of a number. -/
def bitLen (n : Nat) : Nat := if n = 0 then 0 else n.log2 + 1

/-- N x 2^E rounded to a multiple of 2^q: the multiple and whether it is inexact. -/
def roundAt (mode : Nat) (neg : Bool) (N : Nat) (E q : Int) : Nat × Bool :=
  if q ≤ E then (N * 2 ^ (E - q).toNat, false)
  else
    let d := (q - E).toNat
    let n := N / 2 ^ d
    let r := N % 2 ^ d
    let half := 2 ^ (d - 1)
    let inc : Bool := match mode with
      | 0 => decide (half < r) || (r == half && n % 2 == 1)
      | 1 => false
      | 2 => decide (0 < r) && !neg
      | 3 => decide (0 < r) && neg
      | _ => decide (half ≤ r)
    (if inc then n + 1 else n, r != 0)

/-- a x 2^i < b x 2^j. -/
def ltScaled (a : Nat) (i : Int) (b : Nat) (j : Int) : Bool :=
  if i ≤ j then decide (a < b * 2 ^ (j - i).toNat) else decide (a * 2 ^ (i - j).toNat < b)

/-- The overflow result of a format and mode (R52). -/
def Fmt.overflow (f : Fmt) (mode : Nat) (neg : Bool) : Nat :=
  match f.kind with
  | .ieee =>
    match mode with
    | 1 => f.largest neg
    | 2 => if neg then f.largest neg else f.infinity neg
    | 3 => if neg then f.infinity neg else f.largest neg
    | _ => f.infinity neg
  | _ => f.largest neg

/-- Round of the exact value (-1)^neg x (mant + s) x 2^exp, where s is 0, or an amount above 0 and below the rounding
step's last half when `sticky` is set: the pattern and the flags (R51, R52, R54). -/
def Fmt.roundExact (f : Fmt) (mode : Nat) (neg : Bool) (mant : Nat) (exp : Int) (sticky : Bool) : Nat × Nat :=
  if mant = 0 ∧ !sticky then (f.signBit neg, 0)
  else
    let N := mant * 4 + (if sticky then 1 else 0)
    let E := exp - 2
    let emin : Int := 1 - (f.bias : Int) - f.m
    let q0 : Int := E + bitLen N - 1 - f.m
    let q := max q0 emin
    let r := roundAt mode neg N E q
    let lp := f.largest false
    let big := match f.decode lp with | .fin _ m e => ltScaled m e r.1 q | _ => false
    if big then (f.overflow mode neg, flagOf + flagNx)
    else
      let u := roundAt mode neg N E q0
      let tiny := ltScaled u.1 q0 1 (1 - (f.bias : Int))
      let flags := if r.2 then flagNx + (if tiny then flagUf else 0) else 0
      let pat :=
        if r.1 < 2 ^ f.m then r.1
        else if r.1 = 2 ^ (f.m + 1) then ((q + 1 + f.m + f.bias).toNat) * 2 ^ f.m
        else ((q + f.m + f.bias).toNat) * 2 ^ f.m + (r.1 - 2 ^ f.m)
      (f.signBit neg + pat, flags)

/-- Round of a value (R51): the pattern and the flags. -/
def Fmt.round (f : Fmt) (mode : Nat) : FVal → Nat × Nat
  | .nan sig => (f.canonicalNaN, if sig || f.kind == .finite then flagNv else 0)
  | .inf neg => if f.kind = .ieee then (f.infinity neg, 0) else (f.largest neg, flagNv)
  | .fin neg m e => f.roundExact mode neg m e false

/-! ## Exact arithmetic on values (R254, R255) -/

/-- A signalling NaN. -/
def FVal.isSig : FVal → Bool
  | .nan b => b
  | _ => false
/-- A NaN. -/
def FVal.isNan : FVal → Bool
  | .nan _ => true
  | _ => false
/-- A zero. -/
def FVal.isZero : FVal → Bool
  | .fin _ 0 _ => true
  | _ => false
/-- The value negated. -/
def FVal.neg : FVal → FVal
  | .nan b => .nan b
  | .inf n => .inf (!n)
  | .fin n m e => .fin (!n) m e

/-- nv for a signalling NaN among some values. -/
def sigFlag (vs : List FVal) : Nat := if vs.any (·.isSig) then flagNv else 0

/-- A signed mantissa. -/
def signedMant (neg : Bool) (m : Nat) : Int := if neg then -(m : Int) else m

/-- The exact sum of two finite values; the sign of an exact zero by R52. -/
def addFin (mode : Nat) (n1 : Bool) (m1 : Nat) (e1 : Int) (n2 : Bool) (m2 : Nat) (e2 : Int) : FVal :=
  let e := min e1 e2
  let z := signedMant n1 m1 * 2 ^ (e1 - e).toNat + signedMant n2 m2 * 2 ^ (e2 - e).toNat
  if z = 0 then .fin (if n1 = n2 then n1 else mode == 3) 0 0
  else .fin (decide (z < 0)) z.natAbs e

/-- The sum of two values that are not NaN, with nv where it is invalid. -/
def addVal (mode : Nat) : FVal → FVal → FVal × Nat
  | .inf a, .inf b => if a = b then (.inf a, 0) else (.nan false, flagNv)
  | .inf a, _ => (.inf a, 0)
  | _, .inf b => (.inf b, 0)
  | .fin n1 m1 e1, .fin n2 m2 e2 => (addFin mode n1 m1 e1 n2 m2 e2, 0)
  | _, _ => (.nan false, 0)

/-- The product of two values that are not NaN, with nv where it is invalid. -/
def mulVal : FVal → FVal → FVal × Nat
  | .fin n1 m1 e1, .fin n2 m2 e2 => (.fin (n1 != n2) (m1 * m2) (e1 + e2), 0)
  | .inf a, .fin n m _ => if m = 0 then (.nan false, flagNv) else (.inf (a != n), 0)
  | .fin n m _, .inf a => if m = 0 then (.nan false, flagNv) else (.inf (a != n), 0)
  | .inf a, .inf b => (.inf (a != b), 0)
  | _, _ => (.nan false, 0)

/-- `fadd` (R254). -/
def Fmt.add (f : Fmt) (mode : Nat) (x y : FVal) : Nat × Nat :=
  if x.isNan || y.isNan then (f.canonicalNaN, sigFlag [x, y])
  else
    let r := addVal mode x y
    let p := f.round mode r.1
    (p.1, Nat.lor r.2 p.2)

/-- `fmul` (R254). -/
def Fmt.mul (f : Fmt) (mode : Nat) (x y : FVal) : Nat × Nat :=
  if x.isNan || y.isNan then (f.canonicalNaN, sigFlag [x, y])
  else
    let r := mulVal x y
    let p := f.round mode r.1
    (p.1, Nat.lor r.2 p.2)

/-- The quotient m1 / m2 with enough bits for a format: mantissa, exponent change, sticky. -/
def quotient (m : Nat) (m1 m2 : Nat) : Nat × Nat × Bool :=
  let k := m + 8 + bitLen m2
  (m1 * 2 ^ k / m2, k, m1 * 2 ^ k % m2 != 0)

/-- `fdiv` (R254). -/
def Fmt.div (f : Fmt) (mode : Nat) (x y : FVal) : Nat × Nat :=
  if x.isNan || y.isNan then (f.canonicalNaN, sigFlag [x, y])
  else
    match x, y with
    | .inf _, .inf _ => (f.canonicalNaN, flagNv)
    | .inf a, .fin n _ _ => f.round mode (.inf (a != n))
    | .fin n _ _, .inf a => (f.signBit (n != a), 0)
    | .fin n1 m1 e1, .fin n2 m2 e2 =>
      if m2 = 0 then
        if m1 = 0 then (f.canonicalNaN, flagNv) else (f.infinity (n1 != n2), flagDz)
      else
        let q := quotient f.m m1 m2
        f.roundExact mode (n1 != n2) q.1 (e1 - e2 - q.2.1) q.2.2
    | _, _ => (f.canonicalNaN, 0)

/-- A fused multiply-add: (-1)^np x (x y) + (-1)^nz x z, rounded once (R255). -/
def Fmt.fma (f : Fmt) (mode : Nat) (np nz : Bool) (x y z : FVal) : Nat × Nat :=
  let sig := sigFlag [x, y, z]
  let inv := (x.isZero && (match y with | .inf _ => true | _ => false)) ||
    (y.isZero && (match x with | .inf _ => true | _ => false))
  if inv then (f.canonicalNaN, Nat.lor sig flagNv)
  else if x.isNan || y.isNan || z.isNan then (f.canonicalNaN, sig)
  else
    let p := (mulVal x y).1
    let r := addVal mode (if np then p.neg else p) (if nz then z.neg else z)
    let o := f.round mode r.1
    (o.1, Nat.lor r.2 o.2)

/-! ## Delivery (R52, R55, R56, R253) -/

/-- The rounding mode of an instruction: its code, or dyn_mode for code 7; none where dyn_mode holds no mode. -/
def effMode (m : BitVec 3) (t : Thread) : Option Nat :=
  if m = 7 then
    let d := bits t.fcsr 12 3
    if d ≤ 4 then some d else none
  else some m.toNat

/-- The illegal-instruction trap of a dynamic mode that is none. -/
def modeTrap : TrapReq := illegal 0 7

/-- Raised flags are ORed into `s.fcsr`. -/
def Thread.raise (t : Thread) (flags : Nat) : Thread := { t with fcsr := t.fcsr ||| wd flags }

/-- A raised flag is enabled to trap. -/
def Thread.flagTraps (t : Thread) (flags : Nat) : Bool := Nat.land (bits t.fcsr 5 5) flags != 0

/-- The information word of the flag trap. -/
def flagInfo (flags : Nat) : Word := wd (0xF000000000000000 + flags)

/-- Delivery: flags ORed in; the break trap when one is enabled, else the result is written (R253). Either way the thread's next issue
comes `lat` cycles later at the earliest (R252). -/
def deliver (s : State) (t : Thread) (flags lat : Nat) (write : Thread → Thread) : Host.Outcome State Fault Refusal :=
  let t := t.raise flags
  if t.flagTraps flags then .next (s.trap { t with issueAt := s.time + wd lat } ⟨13, 0, flagInfo flags, 0⟩)
  else .next (s.put ((write t).advance s.time lat))

/-- The trap of a float instruction as it checks its mode or its operands: the thread's next issue comes `lat` cycles after it at the earliest, as
after its result (R252, R253). -/
def floatTrap (s : State) (t : Thread) (lat : Nat) (r : TrapReq) : Host.Outcome State Fault Refusal :=
  .next (s.trap { t with issueAt := s.time + wd lat } r)

/-- A float instruction whose mode may be dynamic: its result pattern and flags under the effective mode. -/
def floatInstr (s : State) (i : Instr) (m : BitVec 3) (lat : Nat) (d : Reg) (f : Nat → Thread → Nat × Nat) :
    Host.Outcome State Fault Refusal :=
  issue s i (fun t =>
    match effMode m t with
    | none => floatTrap s t lat modeTrap
    | some mode =>
      let r := f mode t
      deliver s t r.2 lat (fun u => u.setG d (wd r.1)))

/-- The value of a register's low bits in a format (R251). -/
def Thread.fval (t : Thread) (f : Fmt) (r : Reg) : FVal := f.decode (bits (t.gpr r) 0 f.size)

end Sys2Proof.Machine
end

