-- ==== Sys2Proof/Machine/Formats.lean ====
section
/-! DEFINITION. Formats in memory: the format codes (R58), the typed 4-bit block and the scaled blocks (R47 to R50), where an
element of a run stands (R59 to R61, R99), and reading and encoding one element (R279, R280). -/
namespace Sys2Proof.Machine

/-! ## Format codes (R58) -/

/-- A format code that is not reserved. -/
def fmtValid (f : Nat) : Bool := decide (f ≤ 18)
/-- A blocked format. -/
def fmtBlocked (f : Nat) : Bool := decide (14 ≤ f) && decide (f ≤ 18)
/-- Element bits of a format. -/
def fmtBits (f : Nat) : Nat :=
  match f with
  | 1 | 14 => 4
  | 3 | 6 | 7 => 16
  | 4 | 8 => 32
  | 5 | 9 => 64
  | 12 | 13 | 17 | 18 => 6
  | _ => 8
/-- Bits an element takes in a space: a six-bit element takes a byte outside global memory (R60). -/
def slotBits (f space : Nat) : Nat := if fmtBits f = 6 && space != 0 then 8 else fmtBits f
/-- The floating-point format of a code, plain or scaled; none for the integers and the typed block. -/
def fmtFloat (f : Nat) : Option Fmt :=
  match f with
  | 6 => some f16
  | 7 => some bf16
  | 8 => some f32
  | 9 => some f64
  | 10 | 15 => some e4m3
  | 11 | 16 => some e5m2
  | 12 | 17 => some e3m2
  | 13 | 18 => some e2m3
  | _ => none

/-! ## Typed and scaled blocks (R47 to R50) -/

/-- Magnitudes in eighths of codes 0 to 7 of types 01, 10 and 11 (R48). -/
def typedMag (ty c : Nat) : Nat :=
  (match ty with
   | 1 => [0, 4, 8, 12, 16, 24, 32, 48]
   | 2 => [0, 1, 2, 4, 8, 16, 32, 64]
   | _ => [0, 8, 16, 24, 32, 48, 64, 96]).getD (c % 8) 0

/-- The type and exponent of a scale byte (R47). -/
def scaleType (sb : Nat) : Nat := sb / 64 % 4
def scaleExp (sb : Nat) : Nat := sb % 64

/-- The value of a typed 4-bit code under a scale byte (R48). -/
def typedDecode (sb c : Nat) : FVal :=
  if scaleExp sb = 63 then .nan false
  else
    let e : Int := (scaleExp sb : Int) - 35
    if scaleType sb = 0 then
      let v := toSigned 4 c
      .fin (decide (v < 0)) (v.natAbs * 8) e
    else .fin (c / 8 % 2 == 1) (typedMag (scaleType sb) c) e

/-- A float code scaled by the byte's power of two; a NaN stays NaN, an infinity stays infinite (R50). -/
def scaledDecode (f : Fmt) (sb c : Nat) : FVal :=
  if scaleExp sb = 63 then .nan false
  else
    match f.decode c with
    | .fin n m e => .fin n m (e + scaleExp sb - 32)
    | v => v

/-- |x - y|. -/
def distance (x y : Nat) : Nat := (x - y) + (y - x)

/-- Of the codes 0, 1, ... with rising magnitudes, the one nearest to a magnitude: the even code on a tie. -/
def nearestCode (y : Nat) (mags : List Nat) : Nat :=
  (List.range mags.length).foldl (fun best c =>
    let d := distance y (mags.getD c 0)
    let d0 := distance y (mags.getD best 0)
    if d < d0 || (d == d0 && c % 2 == 0) then c else best) 0

/-- The code of a value under a scale byte that is no NaN scale (R49). -/
def typedEncode (sb : Nat) (x : FVal) : Nat :=
  let ty := scaleType sb
  match x with
  | .nan _ => 0
  | .inf neg => if ty = 0 then (if neg then 8 else 7) else (if neg then 15 else 7)
  | .fin neg m e =>
    let k : Int := e - ((scaleExp sb : Int) - 35)
    let y := if k ≥ 0 then m * 2 ^ k.toNat else m
    let one := if k ≥ 0 then 1 else 2 ^ (-k).toNat
    if ty = 0 then
      if neg then
        let c := nearestCode y ((List.range 9).map (fun i => 8 * i * one))
        if c = 0 then 0 else 16 - c
      else nearestCode y ((List.range 8).map (fun i => 8 * i * one))
    else
      let c := nearestCode y ((List.range 8).map (fun i => typedMag ty i * one))
      if neg then 8 + c else c

/-- A value converted to a scaled element: divided by the scale exactly, then rounded to nearest even; over a NaN scale it is NaN
(R50, R51). -/
def scaledEncode (f : Fmt) (sb : Nat) (x : FVal) : Nat :=
  match (if scaleExp sb = 63 then .nan false else x) with
  | .fin n m e => (f.round 0 (.fin n m (e - scaleExp sb + 32))).1
  | v => (f.round 0 v).1

/-! ## One element -/

/-- The value of an element's bits: floats of every kind. Integers are exact values too. -/
def elemValue (f sb c : Nat) : FVal :=
  if f = 14 then typedDecode sb c
  else
    match fmtFloat f with
    | some g => if fmtBlocked f then scaledDecode g sb c else g.decode c
    | none =>
      if f = 0 then .fin false (c % 256) 0
      else
        let v := toSigned (fmtBits f) c
        .fin (decide (v < 0)) v.natAbs 0

/-- What `ldx` writes for an element's bits (R279). -/
def elemRegister (f sb c : Nat) : Word :=
  if f = 0 then wd (c % 256)
  else if 1 ≤ f ∧ f ≤ 5 then signExt (fmtBits f) c
  else if f = 9 then wd c
  else wd (f32.round 0 (elemValue f sb c)).1

/-- The element's bits that `stx` stores for a register (R280). -/
def elemStored (f sb : Nat) (v : Word) : Nat :=
  if f ≤ 5 then bits v 0 (fmtBits f)
  else if f = 9 then v.toNat
  else
    let p := bits v 0 32
    let x := f32.decode p
    if f = 14 then (if scaleExp sb = 63 then (Config.nanScaleCode p).toNat % 16 else typedEncode sb x)
    else
      match fmtFloat f with
      | some g => if fmtBlocked f then scaledEncode g sb x else (g.round 0 x).1
      | none => 0

/-! ## Where an element stands (R59 to R61, R99) -/

/-- An element's place in a run: the byte offset from the run's base, the bit offset in that byte, the element's bits, and
the offset of its scale byte where the format is blocked. -/
structure Place where
  byte  : Nat
  shift : Nat
  width : Nat
  scale : Option Nat
  deriving DecidableEq, Repr

/-- Element j of a plain sequence of elements that starts at a byte. -/
def plainPlace (f space start j : Nat) (sc : Option Nat) : Place :=
  let w := slotBits f space
  if w = 4 then ⟨start + j / 2, 4 * (j % 2), 4, sc⟩
  else if w = 6 then ⟨start + 3 * (j / 4) + 6 * (j % 4) / 8, 6 * (j % 4) % 8, 6, sc⟩
  else ⟨start + j * (w / 8), 0, fmtBits f, sc⟩

/-- Bytes of a block's payload (R99). -/
def blockBytes (f space len : Nat) : Nat := len * slotBits f space / 8

/-- Element i of a run whose block length is `len`. -/
def elemPlace (f space len i : Nat) : Place :=
  if fmtBlocked f then
    let k := i / len
    let p := blockBytes f space len
    let panel := k / 64 * (64 + 64 * p)
    plainPlace f space (panel + 64 + k % 64 * p) (i % len) (some (panel + k % 64))
  else plainPlace f space 0 i none

/-- Bytes an element touches. -/
def Place.bytes (p : Place) : Nat := ceilDiv (p.shift + p.width) 8

/-- The element's bits in the bytes it touches. -/
def Place.extract (p : Place) (bs : List Byte) : Nat := ofBytes bs / 2 ^ p.shift % 2 ^ p.width

/-- The bytes and masks that store an element's bits: whole bytes outside the packed layouts, so that the high bits of a
six-bit element's own byte become zero (R60, R280). -/
def Place.masked (p : Place) (f space v : Nat) : List (Byte × Byte) :=
  let packed := slotBits f space % 8 != 0
  let x := v % 2 ^ p.width * 2 ^ p.shift
  let m := if packed then (2 ^ p.width - 1) * 2 ^ p.shift else 2 ^ (8 * p.bytes) - 1
  (toBytes p.bytes x).zip (toBytes p.bytes m)

end Sys2Proof.Machine
end

