-- ==== Sys2Proof/Machine/Memory.lean ====
section
/-! DEFINITION. Loads, stores, descriptors, format-aware access, tags and atomics at their issue (R234, R235, R273 to R282).
What an access asks for is one request, computed from the instruction and its captured sources; the same request serves its
issue, its check return and its performance. -/
namespace Sys2Proof.Machine

/-! ## Requests of loads -/

/-- What a load or wait reads: the access, the scale byte's access of a blocked element, the place of an element in its
bytes, whether it must be aligned, whether it reads the granule's tag, whether tags are compared. -/
structure LoadReq where
  acc     : Access
  scale   : Option Access
  place   : Place
  aligned : Bool
  tagRead : Bool
  tagged  : Bool
  deriving DecidableEq, Repr

/-- A load of whole bytes. -/
def plainLoad (acc : Access) (aligned : Bool) : LoadReq := ⟨acc, none, ⟨0, 0, 8 * acc.size, none⟩, aligned, false, true⟩

/-- The space a wait's fn names (R214). -/
def waitSpace (f : BitVec 5) : Nat := if f.toNat / 6 = 0 then 0 else f.toNat / 6 + 1

/-- The base, length and flags of a descriptor (R68). -/
def descBase (d : BitVec 128) : Nat := bits d 0 48
def descLength (d : BitVec 128) : Nat := bits d 48 40
def descScale (d : BitVec 128) : Nat := bits d 88 3
def descRd (d : BitVec 128) : Bool := bit d 91
def descWr (d : BitVec 128) : Bool := bit d 92
def descOob (d : BitVec 128) : Bool := bit d 93
def descTag (d : BitVec 128) : Nat := bits d 94 4
def descValid (d : BitVec 128) : Bool := bit d 127

/-- The access of `ldb` or `stb` through descriptor k; none where it is out of bounds and the descriptor drops it (R278). -/
def descAccess (k : BitVec 4) (d : BitVec 128) (index : Word) (size : Nat) (store : Bool) : Except TrapReq (Option Access) :=
  let info := wd (0x100 + k.toNat)
  if !(descValid d) then .error ⟨7, 0, info, 0⟩
  else if !(if store then descWr d else descRd d) then .error ⟨9, 0, info, 0⟩
  else
    let o := index.toNat * 2 ^ descScale d
    if descLength d < o + size then
      if descOob d then .ok none else .error ⟨7, 0, info, wd o⟩
    else .ok (some ⟨0, descBase d + o, size, descTag d⟩)

/-- The pointer of a format-aware access: the format and block length, or its trap (R58, R98, R99, R279). -/
def formatPointer (p : Word) (kind : Nat) : Except TrapReq (Nat × Nat) :=
  let f := bits p 48 5
  if bits p 60 4 ≠ 0 then .error ⟨5, 0, wd (bits p 60 4), p⟩
  else if !(fmtValid f) then .error ⟨5, 0, wd f, p⟩
  else if fmtBlocked f && bits p 0 48 % 64 != 0 then .error ⟨4, 0, wd kind, wd (bits p 0 48)⟩
  else .ok (f, 2 ^ (bits p 53 3 + 2))

/-- The access of n bytes at an offset from a format pointer's base, computed exactly (R273, R279). -/
def elemAccess (space : Nat) (p : Word) (off n : Nat) : Except TrapReq Access :=
  let a := bits p 0 48 + off
  if space = 0 ∧ 2 ^ 48 < a + n then .error ⟨5, 1, 0, p⟩ else .ok ⟨space, a, n, bits p 56 4⟩

/-- The element of a format-aware access: its format, place, own access and its scale byte's. -/
def elemRequest (space : Nat) (p index : Word) (kind : Nat) : Except TrapReq (Nat × Place × Access × Option Access) :=
  match formatPointer p kind with
  | .error r => .error r
  | .ok (f, len) =>
    let pl := elemPlace f space len index.toNat
    match elemAccess space p pl.byte pl.bytes with
    | .error r => .error r
    | .ok acc =>
      match pl.scale with
      | none => .ok (f, pl, acc, none)
      | some o =>
        match elemAccess space p o 1 with
        | .error r => .error r
        | .ok sa => .ok (f, pl, acc, some sa)

/-- What a load or wait reads, from its captured sources and descriptor; none where it makes no access. -/
def loadReq (i : Instr) (src1 src2 : Word) (desc : BitVec 128) : Except TrapReq (Option LoadReq) :=
  let simple := fun (space : Nat) (off : Int) (size : Nat) (al : Bool) =>
    match formAddress space src1 off size with
    | .error r => Except.error r
    | .ok acc => .ok (some (plainLoad acc al))
  match i with
  | .ld p _ _ _ w k | .ldn p _ _ _ w k => simple p.toNat (k.toInt * (2 ^ w.toNat : Nat)) (2 ^ w.toNat) false
  | .ordLd p _ _ w _ _ | .ordLdn p _ _ w _ _ => simple p.toNat 0 (2 ^ w.toNat) true
  | .waita _ _ _ _ _ _ f | .waitge _ _ _ _ _ _ f => simple (waitSpace f) 0 8 true
  | .ldb _ _ k _ y =>
    match descAccess k desc src1 (2 ^ (y.toNat % 4)) false with
    | .error r => .error r
    | .ok none => .ok none
    | .ok (some acc) => .ok (some (plainLoad acc false))
  | .ldx p _ _ _ _ _ =>
    match elemRequest p.toNat src1 src2 1 with
    | .error r => .error r
    | .ok (_, pl, acc, sc) => .ok (some ⟨acc, sc, pl, false, false, true⟩)
  | .ldg _ _ _ =>
    match formAddress 0 src1 0 1 with
    | .error r => .error r
    | .ok acc => .ok (some ⟨acc, none, ⟨0, 0, 8, none⟩, false, true, false⟩)
  | _ => .ok none

/-- The value a load or wait writes from the bytes it read (R235, R274, R278, R279, R287). -/
def loadValue (i : Instr) (src1 : Word) (pl : Place) (sb : Nat) (bs : List Byte) : Word :=
  let v := ofBytes bs
  match i with
  | .ld .. | .ordLd .. => signExt (8 * bs.length) v
  | .ldb _ _ _ _ y => if y.toNat < 4 then signExt (8 * bs.length) v else wd v
  | .ldx .. => elemRegister (bits src1 48 5) sb (pl.extract bs)
  | .ldg .. => setBits src1 56 4 v
  | _ => wd v

/-! ## The accesses of replay entries -/

/-- The space, address register, bytes and operand of an atomic. -/
def atomicForm : Instr → Option (Nat × Reg × Nat × Reg)
  | .amoAdd p d a w _ _ | .amoMin p d a w _ _ | .amoMax p d a w _ _ | .amoMinn p d a w _ _ | .amoMaxn p d a w _ _
  | .amoAnd p d a w _ _ | .amoOr p d a w _ _ | .amoXor p d a w _ _ | .amoXchg p d a w _ _ =>
    some (p.toNat, a, if w then 8 else 4, d)
  | .amoFaddS p d a _ _ | .amoFaddBf p d a _ _ => some (p.toNat, a, 4, d)
  | .cas p d a w _ _ => some (p.toNat, a, if w then 8 else 4, evenReg d)
  | _ => none

/-- The request of a load or wait entry. -/
def entryReq (e : ReplayEntry) : Except TrapReq (Option LoadReq) :=
  match e.instr with
  | some i => loadReq i e.src1 e.src2 e.desc
  | none => .ok none

/-- The access of an atomic entry. -/
def entryAtomic (e : ReplayEntry) : Except TrapReq Access :=
  match e.instr.bind atomicForm with
  | some (space, _, size, _) => formAddress space e.src1 0 size
  | none => .error (illegal 2 0)

/-- The accesses of a load or wait: of a blocked element's scale byte first (R279). -/
def LoadReq.accesses (q : LoadReq) : List Access := q.scale.toList ++ [q.acc]

/-- The accesses of an entry, each with its kind and whether tags are compared. -/
def entryAccesses (e : ReplayEntry) : List (Access × Kind × Bool) :=
  match entryReq e, entryAtomic e with
  | .ok (some q), _ => q.accesses.map (fun a => (a, Kind.load, q.tagged))
  | _, .ok a => [(a, .atomic, true)]
  | _, _ => []

/-- The bytes of an access of an entry: those its check found where that has passed, else as its check finds them now (R104). -/
def checkedBytes (s : State) (loc : Nat) (t : Thread) (e : ReplayEntry) (a : Access) (k : Kind) (tagged : Bool) : Checked :=
  match e.places.find? (fun p => p.1 == a.addr) with
  | some p => .ok p.2.1 p.2.2
  | none => accessBytes s loc t a k tagged

/-- The locations of an access of an entry, where its checks pass. -/
def accessLocs (s : State) (loc : Nat) (t : Thread) (e : ReplayEntry) (a : Access) (k : Kind) (tagged : Bool) : List Nat :=
  match checkedBytes s loc t e a k tagged with
  | .ok xs _ => xs.map (s.resolve (.thread loc))
  | _ => []

/-- The locations an entry's access touches. -/
def entryLocs (s : State) (loc : Nat) (t : Thread) (e : ReplayEntry) : List Nat :=
  match entryReq e with
  | .ok (some q) =>
    let main := accessLocs s loc t e q.acc .load q.tagged
    (match q.scale with | some a => accessLocs s loc t e a .load q.tagged | none => []) ++ (if q.tagRead then main.map tagLoc else main)
  | _ =>
    match entryAtomic e with
    | .ok a => accessLocs s loc t e a .atomic true
    | .error _ => []

/-- An earlier entry of the thread that has not taken its move touches one of some bytes (R112, R180). -/
def olderTouches (s : State) (loc : Nat) (t : Thread) (id : Nat) (xs : List Nat) : Bool :=
  t.replay.any (fun e => decide (e.id < id) && e.flight == .waiting && e.state == .pending && e.mark.isNone &&
    (entryLocs s loc t e).any xs.contains)

/-- A read made at issue would come before an earlier load or atomic of the same bytes (R180). -/
def readsEarly (s : State) (loc : Nat) (t : Thread) (xs : List Nat) : Bool := olderTouches s loc t s.fresh (xs.map (s.resolve (.thread loc)))

/-- Where an access misses on a page whose walk has failed and is outstanding still, with the walk's outcome (R105, R146). -/
def sharedMiss (s : State) (loc : Nat) (t : Thread) (a : Access) : Option (Nat × Xlate) :=
  if missesL1 s loc t a then
    (pieces a.addr a.size).findSome? (fun p =>
      if s.tlb.any (fun e => e.serves (dieOf loc) t.part t.asid p.1) then none
      else (outstandingWalk s (dieOf loc) t.part t.asid p.1).map (fun x => (p.1, x)))
  else none

/-- An entry whose access misses on a page, at an address of it, whose walk has failed: its reply will be a recoverable fault, where it is no
atomic's, it has a fault mark, or its reply will arrive poisoned (R103, R104, R146). -/
def ReplayEntry.walked (e : ReplayEntry) (a : Access) (k : Kind) (va : Nat) : Xlate → ReplayEntry
  | .page _ _ => e
  | .absent =>
    if k == .load then { e with flight := .faulting, fault := wd va, walk := some va } else { e with mark := some ⟨8, 0, wd k.code, wd a.addr⟩ }
  | .bad sub => { e with mark := some ⟨8, sub, wd k.code, wd a.addr⟩ }
  | .poisoned => { e with flight := .poisoning, fault := wd a.addr, value := 2, walk := some va }

/-- The trap of a store or atomic that misses on a page whose walk has failed (R103, R146). -/
def walkTrap (a : Access) (k : Kind) : Xlate → Option TrapReq
  | .page _ _ => none
  | .absent => some ⟨8, 0, wd k.code, wd a.addr⟩
  | .bad sub => some ⟨8, sub, wd k.code, wd a.addr⟩
  | .poisoned => some ⟨11, 2, wd k.code, wd a.addr⟩

/-- An entry at its issue shares the outcome of an outstanding walk that it misses on (R105, R146). -/
def joinMiss (s : State) (loc : Nat) (t : Thread) (e : ReplayEntry) : ReplayEntry :=
  match (entryAccesses e).findSome? (fun a => (sharedMiss s loc t a.1).map (fun m => (a, m))) with
  | some m => e.walked m.1.1 m.1.2.1 m.2.1 m.2.2
  | none => e

/-! ## Issuing a load -/

/-- A replay entry for the instruction being issued, with its captured sources (R81, R215). -/
def entryFor (s : State) (t : Thread) (src1 src2 src3 : Word) (d : Reg) (desc : BitVec 128) : ReplayEntry where
  id := s.fresh
  word := s.ir
  addr := wd t.here.toNat
  src1 := src1
  src2 := src2
  src3 := src3
  dst := d
  state := .pending
  value := 0
  flight := .waiting
  mark := none
  fault := 0
  since := s.time
  pred := false
  desc := desc
  places := []
  got := []
  walk := none

/-- A producer takes its entry, its destination becomes empty-owed, and its thread goes on (R64, R272). -/
def takeEntry (s : State) (t : Thread) (e : ReplayEntry) (lat : Nat) : Host.Outcome State Fault Refusal :=
  .next ({ s with fresh := s.fresh + 1 }.put (({ t.setOwed e.dst with replay := t.replay ++ [e] } : Thread).advance s.time lat))

/-- The traps a load takes at its issue: alignment, watchpoints, its window, and on an L1 hit the line's permissions. A
wait is checked as a load (R287): where its check fails on a miss, its destination takes the mark (log entry 24). -/
def loadIssueTrap (s : State) (loc : Nat) (t : Thread) (r : LoadReq) : Option TrapReq :=
  let one := fun (a : Access) (al : Bool) =>
    match (if r.tagRead then none else preCheck s loc t a .load al) with
    | some x => some x
    | none =>
      if missesL1 s loc t a then none
      else checkTrap a .load (accessBytes s loc t a .load r.tagged)
  match r.scale.bind (one · false) with
  | some x => some x
  | none => one r.acc r.aligned

/-- The places of a load's accesses whose check is made at its issue, so that it is made no more: an L1 hit, or a local window
(R104). -/
def placesAtIssue (s : State) (loc : Nat) (t : Thread) (r : LoadReq) : List (Nat × List Nat × List Attrs) :=
  r.accesses.filterMap (fun a =>
    if missesL1 s loc t a then none
    else match accessBytes s loc t a .load r.tagged with | .ok xs as => some (a.addr, xs, as) | _ => none)

/-- A thread that has compared the tags of a load's accesses whose check is made at its issue (R104, R106). -/
def comparedAtIssue (s : State) (loc : Nat) (t : Thread) (r : LoadReq) : Thread :=
  r.accesses.foldl (fun u a => if missesL1 s loc t a then u else comparedTags s loc u a r.tagged [] []) t

/-- The issue of a load or wait (R274, R287). -/
def issueLoad (s : State) (i : Instr) (src1 src2 src3 : Thread → Word) (desc : Thread → BitVec 128) (d : Reg) :
    Host.Outcome State Fault Refusal :=
  issue s i (fun th =>
    match loadReq i (src1 th) (src2 th) (desc th) with
    | .error r => .next (s.trap th r)
    | .ok none => .next (s.put ((th.setG d 0).advance s.time 1))
    | .ok (some q) =>
      match loadIssueTrap s s.cur th q with
      | some r => .next (s.trap th r)
      | none =>
        let e := { entryFor s th (src1 th) (src2 th) (src3 th) d (desc th) with places := placesAtIssue s s.cur th q }
        takeEntry (countMisses s s.cur th q.accesses) (comparedAtIssue s s.cur th q) (joinMiss s s.cur th e) 1)

/-- `ld`: a relaxed sign-extending load (R274). -/
def execLd (p : BitVec 3) (d a : BitVec 6) (t : Bool) (w : BitVec 2) (k : BitVec 9) (s : State) : Host.Outcome State Fault Refusal :=
  issueLoad s (.ld p d a t w k) (fun th => th.gpr a) (fun _ => 0) (fun _ => 0) (fun _ => 0) d

/-- `ldn`: a relaxed zero-extending load (R274). -/
def execLdn (p : BitVec 3) (d a : BitVec 6) (t : Bool) (w : BitVec 2) (k : BitVec 9) (s : State) : Host.Outcome State Fault Refusal :=
  issueLoad s (.ldn p d a t w k) (fun th => th.gpr a) (fun _ => 0) (fun _ => 0) (fun _ => 0) d

/-- An ordered sign-extending load (R275). -/
def execOrdLd (p : BitVec 3) (d a : BitVec 6) (w : BitVec 2) (t : Bool) (o : BitVec 5) (s : State) : Host.Outcome State Fault Refusal :=
  issueLoad s (.ordLd p d a w t o) (fun th => th.gpr a) (fun _ => 0) (fun _ => 0) (fun _ => 0) d

/-- An ordered zero-extending load (R275). -/
def execOrdLdn (p : BitVec 3) (d a : BitVec 6) (w : BitVec 2) (t : Bool) (o : BitVec 5) (s : State) : Host.Outcome State Fault Refusal :=
  issueLoad s (.ordLdn p d a w t o) (fun th => th.gpr a) (fun _ => 0) (fun _ => 0) (fun _ => 0) d

/-- `ldb`: a load through a descriptor; out of bounds with oob set it writes 0 (R278). -/
def execLdb (d a : BitVec 6) (k : BitVec 4) (t : Bool) (y : BitVec 3) (s : State) : Host.Outcome State Fault Refusal :=
  issueLoad s (.ldb d a k t y) (fun th => th.gpr a) (fun _ => 0) (fun _ => 0) (fun th => th.dReg k) d

/-- `ldx`: an element of a run (R279). -/
def execLdx (p : BitVec 3) (d a b : BitVec 6) (t u : Bool) (s : State) : Host.Outcome State Fault Refusal :=
  issueLoad s (.ldx p d a b t u) (fun th => th.gpr a) (fun th => th.gpr b) (fun _ => 0) (fun _ => 0) d

/-- `ldg`: the allocation tag of a granule (R235). -/
def execLdg (d a : BitVec 6) (t : Bool) (s : State) : Host.Outcome State Fault Refusal :=
  issueLoad s (.ldg d a t) (fun th => th.gpr a) (fun _ => 0) (fun _ => 0) (fun _ => 0) d

/-- `waita`: waits until the word differs from gd (R287). -/
def execWaita (k : BitVec 3) (d a b : BitVec 6) (t u : Bool) (f : BitVec 5) (s : State) : Host.Outcome State Fault Refusal :=
  issueLoad s (.waita k d a b t u f) (fun th => th.gpr a) (fun th => th.gpr b) (fun th => th.gpr d) (fun _ => 0) d

/-- `waitge`: waits until the word is at least gd (R287). -/
def execWaitge (k : BitVec 3) (d a b : BitVec 6) (t u : Bool) (f : BitVec 5) (s : State) : Host.Outcome State Fault Refusal :=
  issueLoad s (.waitge k d a b t u f) (fun th => th.gpr a) (fun th => th.gpr b) (fun th => th.gpr d) (fun _ => 0) d

/-- The lines of some bytes of a cacheable global access that missed L1 are filled, those that the die's L2 holds and that are not poisoned
(R107, R114): a load whose bytes its thread's stores all supply can be made without the line. -/
def fillLines (s : State) (loc : Nat) (t : Thread) (a : Access) (xs : List Nat) (as : List Attrs) : State :=
  if !(missesL1 s loc t a) then s
  else
    ((List.range xs.length).filter (fun j => (attrAt as j).c && (j == 0 || (a.addr + j) % 64 == 0) &&
        s.held (dieOf loc) (xs.getD j 0 / 64) && !(s.poisoned (s.resolve (.thread loc) (xs.getD j 0))))).foldl
      (fun st j => l1Fill st (coreOf loc) t.asid (a.addr + j) (xs.getD j 0) (attrAt as j)) s

/-! ## Requests of stores -/

/-- How a store enters its pool: in whole units, masked by lines, non-temporal, or as granule tags. -/
inductive StoreKind where
  | plain
  | masked
  | nontemporal
  | tags
  deriving DecidableEq, Repr

/-- What a store writes: the access, its bytes with their bit masks, or for a blocked element its format, place, value and
the access of the scale byte that it is encoded under. -/
structure StoreReq where
  acc     : Access
  cells   : List (Byte × Byte)
  elem    : Option (Nat × Place × Word × Access)
  aligned : Bool
  release : Option Nat
  seq     : Bool
  kind    : StoreKind
  deriving DecidableEq, Repr

/-- Whole bytes with full masks. -/
def wholeBytes (bs : List Byte) : List (Byte × Byte) := bs.map (fun b => (b, 255#8))

/-- A plain store of a register's low bytes. -/
def plainStore (acc : Access) (v : Word) (aligned : Bool) (kind : StoreKind) : StoreReq :=
  ⟨acc, wholeBytes (toBytes acc.size v.toNat), none, aligned, none, false, kind⟩

/-- What a store writes; none where a descriptor drops it (R234, R274, R275, R278, R280, R281). -/
def storeReq (i : Instr) (t : Thread) : Except TrapReq (Option StoreReq) :=
  let simple := fun (space : Nat) (p : Word) (off : Int) (size : Nat) (f : Access → StoreReq) =>
    match formAddress space p off size with
    | .error r => Except.error r
    | .ok acc => .ok (some (f acc))
  match i with
  | .st p s a _ _ w k =>
    simple p.toNat (t.gpr a) (k.toInt * (2 ^ w.toNat : Nat)) (2 ^ w.toNat) (fun acc => plainStore acc (t.gpr s) false .plain)
  | .ordSt p s a w _ o =>
    simple p.toNat (t.gpr a) 0 (2 ^ w.toNat) (fun acc =>
      { plainStore acc (t.gpr s) true .plain with
        release := if releases (ordOf o) then some (scopeOf o) else none
        seq := ordOf o == 4 })
  | .stn s a _ f => simple 0 (t.gpr a) 0 (2 ^ (f.toNat - 14)) (fun acc => plainStore acc (t.gpr s) true .nontemporal)
  | .stb s a k _ w =>
    match descAccess k (t.dReg k) (t.gpr a) (2 ^ w.toNat) true with
    | .error r => .error r
    | .ok none => .ok none
    | .ok (some acc) => .ok (some (plainStore acc (t.gpr s) false .plain))
  | .stx p s a b _ _ =>
    match elemRequest p.toNat (t.gpr a) (t.gpr b) 2 with
    | .error r => .error r
    | .ok (f, pl, acc, sc) =>
      let kind := if slotBits f p.toNat % 8 = 0 then .plain else .masked
      .ok (some ⟨acc, pl.masked f p.toNat (elemStored f 0 (t.gpr s)), sc.map (fun x => (f, pl, t.gpr s, x)), false, none, false, kind⟩)
  | .stg a b _ _ =>
    let va := bits (t.gpr a) 0 48
    let n := (t.gpr b).toNat
    if va % 64 ≠ 0 ∨ n % 64 ≠ 0 ∨ n = 0 ∨ 4096 < n ∨ va / 65536 ≠ (va + n - 1) / 65536 then .error ⟨4, 0, 2, wd va⟩
    else simple 0 (t.gpr a) 0 n (fun acc => ⟨acc, List.replicate (n / 64) (BitVec.ofNat 8 (bits (t.gpr a) 56 4), 255#8), none, false, none, false, .tags⟩)
  | _ => .ok none

/-! ## Issuing a store -/

/-- The lines of a core's L1 that a store to some bytes drops: any other line of a set it reaches with the same physical frame, a stale
one of the line itself, and for a non-temporal store or an atomic every copy (R107, R108). -/
def l1Store (s : State) (core asid : Nat) (va : Nat) (xs : List Nat) (all : Bool) : State :=
  let lines := (xs.zipIdx.filterMap (fun e => if bankOf e.1 == 0 then some ((va + e.2) / 64, e.1 / 64) else none)).eraseDups
  let c := s.core core
  let hit := fun (l : L1Line) (v : Nat) => l.va == v && (l.attrs.g || l.asid == asid) && l.die == c.genDie && l.pkg == c.genPkg
  { s with l1d := s.l1d.filter (fun l => !(l.core == core && lines.any (fun e =>
      (l.va % 256 == e.1 % 256 && l.pa / 1024 == e.2 / 1024 && !(hit l e.1)) || (all && l.pa == e.2)))) }

/-- The cells of a store grouped into the moves that enter them: single tags, lines of a masked write, aligned 8-byte units
of any other (R178, R234, R280). -/
def storeGroups (kind : StoreKind) (cells : List (Nat × Byte × Byte)) : List (List (Nat × Byte × Byte)) :=
  match kind with
  | .tags => cells.map (fun c => [c])
  | .masked => ((cells.map (fun c => c.1 / 64)).eraseDups).map (fun u => cells.filter (fun c => c.1 / 64 == u))
  | _ => unitsOf cells

/-- The locations a store writes from the locations its access touches: the granules' tags for `stg`. -/
def storeLocs (kind : StoreKind) (xs : List Nat) : List Nat :=
  match kind with
  | .tags => (List.range (xs.length / 64)).map (fun i => tagLoc (xs.getD (64 * i) 0))
  | _ => xs

/-- What a store writes where its blocked element's scale byte, if it has one, has been read: the bytes; that it is dropped at a line,
named by a byte of it, for a poisoned scale byte; or that it has to wait for an earlier access of that byte. -/
inductive StoreBytes where
  | bytes (bs : List (Byte × Byte))
  | dropped (x : Nat)
  | wait
  deriving DecidableEq, Repr

/-- The bytes of a store, of a blocked element encoded under its scale byte, which is read first by a load's checks and as a load reads; a
store under a poisoned scale byte, or one whose line is refused to the die, is dropped (R111, R114, R178, R180, R280). -/
def storeCells (s : State) (loc : Nat) (t : Thread) (q : StoreReq) : Except TrapReq (State × Thread × StoreBytes) :=
  match q.elem with
  | none => .ok (s, t, .bytes q.cells)
  | some (f, pl, v, sa) =>
    if missesL1 s loc t sa && walkWaits s (dieOf loc) t.part t.asid sa.addr sa.size then .ok (s, t, .wait)
    else
    let s := walkFor s loc t sa
    match accessBytes s loc t sa .load true with
    | .ok xs as =>
      if readsEarly s loc t xs || touchBusy s (dieOf loc) xs as false then .ok (s, t, .wait)
      else
        let s := if missesL1 s loc t sa then touch s (dieOf loc) t.asid sa.addr xs as false else s
        if (firstPoison s (.thread loc) (t.unforwarded (addressed sa.addr xs)) true).isSome ||
            ((attrAt as 0).c && xs.any (fun x => bankOf x == 0 && lineRefused s (dieOf loc) (x / 64))) then .ok (s, t, .dropped (xs.headD 0))
        else
          match issueRead s loc (comparedTags s loc t sa true xs as) xs with
          | none => .ok (s, t, .wait)
          | some r => .ok (r.1, r.2.1, .bytes (pl.masked f q.acc.space (elemStored f (ofBytes r.2.2) v)))
    | c => match checkTrap sa .load c with | some r => .error r | none => .ok (s, t, .wait)

/-- The groups of a store's cells with their pages' cacheability and their addresses. -/
def placedGroups (q : StoreReq) (xs : List Nat) (as : List Attrs) (bs : List (Byte × Byte)) : List (Bool × Nat × List (Nat × Byte × Byte)) :=
  (storeGroups q.kind ((storeLocs q.kind xs).zip bs)).map (fun u =>
    let x := (u.map (·.1)).headD 0
    let j := if q.kind == .tags then 0 else (xs.takeWhile (· != x)).length
    ((attrAt as j).c, q.acc.addr + j, u))

/-- The misses of a store whose own bytes hit L1: that of its blocked element's scale byte (R172, R280). A store that waited for its slice
counted them as it issued. -/
def countScale (s : State) (loc : Nat) (t : Thread) (q : StoreReq) (returned : Bool) (s' : State) : State :=
  match q.elem with
  | some e => if returned then s' else s'.count (coreOf loc) 9 (if missesL1 s loc t e.2.2.2 then 1 else 0)
  | none => s'

/-- The effect of a store whose checks passed, and the end of its issue (R179, R184, R274). -/
def storeEffect (s : State) (t : Thread) (q : StoreReq) (xs : List Nat) (as : List Attrs) (returned : Bool) : Host.Outcome State Fault Refusal :=
  let tally := countScale s s.cur t q returned
  match storeCells s s.cur t q with
  | .error r => .next ((tally s).trap t r)
  | .ok (_, _, .wait) => if returned then .next s else s.stalled t
  | .ok (s, t, .dropped x) => let s := tally s; .next ((if q.acc.space = 0 then countDropped s x else s).put (t.advance s.time 1))
  | .ok (s, t, .bytes bs) =>
    let s := tally s
    let nt := q.kind == .nontemporal
    let s := if q.kind == .tags then s else l1Store s (coreOf s.cur) t.asid q.acc.addr xs nt
    let p := pushGroups s t (placedGroups q xs as bs) q.release q.seq nt
    .next (p.1.put (p.2.advance s.time 1))

/-- The first of a store's traps before its slice checks it: of a blocked element's scale byte, whose read is one of its accesses, then
of its own bytes (R79, R273, R280). -/
def storePreCheck (s : State) (loc : Nat) (t : Thread) (q : StoreReq) : Option TrapReq :=
  (q.elem.bind (fun e => watchTrap t e.2.2.2.space Kind.store.code e.2.2.2.addr e.2.2.2.size (wd e.2.2.2.addr))).or
    (preCheck s loc t q.acc .store q.aligned)

/-- The accesses of a store. -/
def StoreReq.accesses (q : StoreReq) : List Access := (q.elem.map (·.2.2.2)).toList ++ [q.acc]

/-- A store or atomic that misses L1 waits for its slice's check, unless it shares the outcome of an outstanding walk that has failed (R104,
R105, R146). -/
def missed (s : State) (t : Thread) (a : Access) (all : List Access) (k : Kind) : Host.Outcome State Fault Refusal :=
  let s := countMisses s s.cur t all
  match (sharedMiss s s.cur t a).bind (fun m => walkTrap a k m.2) with
  | some r => .next (s.trap t r)
  | none => .next (s.put { t with check := some s.ir })

/-- A store at its issue, or at the return of its check (R104): a miss in L1 first waits for its slice. -/
def storeNow (s : State) (t : Thread) (i : Instr) (returned : Bool) : Host.Outcome State Fault Refusal :=
  match storeReq i t with
  | .error r => .next (s.trap t r)
  | .ok none => .next (s.put (t.advance s.time 1))
  | .ok (some q) =>
    match (if returned || q.kind == .tags then none else storePreCheck s s.cur t q) with
    | some r => .next (s.trap t r)
    | none =>
      if q.release.isSome && !t.sb.isEmpty then s.stalled t
      else if !returned && missesL1 s s.cur t q.acc then missed s t q.acc q.accesses .store
      else
        let s := walkFor s s.cur t q.acc
        match accessBytes s s.cur t q.acc .store (q.kind != .tags) with
        | .ok xs as => storeEffect s (comparedTags s s.cur t q.acc (q.kind != .tags) xs as) q xs as returned
        | c => match checkTrap q.acc .store c with | some r => .next (s.trap t r) | none => s.stalled t

/-- The issue of a store. -/
def issueStore (s : State) (i : Instr) : Host.Outcome State Fault Refusal := issue s i (fun th => storeNow s th i false)

/-- `st`: a relaxed store (R274). -/
def execSt (p : BitVec 3) (s a : BitVec 6) (t u : Bool) (w : BitVec 2) (k : BitVec 9) (st : State) : Host.Outcome State Fault Refusal :=
  issueStore st (.st p s a t u w k)

/-- An ordered store; a release waits for SB(t) to be empty (R181, R275). -/
def execOrdSt (p : BitVec 3) (s a : BitVec 6) (w : BitVec 2) (t : Bool) (o : BitVec 5) (st : State) : Host.Outcome State Fault Refusal :=
  issueStore st (.ordSt p s a w t o)

/-- `stb`: a store through a descriptor; out of bounds with oob set it is dropped (R278). -/
def execStb (s a : BitVec 6) (k : BitVec 4) (t : Bool) (w : BitVec 2) (st : State) : Host.Outcome State Fault Refusal :=
  issueStore st (.stb s a k t w)

/-- `stn`: a non-temporal store (R281). -/
def execStn (s a : BitVec 6) (t : Bool) (f : BitVec 5) (st : State) : Host.Outcome State Fault Refusal :=
  issueStore st (.stn s a t f)

/-- `stx`: an element of a run (R280). -/
def execStx (p : BitVec 3) (s a b : BitVec 6) (t u : Bool) (st : State) : Host.Outcome State Fault Refusal :=
  issueStore st (.stx p s a b t u)

/-- `stg`: allocation tags of granules (R234). -/
def execStg (a b : BitVec 6) (t u : Bool) (s : State) : Host.Outcome State Fault Refusal :=
  issueStore s (.stg a b t u)

/-! ## Buffer descriptors (R276, R277) -/

/-- A descriptor from its fields (R68). -/
def descWord (base length scale : Nat) (rd wr oob : Bool) (tag : Nat) : BitVec 128 :=
  BitVec.ofNat 128 (base % 2 ^ 48 + length % 2 ^ 40 * 2 ^ 48 + scale % 8 * 2 ^ 88 + rd.toNat * 2 ^ 91 + wr.toNat * 2 ^ 92 +
    oob.toNat * 2 ^ 93 + tag % 16 * 2 ^ 94 + 2 ^ 127)

/-- A thread with a descriptor written. -/
def Thread.setD (t : Thread) (k : BitVec 4) (v : BitVec 128) : Thread := { t with d := t.d.set k.toNat v }

/-- `mkd`: builds a descriptor (R276). -/
def execMkd (k : BitVec 4) (a b : BitVec 6) (t u : Bool) (s : State) : Host.Outcome State Fault Refusal :=
  issue s (.mkd k a b t u) (fun th =>
    let x := th.gpr a
    let y := th.gpr b
    if bits x 60 4 ≠ 0 then .next (s.trap th ⟨5, 0, wd (bits x 60 4), x⟩)
    else if 2 ^ 48 < bits x 0 48 + bits y 0 40 then .next (s.trap th ⟨5, 1, 0, x⟩)
    else if 4 < bits y 40 3 then .next (s.trap th (illegal 0 (0x600 + bits y 40 3)))
    else .next (s.put ((th.setD k (descWord (bits x 0 48) (bits y 0 40) (bits y 40 3) (bit y 43) (bit y 44) (bit y 45)
      (bits x 56 4))).advance s.time 1)))

/-- `dnar`: narrows a descriptor in place (R277). -/
def execDnar (k : BitVec 4) (a b : BitVec 6) (t u : Bool) (s : State) : Host.Outcome State Fault Refusal :=
  issue s (.dnar k a b t u) (fun th =>
    let d := th.dReg k
    let o := th.gpr a
    let y := th.gpr b
    if !(descValid d) then .next (s.trap th ⟨7, 0, wd (0x100 + k.toNat), 0⟩)
    else if descLength d < o.toNat then .next (s.trap th ⟨7, 0, wd (0x100 + k.toNat), o⟩)
    else .next (s.put ((th.setD k (descWord (descBase d + o.toNat) (min (bits y 0 40) (descLength d - o.toNat)) (descScale d)
      (descRd d && bit y 43) (descWr d && bit y 44) (descOob d || bit y 45) (descTag d))).advance s.time 1)))

/-! ## Atomics (R183, R282) -/

/-- Two lanes of BF16 added one by one (R282). -/
def addLanes (f : Fmt) (n : Nat) (x y : Nat) : Nat :=
  ((List.range n).map (fun k =>
    (f.add 0 (f.decode (x / 2 ^ (f.size * k) % 2 ^ f.size)) (f.decode (y / 2 ^ (f.size * k) % 2 ^ f.size))).1 * 2 ^ (f.size * k))).sum

/-- The new value of an atomic's N-bit word; none where a `cas` writes nothing (R282). -/
def atomicNew (i : Instr) (n old y z : Nat) : Option Nat :=
  let so := toSigned n old
  let sy := toSigned n y
  match i with
  | .amoAdd .. => some ((old + y) % 2 ^ n)
  | .amoMin .. => some (if so < sy then old else y)
  | .amoMax .. => some (if so < sy then y else old)
  | .amoMinn .. => some (min old y)
  | .amoMaxn .. => some (max old y)
  | .amoAnd .. => some (Nat.land old y)
  | .amoOr .. => some (Nat.lor old y)
  | .amoXor .. => some (Nat.xor old y)
  | .amoXchg .. => some y
  | .amoFaddS .. => some (addLanes f32 1 old y)
  | .amoFaddBf .. => some (addLanes bf16 2 old y)
  | .cas .. => if old = y then some z else none
  | _ => none

/-- An atomic at its issue, or at the return of its check: it takes its entry once its check has passed and SB(t) holds
no entry for its bytes (R104, R183, R282). -/
def atomicNow (s : State) (t : Thread) (i : Instr) (returned : Bool) : Host.Outcome State Fault Refusal :=
  match atomicForm i with
  | none => s.stalled t
  | some (space, a, size, d) =>
    match formAddress space (t.gpr a) 0 size with
    | .error r => .next (s.trap t r)
    | .ok acc =>
      match (if returned then none else preCheck s s.cur t acc .atomic true) with
      | some r => .next (s.trap t r)
      | none =>
        if releases i.order.1 && !t.sb.isEmpty then s.stalled t
        else if !returned && missesL1 s s.cur t acc then missed s t acc [acc] .atomic
        else
          let s := walkFor s s.cur t acc
          match accessBytes s s.cur t acc .atomic true with
          | .ok xs as =>
            if xs.any t.sbHas then (if returned then .next s else s.stalled t)
            else
              let t := comparedTags s s.cur t acc true xs as
              let s := l1Store s (coreOf s.cur) t.asid acc.addr xs true
              takeEntry s t { entryFor s t (t.gpr a) (t.gpr d) (match i with | .cas .. => t.gpr (d + 1) | _ => 0) d 0 with
                places := [(acc.addr, xs, as)] } 1
          | c => match checkTrap acc .atomic c with | some r => .next (s.trap t r) | none => s.stalled t

/-- The issue of an atomic. -/
def issueAtomic (s : State) (i : Instr) : Host.Outcome State Fault Refusal := issue s i (fun th => atomicNow s th i false)

/-- `amo.add` at its issue; its move is ATOMIC_PERFORM (R282). -/
def execAmoAdd (p : BitVec 3) (d a : BitVec 6) (w t : Bool) (f : BitVec 5) (s : State) : Host.Outcome State Fault Refusal :=
  issueAtomic s (.amoAdd p d a w t f)

/-- `amo.min` at its issue; its move is ATOMIC_PERFORM (R282). -/
def execAmoMin (p : BitVec 3) (d a : BitVec 6) (w t : Bool) (f : BitVec 5) (s : State) : Host.Outcome State Fault Refusal :=
  issueAtomic s (.amoMin p d a w t f)

/-- `amo.max` at its issue; its move is ATOMIC_PERFORM (R282). -/
def execAmoMax (p : BitVec 3) (d a : BitVec 6) (w t : Bool) (f : BitVec 5) (s : State) : Host.Outcome State Fault Refusal :=
  issueAtomic s (.amoMax p d a w t f)

/-- `amo.minn` at its issue; its move is ATOMIC_PERFORM (R282). -/
def execAmoMinn (p : BitVec 3) (d a : BitVec 6) (w t : Bool) (f : BitVec 5) (s : State) : Host.Outcome State Fault Refusal :=
  issueAtomic s (.amoMinn p d a w t f)

/-- `amo.maxn` at its issue; its move is ATOMIC_PERFORM (R282). -/
def execAmoMaxn (p : BitVec 3) (d a : BitVec 6) (w t : Bool) (f : BitVec 5) (s : State) : Host.Outcome State Fault Refusal :=
  issueAtomic s (.amoMaxn p d a w t f)

/-- `amo.and` at its issue; its move is ATOMIC_PERFORM (R282). -/
def execAmoAnd (p : BitVec 3) (d a : BitVec 6) (w t : Bool) (f : BitVec 5) (s : State) : Host.Outcome State Fault Refusal :=
  issueAtomic s (.amoAnd p d a w t f)

/-- `amo.or` at its issue; its move is ATOMIC_PERFORM (R282). -/
def execAmoOr (p : BitVec 3) (d a : BitVec 6) (w t : Bool) (f : BitVec 5) (s : State) : Host.Outcome State Fault Refusal :=
  issueAtomic s (.amoOr p d a w t f)

/-- `amo.xor` at its issue; its move is ATOMIC_PERFORM (R282). -/
def execAmoXor (p : BitVec 3) (d a : BitVec 6) (w t : Bool) (f : BitVec 5) (s : State) : Host.Outcome State Fault Refusal :=
  issueAtomic s (.amoXor p d a w t f)

/-- `amo.xchg` at its issue; its move is ATOMIC_PERFORM (R282). -/
def execAmoXchg (p : BitVec 3) (d a : BitVec 6) (w t : Bool) (f : BitVec 5) (s : State) : Host.Outcome State Fault Refusal :=
  issueAtomic s (.amoXchg p d a w t f)

/-- `amo.fadd.s` at its issue; its move is ATOMIC_PERFORM (R282). -/
def execAmoFaddS (p : BitVec 3) (d a : BitVec 6) (t : Bool) (f : BitVec 5) (s : State) : Host.Outcome State Fault Refusal :=
  issueAtomic s (.amoFaddS p d a t f)

/-- `amo.fadd.bf` at its issue; its move is ATOMIC_PERFORM (R282). -/
def execAmoFaddBf (p : BitVec 3) (d a : BitVec 6) (t : Bool) (f : BitVec 5) (s : State) : Host.Outcome State Fault Refusal :=
  issueAtomic s (.amoFaddBf p d a t f)

/-- `cas` at its issue; its move is ATOMIC_PERFORM (R282). -/
def execCas (p : BitVec 3) (d : BitVec 5) (a : BitVec 6) (w t : Bool) (f : BitVec 5) (s : State) : Host.Outcome State Fault Refusal :=
  issueAtomic s (.cas p d a w t f)

end Sys2Proof.Machine
end

