-- ==== Sys2Proof/Machine/Supervisor.lean ====
section
/-! DEFINITION. The supervisor instructions (R105, R115, R139, R147, R148, R161, R162, R294 to R302). -/
namespace Sys2Proof.Machine

/-! ## Thread names (R294) -/

/-- What a thread name designates. -/
inductive Named where
  | live (loc : Nat) (t : Thread)
  | saved (x : SavedThread)
  | none
  deriving DecidableEq, Repr

/-- The thread a name designates for a thread of a partition. -/
def named (s : State) (part : Nat) (v : Word) : Named :=
  let loc := bits v 0 17
  if bit v 63 then
    match s.saved.find? (fun x => x.loc == loc && x.thread.part == part && x.thread.launchNum == bits v 32 16) with
    | some x => .saved x
    | none => .none
  else
    match s.thread loc with
    | some t => .live loc t
    | none => .none

/-- The name lies outside the clusters of the thread's partition. -/
def outside (s : State) (t : Thread) (v : Word) : Bool :=
  match s.partition t.part with
  | some p => !(p.hasCluster (clusterOf (bits v 0 17)))
  | none => true

/-- A supervisor instruction that names a thread, its permission check first. -/
def withNamed (s : State) (i : Instr) (a : Reg) (f : Thread → Named → Host.Outcome State Fault Refusal) : Host.Outcome State Fault Refusal :=
  issue s i (fun t =>
    let v := t.gpr a
    if outside s t v then .next (s.trap t ⟨9, 0, wd (bits v 0 17), 0⟩) else f t (named s t.part v))

/-- The issuing thread ends its instruction with a status; where it is the thread named, it takes the change as well. -/
def statusTo (s : State) (t : Thread) (d : Reg) (v : Nat) : Host.Outcome State Fault Refusal :=
  .next (s.put ((t.setG d (wd v)).advance s.time 1))

/-- A saved thread's stop mark set or cleared. -/
def State.markSaved (s : State) (x : SavedThread) (b : Bool) : State :=
  { s with saved := s.saved.map (fun y => if y == x then { x with thread := { x.thread with stop := b } } else y) }

/-! ## unpark and stop (R139, R295, R301) -/

/-- A thread carries a faulted entry. -/
def Thread.faulted (t : Thread) : Bool := t.replay.any (fun e => e.state == .faulted)

/-- An entry that is issued again: its access is made anew, and a wait counts its timeout from that cycle (R81, R139, R287). An `ldb` uses
the descriptor it captured (log entry 20). -/
def ReplayEntry.again (e : ReplayEntry) (now : Word) : ReplayEntry :=
  { e with state := .pending, flight := .waiting, mark := none, since := now, places := [], got := [], walk := none }

/-- The accesses of an entry that is issued again. -/
def reissued (e : ReplayEntry) : List Access := (entryAccesses e).map (·.1)

/-- A thread's faulted entries issued again, and its stop mark cleared (R139). -/
def unparked (s : State) (loc : Nat) (t : Thread) : Thread :=
  { t with stop := false
           replay := t.replay.map (fun e => if e.state == .faulted then joinMiss s loc t (e.again s.time) else e) }

/-- The L1 misses of the entries of a thread that are issued again (R172). -/
def countAgain (s : State) (loc : Nat) (t : Thread) (again : ReplayEntry → Bool) : State :=
  countMisses s loc t ((t.replay.filter again).flatMap reissued)

/-- The status of an `unpark` of a thread in a context. -/
def unparkStatus (t : Thread) : Nat := if t.held.isSome then 3 else if t.faulted || t.stop then 0 else 1

/-- The status of a `stop` (R301). -/
def stopStatus (t : Thread) : Nat := if t.held.isSome then 3 else if t.stop then 1 else 0

/-- The status of an `unpark` of a saved thread. -/
def savedUnparkStatus (t : Thread) : Nat := if t.held.isSome then 3 else if t.stop then 0 else 1

/-- A change of the thread in a context, the issuing one among them, and a status written by the issuing one. -/
def changeLive (s : State) (t : Thread) (d : Reg) (loc : Nat) (u : Thread) (v : Nat) (f : Thread → Thread) : Host.Outcome State Fault Refusal :=
  if loc = s.cur then .next (s.put ((if v = 0 then f t else t).setG d (wd v) |>.advance s.time 1))
  else statusTo (if v = 0 then s.setThread loc (f u) else s) t d v

/-- `unpark` (R139, R295). -/
def execUnpark (d a : BitVec 6) (t : Bool) (s : State) : Host.Outcome State Fault Refusal :=
  withNamed s (.unpark d a t) a (fun th n =>
    match n with
    | .none => statusTo s th d 2
    | .live loc u =>
      let s' := if unparkStatus u = 0 then countAgain s loc u (fun e => e.state == .faulted) else s
      changeLive s' th d loc u (unparkStatus u) (unparked s loc)
    | .saved x =>
      let v := savedUnparkStatus x.thread
      statusTo (if v = 0 then s.markSaved x false else s) th d v)

/-- `stop` (R301). -/
def execStop (d a : BitVec 6) (t : Bool) (s : State) : Host.Outcome State Fault Refusal :=
  withNamed s (.stop d a t) a (fun th n =>
    match n with
    | .none => statusTo s th d 2
    | .live loc u => changeLive s th d loc u (stopStatus u) (fun x => { x with stop := true })
    | .saved x =>
      let v := stopStatus x.thread
      statusTo (if v = 0 then s.markSaved x true else s) th d v)

/-! ## kill (R296) -/

/-- The attributes of a buffered store's page. -/
def storeAttrs (s : State) (loc : Nat) (t : Thread) (e : StoreEntry) : Attrs :=
  match xlate s (dieOf loc) t.part t.asid e.va with | .page _ a => { a with c := e.cacheable } | _ => { tableAttrs with c := e.cacheable }

/-- One buffered store of a killed thread takes its line and lands, unpublished (R111, R192). -/
def flushEntry (loc : Nat) (acc : State × Thread) (e : StoreEntry) : State × Thread :=
  let t := acc.2
  let xs := e.reached
  let s := touch acc.1 (dieOf loc) t.asid e.va xs (sameAttrs xs (storeAttrs acc.1 loc t e)) true
  match (if e.cacheable then xs.find? (fun x => bankOf x == 0 && lineRefused s (dieOf loc) (x / 64)) else none) with
  | some x => dropEntry s loc t e (x / 64)
  | none =>
    let d := drainEntry s loc { t with fence := none } { e with release := none }
    (watchWrite d.1 ((xs.filter (fun x => !((s.dirEntry (x / 64)).poison))).map (s.resolve (.thread loc))) (sliceFor loc e.cacheable) loc 0 t.part t.launchNum,
      d.2)

/-- Every buffered store of a thread lands, oldest first, none of them published (R192). -/
def flushKilled (s : State) (loc : Nat) (t : Thread) : State × Thread :=
  let es := t.nt.foldl (fun l e => insertEntry e l) t.sb
  es.foldl (fun acc e => flushEntry loc acc (((acc.2.sb ++ acc.2.nt).find? (fun x => x.id == e.id)).getD e)) (s, t)

/-- A thread's stores cannot land yet: a message is under way about one of their lines, or a watch unit has no room for their
records (R111, R136). -/
def killBlocked (s : State) (loc : Nat) (t : Thread) : Bool :=
  (t.sb ++ t.nt).any (fun e => touchBusy s (dieOf loc) e.reached (sameAttrs e.reached { tableAttrs with c := e.cacheable }) true) || overfull (flushKilled s loc t).1

/-- The locator of a started command whose thread has been killed: that of no thread. -/
def orphanOwner (loc : Nat) : Nat := 131072 + loc

/-- A thread's queued entries are removed; its started ones go on without it (R124, R296). -/
def dropCommands (s : State) (loc : Nat) : State :=
  { s with cmds := (s.cmds.filter (fun c => !(c.owner == loc && !c.started && c.queue < 8192))).map (fun c =>
      if c.owner == loc && c.queue < 8192 then { c with owner := orphanOwner loc } else c) }

/-- The thread's records stay, but name no thread that waits. -/
def orphanRecords (s : State) (loc : Nat) : State :=
  { s with appends := s.appends.map (fun a => if a.thread == some loc then { a with thread := none } else a) }

/-- The thread in a context is killed. -/
def killLive (s : State) (loc : Nat) (t : Thread) : State :=
  let f := flushKilled s loc t
  let t := f.2
  let s := leaveGang (breakGang (orphanRecords (dropCommands f.1 loc) loc) loc t) loc t false
  let s := (s.dropThread loc).freeBanks t.alcBank 1
  countDown s t.grp (coreOf loc)

/-- A saved gang has a saved thread among its members. -/
def SavedGang.holds (g : SavedGang) (x : SavedThread) : Bool :=
  g.gang.members.contains x.loc && g.gang.part == x.thread.part && g.gang.launch == x.thread.launchNum && x.thread.gang == some g.gang.num

/-- A saved gang broken by a member: what it holds of commands not started is dropped (R38, R124). -/
def breakSaved (s : State) (x : SavedThread) (g : SavedGang) : State :=
  { s with
    cmds := s.cmds.filter (fun c => !(c.queue == savedQueue + mxQueue g.gang.row g.gang.num && c.launch == g.gang.launch && c.win.part == g.gang.part && !c.started))
    sgangs := s.sgangs.map (fun (h : SavedGang) =>
      if h == g then
        { h with gang := { h.gang with broken := h.gang.broken.or (some x.loc), left := if h.gang.left.contains x.loc then h.gang.left else h.gang.left ++ [x.loc] } }
      else h) }

/-- The gang of a killed saved thread is broken, in its row or in the saved state (R38). -/
def breakGangOf (s : State) (x : SavedThread) : State :=
  match s.sgangs.find? (·.holds x) with
  | some g => breakSaved s x g
  | none =>
    match x.thread.gang.bind (s.gangOf (rowOf x.loc)) with
    | some g =>
      if g.members.contains x.loc && g.part == x.thread.part && g.launch == x.thread.launchNum then
        leaveGang (breakGang s x.loc x.thread) x.loc x.thread false
      else s
    | none => s

/-- A saved thread is killed: its image is discarded with its queued entries, and its gang is broken (R38, R124, R296). -/
def killSaved (s : State) (x : SavedThread) : State :=
  let s := { s with
    saved := s.saved.erase x
    cmds := s.cmds.filter (fun c => !(decide (savedQueue ≤ c.queue) && decide (c.queue < savedQueue + 8192) && c.owner == x.loc && c.grp == x.thread.grp)) }
  countDown ((breakGangOf s x).freeBanks x.thread.alcBank 1) x.thread.grp (coreOf x.loc)

/-- `kill`; it stalls while the stores of the thread it names cannot land (R192, R296). -/
def execKill (a : BitVec 6) (t : Bool) (s : State) : Host.Outcome State Fault Refusal :=
  withNamed s (.kill a t) a (fun th n =>
    match n with
    | .none => .next (s.put (th.advance s.time 1))
    | .live loc u =>
      if killBlocked s loc u then s.stalled th
      else if loc = s.cur then .next (killLive s loc th) else .next ((killLive s loc u).mapThread s.cur (fun x => x.advance s.time 1))
    | .saved x => .next ((killSaved s x).put (th.advance s.time 1)))

/-! ## reclaim (R115, R297) -/

/-- The checks of `reclaim` in the order of R297: the line's location and the source bytes' locations, or the trap. -/
def reclaimChecks (s : State) (loc : Nat) (t : Thread) (p q : Word) : Except TrapReq (Nat × List Nat) :=
  match formAddress 0 p 0 64 with
  | .error r => .error r
  | .ok a =>
    match checkGlobal s (dieOf loc) t.part t.asid t.super .store none a.addr 64 with
    | .absent _ => .error ⟨8, 0, 2, wd a.addr⟩
    | .poisoned => .error ⟨11, 2, 2, wd a.addr⟩
    | .trap r => .error r
    | .ok xs _ =>
      if bits p 0 6 ≠ 0 then .error ⟨4, 0, 2, p⟩
      else
        match (if bits q 0 6 ≠ 0 then Except.error ⟨7, 0, 2, q⟩ else localBytes (windowsOf s loc t) 2 q.toNat 64) with
        | .error _ => .error ⟨7, 0, 2, q⟩
        | .ok ys => .ok (xs.headD 0 / 64, ys)

/-- `reclaim`: a poisoned line takes 64 bytes of the pantry, a release at package scope (R297). -/
def execReclaim (a b : BitVec 6) (t u : Bool) (s : State) : Host.Outcome State Fault Refusal :=
  issue s (.reclaim a b t u) (fun th =>
    match reclaimChecks s s.cur th (th.gpr a) (th.gpr b) with
    | .error r => .next (s.trap th r)
    | .ok (line, ys) =>
      if !th.sb.isEmpty || readsEarly s s.cur th ys then s.stalled th
      else
        match firstPoison s (.thread s.cur) (addressed (th.gpr b).toNat ys) false with
        | some f => .next (s.trap th ⟨11, 0, 1, wd f⟩)
        | none =>
          match issueRead s s.cur th ys with
          | none => s.stalled th
          | some r =>
            let th := r.2.1
            if !(s.dirEntry line).poison then .next (r.1.put (th.advance s.time 1))
            else if watchBlocked s (lineBytes line) none 5 then s.stalled th
            else
              let s1 := r.1.put (th.advance s.time 1)
              let s2 := reclaimLine s1 line r.2.2 (fun F => some ⟨fMerge s1 th.front F, 4, .thread s.cur⟩)
              .next (watchWrite s2 (lineBytes line) none s.cur 5 th.part th.launchNum))

/-! ## cinv.t (R105, R298) -/

/-- An access-space range and the ASIDs a `cinv.t` names. -/
structure TlbRange where
  lo   : Nat
  hi   : Nat
  asid : Nat
  all  : Bool
  glob : Bool
  deriving DecidableEq, Repr

/-- The range of the two operands (R298). -/
def tlbRange (p q : Word) : TlbRange :=
  let lo := bits p 16 32 * 65536
  let n := bits q 32 16
  ⟨if n = 0 then 0 else lo, if n = 0 then 2 ^ 48 else lo + n * 65536, bits q 0 16, bit q 16, bit q 17⟩

/-- An entry or copy of an ASID, or a global one, is named. -/
def TlbRange.names (r : TlbRange) (asid : Nat) (glob : Bool) : Bool := if glob then r.glob else r.all || r.asid == asid
/-- [lo, lo + n) overlaps the range. -/
def TlbRange.overlaps (r : TlbRange) (lo n : Nat) : Bool := decide (lo < r.hi) && decide (r.lo < lo + n)

/-- The parts of the address space whose translations go: the range, and what the removed entries translate beyond it. -/
def removedParts (s : State) (p : Partition) (r : TlbRange) : List (Nat × Nat × Option Nat) :=
  (s.tlb.filter (fun e => e.part == p.num && r.names e.asid e.attrs.g && r.overlaps (e.base * 2 ^ e.bits) (2 ^ e.bits))).map
    (fun e => (e.base * 2 ^ e.bits, 2 ^ e.bits, if e.attrs.g then none else some e.asid))

/-- A line, by its address and ASID, came through a translation that goes. -/
def lineGoes (r : TlbRange) (parts : List (Nat × Nat × Option Nat)) (va asid : Nat) (glob : Bool) : Bool :=
  (r.names asid glob && r.overlaps (64 * va) 64) ||
  parts.any (fun e => decide (e.1 ≤ 64 * va) && decide (64 * va < e.1 + e.2.1) && (if glob then e.2.2.isNone else e.2.2 == some asid))

/-- The lines of the dies' L2 that came through the translations that go. -/
def linesGoing (s : State) (p : Partition) (r : TlbRange) : List (Nat × Nat) :=
  let parts := removedParts s p r
  (s.l2.filter (fun l => p.dies.contains l.die && p.hasAddr (64 * l.pa) && lineGoes r parts l.va l.asid l.attrs.g)).map (fun l => (l.die, l.pa))

/-- A thread whose failed walks of the pages of a range are shared no more: a miss on one of them walks the tables as they stand. -/
def forgetWalks (t : Thread) (r : TlbRange) : Thread :=
  { t with replay := t.replay.map (fun e =>
      if e.walk.any (fun va => (r.all || r.asid == t.asid || r.glob) && r.overlaps (va / 65536 * 65536) 65536) then { e with walk := none } else e) }

/-- Translation entries and all the lines that came through them leave every die of a partition, modified lines written back (R105,
R298). -/
def removeTranslations (s : State) (p : Partition) (r : TlbRange) : State :=
  let mine := fun (core : Nat) => p.hasCluster (core / 8)
  let parts := removedParts s p r
  let lines := linesGoing s p r
  let s := { s with
    tlb := s.tlb.filter (fun e => !(e.part == p.num && r.names e.asid e.attrs.g && r.overlaps (e.base * 2 ^ e.bits) (2 ^ e.bits)))
    l1d := s.l1d.filter (fun l => !(mine l.core && lineGoes r parts l.va l.asid l.attrs.g))
    l1i := s.l1i.filter (fun l => !(mine l.core && lineGoes r parts l.va l.asid l.attrs.g))
    threads := s.threads.map (fun e => if e.2.part == p.num then (e.1, forgetWalks e.2 r) else e) }
  lines.foldl (fun st l => evict st l.1 l.2) s

/-- A writeback of a die of a partition for a line of it has not been answered: `cinv.t` waits for the writebacks of its range, and
the message does not name the range (R105, R113). -/
def translationWait (s : State) (p : Partition) : Bool :=
  s.sliceMsgs.any (fun m => (m.kind == .writeback || m.kind == .cleaned) && p.dies.contains m.die && p.hasAddr (64 * m.line))

/-- A line is on its way to a die of a partition through a translation that goes (R105, R110). -/
def comingThrough (s : State) (p : Partition) (r : TlbRange) : Bool :=
  let parts := removedParts s p r
  s.sliceMsgs.any (fun m => (m.kind == .read || m.kind == .upgrade) && p.dies.contains m.die && p.hasAddr (64 * m.line) &&
    lineGoes r parts (m.va / 64) m.asid m.attrs.g)

/-- `cinv.t`: the translation form of R105, after SB(t) is empty (R298); with writebacks sent the thread waits for their answers (R113). -/
def execCinvT (a b : BitVec 6) (t u : Bool) (s : State) : Host.Outcome State Fault Refusal :=
  issue s (.cinvT a b t u) (fun th =>
    if !th.sb.isEmpty then s.stalled th
    else
      match s.partition th.part with
      | none => .next (s.put (th.advance s.time 1))
      | some p =>
        let r := tlbRange (th.gpr a) (th.gpr b)
        if translationWait s p || (linesGoing s p r).any (fun l => lineMsg s l.1 l.2) || comingThrough s p r then s.stalled th
        else
          let s' := removeTranslations s p r
          .next (s'.mapThread s.cur (fun x => if translationWait s' p then { x with check := some s.ir } else x.advance s.time 1)))

/-! ## lsub (R147, R148, R161, R162) -/

/-- The 8-byte word at an offset of some bytes. -/
def wordAt (bs : List Byte) (o : Nat) : Nat := ofBytes ((bs.drop o).take 8)
/-- n bits of a number from bit lo. -/
def nbits (v lo n : Nat) : Nat := v / 2 ^ lo % 2 ^ n

/-- A range of a code section is mapped and readable at supervisor level (R161). -/
def superMapped (s : State) (loc part asid va n : Nat) : Bool :=
  decide (va + n ≤ 2 ^ 48) && (match checkGlobal s (dieOf loc) part asid true .load none va n with | .ok .. => true | _ => false)

/-- The bytes of a record, header or table that the device reads at supervisor level under an ASID; none where they are not mapped and
readable, or lie in part on a poisoned line (R147; DESIGN CHOICE, log entry 49: no rule says what the device does with a poisoned one). -/
def superRead (s : State) (loc part asid va n : Nat) : Option (List Byte) :=
  if 2 ^ 48 < va + n then none
  else
    match checkGlobal s (dieOf loc) part asid true .load none va n with
    | .ok xs _ => if xs.any (fun x => s.poisoned (s.resolve (.thread loc) x)) then none else some (xs.map (fun x => memGet s.mem (s.resolve (.thread loc) x)))
    | _ => none

/-- Component j of dependence vector k: a 4-bit two's-complement number. -/
def depComp (w k j : Nat) : Int := toSigned 4 (nbits w (12 * k + 4 * j) 4)
/-- The declared vectors. -/
def depVectors (bs : List Byte) : List (Int × Int × Int) :=
  (List.range (min 4 (nbits (wordAt bs 24) 40 3))).map (fun k =>
    let w := wordAt bs 40
    (depComp w k 0, depComp w k 1, depComp w k 2))
/-- The sweep vector. -/
def sweepVector (bs : List Byte) : Int × Int × Int :=
  let w := wordAt bs 48
  (toSigned 16 (nbits w 0 16), toSigned 16 (nbits w 16 16), toSigned 16 (nbits w 32 16))

/-- A reserved bit of a launch record is set (R147). -/
def recordReserved (bs : List Byte) : Bool :=
  let w := wordAt bs
  let nd := nbits (w 24) 40 3
  nbits (w 0) 48 16 != 0 || nbits (w 8) 48 16 != 0 || nbits (w 16) 59 5 != 0 || nbits (w 24) 13 3 != 0 || nbits (w 24) 43 21 != 0 ||
  nbits (w 32) 32 32 != 0 || nbits (w 40) (12 * min 4 nd) (64 - 12 * min 4 nd) != 0 || nbits (w 48) 48 16 != 0 || nbits (w 64) 40 24 != 0 ||
  nbits (w 72) 40 24 != 0 || nbits (w 80) 40 24 != 0 || ((bs.drop 88).take 104).any (· != 0)

/-- The launch a record describes, before it has a number. -/
def recordLaunch (s : State) (part : Nat) (record : Nat) (bs : List Byte) (codeOff : Nat) (front : Frontier) : Launch :=
  let w := wordAt bs
  { part := part, num := 0, order := s.fresh, record := record, entry := nbits (w 0) 0 48 + codeOff + nbits (w 8) 0 32,
    asid := nbits (w 8) 32 16, gx := nbits (w 16) 0 16, gy := nbits (w 16) 16 16, gz := nbits (w 16) 32 16, gsize := nbits (w 16) 48 11,
    alcove := nbits (w 24) 0 13, hall := nbits (w 24) 16 22, prio := nbits (w 24) 38 2, yield := nbits (w 32) 0 32, deps := depVectors bs,
    sweep := sweepVector bs, arg := wd (w 56), ctx := nbits (w 64) 0 40, ctxsize := nbits (w 72) 0 40, board := nbits (w 80) 0 40,
    front := front, labels := [], passed := [], retired := 0, request := false, saved := false, restoring := false, savedMsgs := [], ctxDraw := 0, ctxMsgs := [] }

/-- The bytes charged for one resident group (R149). -/
def Launch.groupCharge (l : Launch) : Nat := l.hall + l.gsize * (l.alcove + 1024) + 3407872
/-- Bytes of the scoreboard (R151). -/
def Launch.boardBytes (l : Launch) : Nat := l.bitmapBytes + ceilDiv l.total 64 * 64
/-- The product of the sweep vector and a dependence vector. -/
def dot3 (a b : Int × Int × Int) : Int := a.1 * b.1 + a.2.1 * b.2.1 + a.2.2 * b.2.2

/-- The code object of a launch: its header, and the features its table binds; none where it is not readable or not well
formed (R161). Of a binding entry only the feature number is read: the other bits of its first word, and an offset that is no multiple of 4
or outside the code section, are no fault of the object (DESIGN CHOICE, log entry 64). -/
def codeObject (s : State) (loc part asid code : Nat) : Option (List Byte × List Nat) :=
  match superRead s loc part asid code 256 with
  | none => none
  | some h =>
    let w := wordAt h
    let off := nbits (w 8) 0 32
    let size := nbits (w 8) 32 32
    let boff := nbits (w 16) 0 32
    let n := nbits (w 16) 32 10
    let zero := nbits (w 0) 48 16 == 0 && nbits (w 16) 42 22 == 0 && nbits (w 24) 48 16 == 0 && ((h.drop 32).take 32).all (· == 0) && (h.drop 128).all (· == 0)
    let shape := nbits (w 0) 0 32 == 0x1A4F4342 && nbits (w 0) 32 16 == 256 && off % 256 == 0 && size % 4 == 0 && decide (4 ≤ size) &&
      decide (256 ≤ off) && boff % 16 == 0 && decide (n ≤ 512) && (n == 0 || decide (256 ≤ boff))
    if !zero || !shape || !(superMapped s loc part asid (code + off) size) then none
    else
      match superRead s loc part asid (code + boff) (16 * n) with
      | none => none
      | some t =>
        let fs := (List.range n).map (fun k => nbits (wordAt t (16 * k)) 0 9)
        if fs.eraseDups.length = fs.length then some (h, fs) else none

/-- Every required feature is the device's or bound (R162). -/
def featuresOk (bs h : List Byte) (bound : List Nat) : Bool :=
  (List.range 512).all (fun n =>
    let need := (bs.getD (192 + n / 8) 0).toNat.testBit (n % 8) || (h.getD (64 + n / 8) 0).toNat.testBit (n % 8)
    !need || Config.deviceMask.testBit n || (bound.contains n && n != 0 && n != 13))

/-- The checks of R148 in order: the first code that fails, or the launch. A record's address whose bits [63:60] are not zero is rejected with
code 1, and its tag is compared with no granule's (DESIGN CHOICE, log entry 64). -/
def checkLaunch (s : State) (loc : Nat) (t : Thread) (p : Partition) (va : Word) : Except Nat Launch :=
  match (if bits va 60 4 ≠ 0 || bits va 0 6 ≠ 0 then none else superRead s loc t.part t.asid (bits va 0 48) 256) with
  | none => .error 1
  | some bs =>
    let l0 := recordLaunch s t.part (bits va 0 48) bs 0 t.front
    let code := nbits (wordAt bs 0) 0 48
    let entry := nbits (wordAt bs 8) 0 32
    let ndep := nbits (wordAt bs 24) 40 3
    let big := fun (v : Int × Int × Int) => v.1 == -8 || v.2.1 == -8 || v.2.2 == -8
    if recordReserved bs then .error 2
    else if l0.gx = 0 ∨ l0.gy = 0 ∨ l0.gz = 0 ∨ 2 ^ 24 < l0.total then .error 3
    else if l0.gsize = 0 ∨ 1024 < l0.gsize then .error 4
    else if l0.alcove < 256 ∨ 4096 < l0.alcove ∨ l0.alcove % 256 ≠ 0 ∨ 2097152 < l0.hall ∨ l0.hall % 2048 ≠ 0 then .error 5
    else if 262144 < l0.hall / 8 + ceilDiv l0.gsize 8 * l0.alcove then .error 6
    else if 4 < ndep ∨ l0.deps.any big then .error 7
    else if l0.deps.any (fun v => decide (0 ≤ dot3 l0.sweep v)) then .error 8
    else
      match (if code % 256 ≠ 0 then none else codeObject s loc t.part l0.asid code) with
      | none => .error 9
      | some (h, bound) =>
        let off := nbits (wordAt h 8) 0 32
        if nbits (wordAt h 8) 32 32 ≤ entry ∨ entry % 4 ≠ 0 then .error 10
        else if !(featuresOk bs h bound) then .error 11
        else if l0.ctx % 4096 ≠ 0 ∨ l0.ctxsize % 4096 ≠ 0 ∨ !(p.hasBytes l0.ctx l0.ctxsize) ∨ l0.ctxsize < 65536 + l0.groupCharge then .error 12
        else if l0.board % 64 ≠ 0 ∨ !(p.hasBytes l0.board l0.boardBytes) then .error 13
        else if ndep ≠ 0 ∧ !(Config.deviceMask.testBit 13) then .error 14
        else if 65535 ≤ (s.launches.filter (fun l => l.part == t.part)).length then .error 15
        else .ok { l0 with entry := l0.entry + off }

/-- The next launch number that no live launch holds (R148). -/
def nextNumber (s : State) (p : Partition) : Nat :=
  ((List.range 65535).map (fun i => (p.lastNum + 1 + i) % 65535)).find? (fun n => (s.launchOf p.num n).isNone) |>.getD 0

/-- The scoreboard at submission (R151). -/
def initBoard (s : State) (l : Launch) : State :=
  let counts := (List.range l.total).map (fun i =>
    let n := (l.preds i).length
    BitVec.ofNat 8 (if n = 0 then 8 else n))
  devWrite s l.board (List.replicate l.bitmapBytes 0 ++ counts ++ List.replicate (ceilDiv l.total 64 * 64 - l.total) 0) none

/-- An accepted launch is live under a number, its scoreboard written. -/
def acceptLaunch (s : State) (p : Partition) (l : Launch) : State × Nat :=
  let n := nextNumber s p
  let s := initBoard ({ s with fresh := s.fresh + 1 }.setPartition { p with lastNum := n }) { l with num := n }
  ({ s with launches := s.launches ++ [{ l with num := n }] }, n)

/-- `lsub`: the launch record is checked, and the launch accepted under a number or rejected with a record (R148, R299). -/
def execLsub (d a : BitVec 6) (t : Bool) (s : State) : Host.Outcome State Fault Refusal :=
  issue s (.lsub d a t) (fun th =>
    if !th.sb.isEmpty then s.stalled th
    else
      match s.partition th.part with
      | none => s.stalled th
      | some p =>
        match checkLaunch s s.cur th p (th.gpr a) with
        | .error code =>
          let s' := trapRecord s th.part 5 0 0 0 0xFFFF (wd (bits (th.gpr a) 0 48)) (wd code) none
          .next (s'.put ((th.setG d (wd (2 ^ 63 + code))).advance s.time 1))
        | .ok l =>
          let r := acceptLaunch s p l
          .next (r.1.put ((th.setG d (wd r.2)).advance s.time 1)))

/-! ## Pre-emption and restore (R39, R42, R168, R300, R302) -/

/-- A request is accepted: deadlines are set, lingering threads go on, and a launch with nothing resident is saved (R28, R39, R168). -/
def requestSave (s : State) (l : Launch) : State :=
  let s := s.setLaunch { l with request := true }
  let s := { s with
    groups := s.groups.map (fun g => if g.part == l.part && g.launch == l.num && !g.saved then { g with deadline := some (s.time + wd l.yield) } else g)
    threads := s.threads.map (fun e => if e.2.part == l.part && e.2.launchNum == l.num then (e.1, { e.2 with linger := none }) else e) }
  checkSaved s l.part l.num

/-- `lprq`: requests pre-emption of a launch (R300). -/
def execLprq (d a : BitVec 6) (t : Bool) (s : State) : Host.Outcome State Fault Refusal :=
  issue s (.lprq d a t) (fun th =>
    match s.launchOf th.part (bits (th.gpr a) 0 16) with
    | none => statusTo s th d 2
    | some l =>
      if l.request || l.saved || l.restoring then statusTo s th d 1
      else .next ((requestSave s l).mapThread s.cur (fun x => (x.setG d 0).advance s.time 1)))

/-- `lres`: requests restore of a saved launch (R302). -/
def execLres (d a : BitVec 6) (t : Bool) (s : State) : Host.Outcome State Fault Refusal :=
  issue s (.lres d a t) (fun th =>
    match s.launchOf th.part (bits (th.gpr a) 0 16) with
    | none => statusTo s th d 2
    | some l =>
      if !l.saved then statusTo s th d 1
      else
        let any := s.groups.any (fun g => g.part == l.part && g.launch == l.num && g.saved)
        statusTo (s.setLaunch { l with request := false, saved := false, restoring := any }) th d 0)

end Sys2Proof.Machine
end

