-- ==== Sys2Proof/Machine/Control.lean ====
section
/-! DEFINITION. Control: branches, prepared targets, calls, the repeat prefix, traps and the return from a trap, and the
pausing and ending of threads (R219 to R221, R237 to R245, R249, R250). -/
namespace Sys2Proof.Machine

/-! ## Targets (R198, R237) -/

/-- The target of a word offset, none where it leaves the space. -/
def target (pc : BitVec 48) (off : Int) : Option (BitVec 48) :=
  let v := (pc.toNat : Int) + off * 4
  if v < 0 ∨ (2 ^ 48 : Nat) ≤ v then none else some (BitVec.ofNat 48 v.toNat)

/-- The canonical trap of a target out of range. -/
def targetTrap : TrapReq := ⟨5, 0, 0x10, 0⟩

/-- A branch-target register is valid (R67). -/
def bValid (b : Word) : Bool := bit b 63
/-- Its target. -/
def bTarget (b : Word) : BitVec 48 := BitVec.ofNat 48 (bits b 2 46 * 4)
/-- A prepared register: valid with a target (R67, R238). -/
def prepared (v : Nat) : Word := wd (2 ^ 63 + v / 4 % 2 ^ 46 * 4)
/-- A thread with a branch-target register written. -/
def Thread.setB (t : Thread) (k : BitVec 3) (v : Word) : Thread := { t with b := t.b.set k.toNat v }
/-- The trap of a branch through an invalid register. -/
def bInvalid (k : BitVec 3) : TrapReq := illegal 0 (0x200 + k.toNat)

/-- `bp`: branches when pred XOR neg is 1 (R237). -/
def execBp (p : BitVec 3) (n : Bool) (o : BitVec 21) (s : State) : Host.Outcome State Fault Refusal :=
  issue s (.bp p n o) (fun th =>
    if th.pred p != n then
      match target th.pc o.toInt with
      | none => .next (s.trap th targetTrap)
      | some v => .next (s.put (th.jump v s.time 3))
    else .next (s.put (th.advance s.time 1)))

/-- `nop` (R245). -/
def execNop (s : State) : Host.Outcome State Fault Refusal :=
  issueLocal s .nop 1 id

/-- `jb` (R239). -/
def execJb (k : BitVec 3) (s : State) : Host.Outcome State Fault Refusal :=
  issue s (.jb k) (fun th =>
    if bValid (th.bReg k) then .next (s.put (th.jump (bTarget (th.bReg k)) s.time 1)) else .next (s.trap th (bInvalid k)))

/-- `jbp`: checks the register, then branches when pj XOR the negation is 1 (R239). -/
def execJbp (n : Bool) (j k : BitVec 3) (s : State) : Host.Outcome State Fault Refusal :=
  issue s (.jbp n j k) (fun th =>
    if !(bValid (th.bReg k)) then .next (s.trap th (bInvalid k))
    else if th.pred j != n then .next (s.put (th.jump (bTarget (th.bReg k)) s.time 1))
    else .next (s.put (th.advance s.time 1)))

/-- `pbr`: prepares a target relative to itself (R238). -/
def execPbr (k : BitVec 3) (i : BitVec 19) (s : State) : Host.Outcome State Fault Refusal :=
  issue s (.pbr k i) (fun th =>
    match target th.pc i.toInt with
    | none => .next (s.trap th targetTrap)
    | some v => .next (s.put ((th.setB k (prepared v.toNat)).advance s.time 1)))

/-- `pbt`: prepares the target in Gpr(a) (R238). -/
def execPbt (k : BitVec 3) (a : BitVec 6) (t : Bool) (s : State) : Host.Outcome State Fault Refusal :=
  issue s (.pbt k a t) (fun th =>
    let v := th.gpr a
    if bits v 0 2 ≠ 0 then .next (s.trap th ⟨4, 0, 4, v⟩)
    else if bits v 48 16 ≠ 0 then .next (s.trap th ⟨5, 0, wd (bits v 48 16), 0⟩)
    else .next (s.put ((th.setB k (prepared v.toNat)).advance s.time 1)))

/-! ## The call stack (R74, R240, R241) -/

/-- s.alcove fields. -/
def Thread.csp (t : Thread) : Nat := bits t.alcove 0 16
def Thread.stackFloor (t : Thread) : Nat := bits t.alcove 32 16
def Thread.alcSize (t : Thread) : Nat := bits t.alcove 16 16
/-- The bytes of a stack slot. -/
def Thread.slotBytes (t : Thread) (off : Nat) : List Nat := span (dynBase t.alcBank + off) 8

/-- A call: the return address is stored below csp and fetch goes to the target (R240). -/
def callTo (s : State) (th : Thread) (bad : Option TrapReq) (dest : Option (BitVec 48)) (lat : Nat) : Host.Outcome State Fault Refusal :=
  if th.csp < th.stackFloor + 8 then .next (s.trap th ⟨10, 0, 1, wd th.csp⟩)
  else
    match bad with
    | some r => .next (s.trap th r)
    | none =>
      match dest with
      | none => .next (s.trap th targetTrap)
      | some v =>
        let cells := cellsOf (th.slotBytes (th.csp - 8)) (toBytes 8 (th.pc.toNat + 4))
        let p := pushStore s th cells false 0 none false false
        .next (p.1.put ({ p.2 with alcove := setBits th.alcove 0 16 (th.csp - 8) }.jump v s.time lat))

/-- `call` (R240). -/
def execCall (o : BitVec 21) (s : State) : Host.Outcome State Fault Refusal :=
  issue s (.call o) (fun th => callTo s th none (target th.pc o.toInt) 3)

/-- `callb` (R240). -/
def execCallb (k : BitVec 3) (s : State) : Host.Outcome State Fault Refusal :=
  issue s (.callb k) (fun th =>
    callTo s th (if bValid (th.bReg k) then none else some (bInvalid k)) (some (bTarget (th.bReg k))) 1)

/-- `ret`: returns through the stack slot at csp, which it reads as a load does (R180, R241, R382). -/
def execRet (s : State) : Host.Outcome State Fault Refusal :=
  issue s .ret (fun th =>
    if th.csp = th.alcSize then .next (s.trap th ⟨10, 0, 2, wd th.csp⟩)
    else
      let xs := th.slotBytes th.csp
      if readsEarly s s.cur th xs then s.stalled th else
      match firstPoison s (.thread s.cur) (th.unforwarded (addressed th.csp xs)) false with
      | some f => .next (s.trap th ⟨11, 0, 1, wd f⟩)
      | none =>
        match issueRead s s.cur th xs with
        | none => s.stalled th
        | some r =>
          let ra := wd (ofBytes r.2.2)
          if bits ra 48 16 ≠ 0 then .next (r.1.trap th ⟨5, 0, wd (bits ra 48 16), 0⟩)
          else if bits ra 0 2 ≠ 0 then .next (r.1.trap th ⟨4, 0, 4, ra⟩)
          else .next (r.1.put ({ r.2.1 with alcove := setBits th.alcove 0 16 (th.csp + 8) }.jump (BitVec.ofNat 48 ra.toNat) s.time 3)))

/-! ## Pausing, ending, trapping -/

/-- A pre-emption request is pending for the thread's launch (R300). -/
def requestPending (s : State) (t : Thread) : Bool :=
  t.grp.isSome && (match s.launchOf t.part t.launchNum with | some l => l.request | none => false)

/-- `quit` begins: a gang the member has not left is broken as it issues; the drains and the end are QUIT_COMPLETE (R38, R242). -/
def execQuit (s : State) : Host.Outcome State Fault Refusal :=
  issue s .quit (fun th =>
    let s := s.put { th with quitting := true }
    .next (leaveGang (breakGang s s.cur th) s.cur th false))

/-- `yield`: one cycle with no request pending; under one, the thread waits to be saved (R40, R243). -/
def execYield (s : State) : Host.Outcome State Fault Refusal :=
  issue s .yield (fun th =>
    if requestPending s th then .next (s.put { th with yielding := true }) else .next (s.put (th.advance s.time 1)))

/-- `rejoin n`: lingers at the next instruction for at most n cycles (R28, R244). -/
def execRejoin (n : BitVec 8) (s : State) : Host.Outcome State Fault Refusal :=
  issue s (.rejoin n) (fun th =>
    let th := th.advance s.time 1
    .next (s.put (if n = 0 then th else { th with linger := some (s.time + wd n.toNat) })))

/-- `trap code`: the break trap, subcause 0 (R249). -/
def execTrap (c : BitVec 12) (s : State) : Host.Outcome State Fault Refusal :=
  issue s (.trap c) (fun th => .next (s.trap th ⟨13, 0, wd c.toNat, 0⟩))

/-- `ecall code`: the break trap, subcause 1 (R249). -/
def execEcall (c : BitVec 12) (s : State) : Host.Outcome State Fault Refusal :=
  issue s (.ecall c) (fun th => .next (s.trap th ⟨13, 1, wd c.toNat, 0⟩))

/-- `rpt`: checks its body, then issues the repetition that reps names, or ends when none is left (R219 to R221). The repetition is the very next instruction executed. -/
def execRpt (c : BitVec 6) (d a b : BitVec 2) (s : State) : Host.Outcome State Fault Refusal :=
  issue s (.rpt c d a b) (fun th =>
    let n := c.toNat + 1
    match fetchCode s s.cur th (th.pc + 4).toNat with
    | (s, .error r) => .next (s.trap th r)
    | (s, .ok w) =>
      if !(bodyOk w n d a b) then .next (s.trap th (illegal 2 s.ir.toNat))
      else if n ≤ th.reps then .next (s.put (({ th with rep := some n } : Thread).advance s.time 1))
      else .next { s.put { th with rep := some n } with issue := s.cur :: s.issue })

/-! ## Return from a trap (R84, R250, R382) -/

/-- One entry of a frame, from its 48 bytes. -/
structure FrameEntry where
  word  : Code
  dst   : Nat
  state : Nat
  high  : Nat
  addr  : Word
  src1  : Word
  src2  : Word
  value : Word
  tail  : Nat
  deriving DecidableEq, Repr

/-- The 8-byte word at an offset of a frame. -/
def frameWord (f : List Byte) (off : Nat) : Word := wd (ofBytes ((f.drop off).take 8))

/-- Entry k of a frame (R83). -/
def frameEntry (f : List Byte) (k : Nat) : FrameEntry :=
  let b := 128 + 48 * k
  let w := frameWord f b
  ⟨BitVec.ofNat 32 w.toNat, bits w 32 6, bits w 38 2, bits w 40 24, frameWord f (b + 8), frameWord f (b + 16),
    frameWord f (b + 24), frameWord f (b + 32), (frameWord f (b + 40)).toNat⟩

/-- An entry is bad (R84 check 3). -/
def FrameEntry.bad (e : FrameEntry) (super : Bool) : Bool :=
  e.high != 0 || e.tail != 0 ||
  (match decode e.word with
   | .error _ => true
   | .ok i => !i.isProducer || i.missing.isSome || (i.supervisorOnly && !super) ||
      (match i.dst with | some d => d.toNat != e.dst | none => true))

/-- The replay entry that issues a frame entry again with its captured sources (R84, R191, R215); an `ldb` uses its descriptor register as
it is now, since a frame holds none (log entry 20). -/
def FrameEntry.replay (e : FrameEntry) (id : Nat) (now : Word) (t : Thread) : ReplayEntry where
  id := id
  word := e.word
  addr := e.addr
  src1 := e.src1
  src2 := e.src2
  src3 := e.value
  dst := BitVec.ofNat 6 e.dst
  state := .pending
  value := 0
  flight := .waiting
  mark := none
  fault := 0
  since := now
  pred := false
  desc := (match decode e.word with | .ok (.ldb _ _ k _ _) => t.dReg k | _ => 0)
  places := []
  got := []
  walk := none

/-- The checks an entry issued by `tret` again makes as its instruction does at its issue: form, alignment, watchpoints and local window
of a load, wait or atomic (R273). -/
def reissueTrap (s : State) (loc : Nat) (t : Thread) (e : ReplayEntry) : Option TrapReq :=
  match e.instr with
  | some i =>
    match atomicForm i with
    | some (space, _, size, _) =>
      (match formAddress space e.src1 0 size with | Except.error r => some r | .ok a => preCheck s loc t a .atomic true)
    | none =>
      (match loadReq i e.src1 e.src2 e.desc with
       | .error r => some r
       | .ok none => none
       | .ok (some q) =>
         if q.tagRead then none else ((q.scale.bind (preCheck s loc t · .load false)).or (preCheck s loc t q.acc .load q.aligned)))
  | none => none

/-- A frame entry is reinstated: a done one writes its destination, any other is issued again (R84), which counts its L1 misses and
shares the outcome of a walk outstanding (R105, R172); a `spawn` reads g1 to g4 and is sent, or waits for them (R246). One that fails a
check of its instruction's issue marks its destination with the trap, as a load does whose check fails after it has issued (R104;
DESIGN CHOICE, log entry 64). -/
def reinstate (loc : Nat) (acc : State × Thread) (f : FrameEntry) : State × Thread :=
  let s := acc.1
  let t := acc.2
  if f.state = 1 then (s, t.setG (BitVec.ofNat 6 f.dst) f.value)
  else
    let e := f.replay s.fresh s.time t
    let s := { s with fresh := s.fresh + 1 }
    let bad := reissueTrap s loc t e
    let gate := argsGate t
    let e := if bad.isSome then { e with mark := bad } else joinMiss s loc t e
    let s := countMisses s loc t (if e.mark.isSome then [] else reissued e)
    let t := { t.setOwed e.dst with replay := t.replay ++ [e] }
    if e.unsent then sendEntry loc (fun _ _ => gate) (s, t) e else (s, t)

/-- The checks of R84 on a frame's saved status and entry count. -/
def frameHeadFault (f : List Byte) : Option Nat :=
  if 2 ≤ bits (frameWord f 8) 0 2 then some 0x380
  else if 8 < bits (frameWord f 72) 0 4 then some 0x308
  else none

/-- The first check of R84 that a frame fails, as the `s.info` of the illegal-instruction trap. -/
def frameFault (f : List Byte) : Option Nat :=
  (frameHeadFault f).or
    (((List.range (bits (frameWord f 72) 0 4)).find? (fun k => (frameEntry f k).bad (bits (frameWord f 8) 0 2 == 1))).map (0x300 + ·))

/-- The entries of a frame that `tret` is to issue again include a `spawn`, which issues only with SB(t) empty (R187). -/
def frameSpawns (f : List Byte) : Bool :=
  (List.range (bits (frameWord f 72) 0 4)).any (fun k =>
    let e := frameEntry f k
    e.state != 1 && (match decode e.word with | .ok i => i.isSpawn | .error _ => false))

/-- The thread resumed from a frame that passed its checks (R84, R250). Its entries are issued again at the frame's privilege level, which
a `spawn` sent again carries: R84 judges an entry by that level (DEDUCED, log entry 64). -/
def resume (s : State) (loc : Nat) (t : Thread) (f : List Byte) : State :=
  let n := bits (frameWord f 72) 0 4
  let r := (List.range n).foldl (fun acc k => reinstate loc acc (frameEntry f k)) (s, { t with status := wd (bits (frameWord f 8) 0 3) })
  r.1.setThread loc { r.2 with
    status := wd (bits (frameWord f 8) 0 4)
    pix := wd (bits (frameWord f 56) 0 32)
    pc := BitVec.ofNat 48 (bits (frameWord f 0) 2 46 * 4)
    issueAt := s.time + 12
    rep := none }

/-- The offsets of a frame's pc, status, s.pix and entry count. -/
def frameHead : List Nat := span 0 16 ++ span 56 8 ++ span 72 8

/-- A read of some offsets of a frame from its locations, whose lines the die takes: the bytes with zero at every other offset, or the
poison trap of the first line that is poisoned or refused to the die (R84, R111, R382); none where it has to wait. -/
def readFrame (s : State) (loc : Nat) (t : Thread) (addr : Nat) (xs : List Nat) (as : List Attrs) (offs : List Nat) (f : List Byte) :
    Except TrapReq (Option (State × Thread × List Byte)) :=
  let lo := offs.headD 0
  let n := offs.getLastD lo + 1 - lo
  let ys := (xs.drop lo).take n
  let bs := (as.drop lo).take n
  let cells := offs.map (fun o => (addr + o, xs.getD o 0))
  if touchBusy s (dieOf loc) ys bs false then .ok none
  else
    let s := touch s (dieOf loc) t.asid (addr + lo) ys bs false
    match (firstPoison s (.thread loc) (t.unforwarded cells) true).or
        (((t.unforwarded cells).find? (fun e => (attrAt as (e.1 - addr)).c && bankOf e.2 == 0 && lineRefused s (dieOf loc) (e.2 / 64))).map
          (fun e => e.1 / 64 * 64)) with
    | some a => .error ⟨11, 0, 1, wd a⟩
    | none =>
      .ok ((issueRead s loc t (cells.map (·.2))).map (fun r =>
        (r.1, r.2.1, (offs.zip r.2.2).foldl (fun (g : List Byte) e => g.set e.1 e.2) f)))

/-- The reads of a frame at some offsets, by 8-byte word, that miss L1 (R84, R172): up to the first of a line that ends them. -/
def frameMisses (s : State) (loc : Nat) (t : Thread) (addr : Nat) (offs : List Nat) (ends : Option Nat) : Nat :=
  let us := offs.filter (fun o => o % 8 == 0)
  let made := match ends with | some a => us.take ((us.takeWhile (fun o => (addr + o) / 64 * 64 != a)).length + 1) | none => us
  (made.filter (fun o => !(l1Hits s (coreOf loc) t.asid (addr + o) 8))).length

/-- A state in which a thread's core has counted the L1 misses of its frame's reads (R172). -/
def countReads (s : State) (loc : Nat) (t : Thread) (addr : Nat) (offs : List Nat) (ends : Option Nat) (s' : State) : State :=
  s'.count (coreOf loc) 9 (frameMisses s loc t addr offs ends)

/-- `tret` with a readable frame: it reads the pc, the status, `s.pix` and the entry count, checks them, reads the entries the
count names, checks them, and resumes (R84, R250). -/
def returnFrom (s : State) (th : Thread) (addr : Nat) (xs : List Nat) (as : List Attrs) : Host.Outcome State Fault Refusal :=
  match readFrame s s.cur th addr xs as frameHead (List.replicate 512 0) with
  | .error r => .next ((countReads s s.cur th addr frameHead (some r.faddr.toNat) s).trap th r)
  | .ok none => s.stalled th
  | .ok (some h) =>
    match frameHeadFault h.2.2 with
    | some info => .next ((countReads s s.cur th addr frameHead none h.1).trap h.2.1 (illegal 0 info))
    | none =>
      let offs := span 128 (48 * bits (frameWord h.2.2 72) 0 4)
      match readFrame h.1 s.cur h.2.1 addr xs as offs h.2.2 with
      | .error r => .next ((countReads s s.cur th addr (frameHead ++ offs) (some r.faddr.toNat) h.1).trap h.2.1 r)
      | .ok none => s.stalled th
      | .ok (some r) =>
        let met := countReads s s.cur th addr (frameHead ++ offs) none r.1
        match frameFault r.2.2 with
        | some info => .next (met.trap r.2.1 (illegal 0 info))
        | none => if frameSpawns r.2.2 && !th.sb.isEmpty then s.stalled th else .next (resume met s.cur r.2.1 r.2.2)

/-- `tret`: waits for an empty replay queue, reads and checks the frame at s.tfp, and resumes (R84, R250, R382). -/
def execTret (s : State) : Host.Outcome State Fault Refusal :=
  issue s .tret (fun th =>
    if !th.replay.isEmpty then s.stalled th
    else
      match formAddress 0 (setBits th.tfp 56 4 0) 0 512 with
      | .error r => .next (s.trap th r)
      | .ok acc =>
        if walkWaits s (dieOf s.cur) th.part th.asid acc.addr 512 then s.stalled th
        else
        let s := fillTlbs s (dieOf s.cur) th.part th.asid acc.addr 512
        match checkGlobal s (dieOf s.cur) th.part th.asid true .load (some 0) acc.addr 512 (th.view s s.cur) with
        | .ok xs as => returnFrom s (th.sawTags s s.cur xs as) acc.addr xs as
        | c =>
          match checkTrap acc .load c with
          | some r => .next ((countReads s s.cur th acc.addr [0] none s).trap th r)
          | none => s.stalled th)

end Sys2Proof.Machine
end

