-- ==== Sys2Proof/Machine/Sync.lean ====
section
/-! DEFINITION. Fences, cache maintenance, arrivals, barriers and gangs (R36, R281, R283 to R286, R288 to R291). -/
namespace Sys2Proof.Machine

/-! ## Fences -/

/-- `fence`: the release part waits for SB(t) to be empty, then the sequential move, then the acquire part (R181, R182, R283). -/
def execFence (o : BitVec 5) (s : State) : Host.Outcome State Fault Refusal :=
  issue s (.fence o) (fun th =>
    let order := ordOf o
    let scope := scopeOf o
    let a := Agent.thread s.cur
    if releases order && !th.sb.isEmpty then s.stalled th
    else
      let th := if releases order then { th with fence := some ⟨th.front, scope, a⟩ } else th
      let F := if order = 4 then fMerge s th.front ((alGet s.fsc (fscKey a scope)).getD []) else th.front
      let s := if order = 4 then { s with fsc := alSet s.fsc (fscKey a scope) F } else s
      let th := { th with front := F }
      let th := if acquires order then acquireFence s s.cur th scope else th
      let s := if acquires order then bumpGen s (coreOf s.cur) scope else s
      .next (s.put (th.advance s.time 1)))

/-- The queue a queue code names for a thread: its core's, or its gang's (R119). -/
def queueOf (loc : Nat) (t : Thread) (code : Nat) : Option Nat :=
  if code = 4 then t.gang.map (mxQueue (rowOf loc)) else if code < 4 then some (8 * coreOf loc + code) else none

/-- A thread has an entry not yet performed in the queue of a code; a gang's entries count as each member's (R284). -/
def hasEntry (s : State) (loc : Nat) (t : Thread) (code : Nat) : Bool :=
  match queueOf loc t code with
  | none => false
  | some q => s.cmds.any (fun c => c.queue == q && (code == 4 || c.owner == loc))

/-- `qfence`: waits for the thread's entries in the named queues, then merges their commands' frontiers (R185, R284). -/
def execQfence (m : BitVec 5) (s : State) : Host.Outcome State Fault Refusal :=
  issue s (.qfence m) (fun th =>
    let codes := (List.range 5).filter (fun q => bit m q)
    if codes.any (hasEntry s s.cur th) then s.stalled th
    else
      let F := (th.joined.filter (fun j => codes.contains j.1)).foldl (fun F j => fMerge s F j.2) th.front
      .next (s.put (({ th with front := F } : Thread).advance s.time 1)))

/-! ## Cache and fetch maintenance (R285, R286) -/

/-- The cacheable present pages of a range, as physical ranges; every other page is skipped, and so is what lies at or above 2^48 (DESIGN
CHOICE, log entry 64: the range checks of R285 do not name it). -/
def cachedRanges (s : State) (loc : Nat) (t : Thread) (va n : Nat) : List (Nat × Nat) :=
  (pieces va n).filterMap (fun p =>
    if 2 ^ 48 ≤ p.1 then none
    else
      match xlate s (dieOf loc) t.part t.asid p.1 with
      | .page pa at' =>
        if at'.c && (match s.partition t.part with | some q => q.hasBytes pa p.2 | none => false) then some (pa, p.2) else none
      | _ => none)

/-- A line lies at least in part in some physical ranges. -/
def lineIn (rs : List (Nat × Nat)) (line : Nat) : Bool :=
  rs.any (fun r => decide (r.1 / 64 ≤ line) && decide (line ≤ (r.1 + r.2 - 1) / 64))

/-- SB(t) or NT(t) holds an entry for a byte, or a tag, of some physical ranges: those of the cacheable pages, since every other page of the
range is skipped (DESIGN CHOICE, log entry 64: R285 does not say whether the wait covers skipped pages). -/
def buffered (t : Thread) (rs : List (Nat × Nat)) : Bool :=
  (t.sb ++ t.nt).any (fun e => e.cells.any (fun c =>
    let x := if bankOf c.1 = 9 then 64 * offOf c.1 else c.1
    (bankOf c.1 == 0 || bankOf c.1 == 9) && rs.any (fun r => decide (r.1 ≤ x) && decide (x < r.1 + r.2))))

/-- A writeback of a die for a line of some ranges has not been answered: what waits for the range's writebacks waits for it (R113,
R285). -/
def underWay (s : State) (die : Nat) (rs : List (Nat × Nat)) : Bool :=
  s.sliceMsgs.any (fun m => (m.kind == .writeback || m.kind == .cleaned) && m.die == die && lineIn rs m.line)

/-- The lines a die holds in some ranges. -/
def heldIn (s : State) (die : Nat) (rs : List (Nat × Nat)) : List Nat :=
  (s.l2.filter (fun l => l.die == die && lineIn rs l.pa)).map (·.pa)

/-- A message is under way about a line that a die holds in some ranges. -/
def heldBusy (s : State) (die : Nat) (rs : List (Nat × Nat)) : Bool := (heldIn s die rs).any (lineMsg s die)

/-- The range checks of `cwb`, `cinv` and `icinv`, then their effect on the cacheable lines of the range; with writebacks sent the thread waits
for their answers (R113, R285). -/
def maintain (s : State) (i : Instr) (a b : Reg) (waits : Bool) (f : State → List (Nat × Nat) → State) : Host.Outcome State Fault Refusal :=
  issue s i (fun th =>
    let x := th.gpr a
    let n := th.gpr b
    if bits x 60 4 ≠ 0 then .next (s.trap th ⟨5, 0, wd (bits x 60 4), x⟩)
    else if 2 ^ 30 < n.toNat then .next (s.trap th ⟨7, 0, 0, n⟩)
    else
      let rs := cachedRanges s s.cur th (bits x 0 48) n.toNat
      if waits && (buffered th rs || underWay s (dieOf s.cur) rs || heldBusy s (dieOf s.cur) rs) then s.stalled th
      else
        let s' := f s rs
        .next (s'.mapThread s.cur (fun x => if waits && underWay s' (dieOf s.cur) rs then { x with check := some s.ir } else x.advance s.time 1)))

/-- `cwb`: modified lines of the range are written back, a shared copy stays (R285). -/
def execCwb (a b : BitVec 6) (t u : Bool) (s : State) : Host.Outcome State Fault Refusal :=
  maintain s (.cwb a b t u) a b true (fun s rs => (heldIn s (dieOf s.cur) rs).foldl (fun st l => writeBack st (dieOf s.cur) l) s)

/-- `cinv`: the range's lines leave the core's L1 data cache, and the die's L2 after being written back (R285). -/
def execCinv (a b : BitVec 6) (t u : Bool) (s : State) : Host.Outcome State Fault Refusal :=
  maintain s (.cinv a b t u) a b true (fun s rs =>
    let s := { s with l1d := s.l1d.filter (fun l => !(l.core == coreOf s.cur && lineIn rs l.pa)) }
    (heldIn s (dieOf s.cur) rs).foldl (fun st l => evict st (dieOf s.cur) l) s)

/-- `icinv`: the range's lines leave the core's own L1 instruction cache (R109, R285). -/
def execIcinv (a b : BitVec 6) (t u : Bool) (s : State) : Host.Outcome State Fault Refusal :=
  maintain s (.icinv a b t u) a b false (fun s rs => { s with l1i := s.l1i.filter (fun l => !(l.core == coreOf s.cur && lineIn rs l.pa)) })

/-- `ifence`: every earlier `icinv` is complete; the next instruction is fetched anew (R286). -/
def execIfence (s : State) : Host.Outcome State Fault Refusal :=
  issueLocal s .ifence 1 id

/-- `drain`: waits until NT(t) is empty (R281). -/
def execDrain (s : State) : Host.Outcome State Fault Refusal :=
  issue s .drain (fun th => if th.nt.isEmpty then .next (s.put (th.advance s.time 1)) else s.stalled th)

/-! ## Arriving (R288) -/

/-- The scope at which a local space's `arrive` releases. -/
def arriveScope (space : Nat) : Nat := space - 1

/-- The picks of the move in progress for an atomic at some bytes, where they name maximal writes (R183). -/
def takenFor (s : State) (xs : List Nat) : List (Nat × Nat) := s.picks.filter (fun p => xs.contains p.1 && isTop (wsGet s p.1) p.2)

/-- `arrive`: an atomic addition to a local word, a release at the space's scope (R288, R382). -/
def execArrive (s : BitVec 3) (a b : BitVec 6) (t u : Bool) (st : State) : Host.Outcome State Fault Refusal :=
  issue st (.arrive s a b t u) (fun th =>
    let acc : Access := ⟨s.toNat, (th.gpr a).toNat, 8, 0⟩
    match preCheck st st.cur th acc .atomic true with
    | some r => .next (st.trap th r)
    | none =>
      if !th.sb.isEmpty then st.stalled th
      else
        match accessBytes st st.cur th acc .atomic true with
        | .ok xs _ =>
          if readsEarly st st.cur th xs then st.stalled th else
          match firstPoison st (.thread st.cur) (addressed acc.addr xs) false with
          | some f => .next (st.trap th ⟨11, 0, 3, wd f⟩)
          | none =>
            match atomicMove st st.cur th xs (takenFor st xs) 2 (arriveScope s.toNat) (fun bs => some (toBytes 8 (ofBytes bs + (th.gpr b).toNat))) with
            | some r => .next (r.1.put (r.2.1.advance st.time 1))
            | none => st.stalled th
        | c => match checkTrap acc .atomic c with | some r => .next (st.trap th r) | none => st.stalled th)

/-! ## Barriers (R289) -/

/-- The group size of a group's launch. -/
def groupSize (s : State) (g : Group) : Nat := match s.launchOf g.part g.launch with | some l => l.gsize | none => 0

/-- A thread comes to stand at a barrier, when the clock brings it to its `bar` or `barc`: it opens a generation where none is open, else joins the open one. A thread
released from a completed generation passes. -/
def standAt (s : State) (th : Thread) (count : Option Word) : Host.Outcome State Fault Refusal :=
  if th.released then .next (s.put (({ th with atBar := false, released := false } : Thread).advance s.time 1))
  else
    match (if th.spawned then none else th.grp.bind s.group) with
    | none => .next (s.trap th ⟨9, 0, 0x700, 0⟩)
    | some g =>
      match g.barrier with
      | some _ => .next (s.put { th with atBar := true, rep := none })
      | none =>
        match count with
        | some n =>
          if groupSize s g < n.toNat then .next (s.trap th ⟨7, 0, 0x800, n⟩)
          else .next ((s.setGroup { g with barrier := some ⟨some n.toNat⟩ }).put { th with atBar := true, rep := none })
        | none => .next ((s.setGroup { g with barrier := some ⟨none⟩ }).put { th with atBar := true, rep := none })

/-- `bar`: stands at the group's barrier until every placed thread that has not quit stands there (R289). -/
def execBar (s : State) : Host.Outcome State Fault Refusal :=
  issue s .bar (fun th => standAt s th none)

/-- `barc`: stands at the group's barrier; the opener's count decides (R289). -/
def execBarc (a : BitVec 6) (t : Bool) (s : State) : Host.Outcome State Fault Refusal :=
  issue s (.barc a t) (fun th => standAt s th (some (th.gpr a)))

/-- The threads that stand at a group's barrier and have not been released. -/
def standing (s : State) (g : Nat) : List (Nat × Thread) :=
  s.threads.filter (fun e => e.2.grp == some g && !e.2.spawned && e.2.atBar && !e.2.released)

/-- The placed threads of a group that have not quit, saved ones among them. -/
def placedLeft (s : State) (g : Nat) : Nat :=
  (s.threads.filter (fun e => e.2.grp == some g && !e.2.spawned)).length +
  (s.saved.filter (fun x => x.group == g && !x.thread.spawned)).length

/-- A group's generation can complete: enough threads stand in it, and their releases have drained (R289). -/
def barrierDue (s : State) (g : Group) : Bool :=
  match g.barrier with
  | none => false
  | some b =>
    let ts := standing s g.id
    decide ((match b.target with | some n => n | none => placedLeft s g.id) ≤ ts.length) && ts.all (fun e => e.2.sb.isEmpty)

/-- A generation completes: every thread standing in it becomes ready, having met every other's release (R187, R289). -/
def execBarrierCompletion (group : Nat) (s : State) : Host.Outcome State Fault Refusal :=
  match s.group group with
  | none => noMove s
  | some g =>
      if !(barrierDue s g) then noMove s
      else
        let ts := standing s group
        let F := ts.foldl (fun F e => fMerge s F e.2.front) []
        let s' := ts.foldl (fun st e => st.setThread e.1 { e.2 with released := true, front := fMerge s e.2.front F }) s
        .next (s'.setGroup { g with barrier := none })

/-! ## Gangs (R36, R290, R291) -/

/-- `muster`: enters the row's barrier and waits for its gang (R36, R290). -/
def execMuster (d : BitVec 6) (s : State) : Host.Outcome State Fault Refusal :=
  issue s (.muster d) (fun th =>
    match th.gang with
    | some n => .next (s.trap th ⟨12, 4, wd n, 0⟩)
    | none => .next ({ s with fresh := s.fresh + 1 }.put { th with muster := some ⟨s.fresh, s.time, d⟩, rep := none }))

/-- The first mustering thread of a launch on a core, in the order of their issues (R36); one that is stopped at its group's deadline forms no
gang (R39). -/
def firstMuster (s : State) (part num core : Nat) : Option (Nat × Thread × MusterWait) :=
  (s.threads.filterMap (fun e =>
    match e.2.muster with
    | some m => if coreOf e.1 == core && e.2.part == part && e.2.launchNum == num && !(e.2.stopped s e.1) then some (e.1, e.2, m) else none
    | none => none)).foldl (fun acc e =>
      match acc with
      | none => some e
      | some a => if e.2.2.stamp < a.2.2.stamp then some e else acc) none

/-- The would-be gang of a launch on a row: one member a core, the release of each complete: its SB(t) is empty (R36, R187, R290). -/
def wouldBe (s : State) (row part num : Nat) : Option (List (Nat × Thread × MusterWait)) :=
  let ms := (List.range 4).filterMap (fun p => firstMuster s part num (4 * row + p))
  if ms.length = 4 ∧ ms.all (fun m => m.2.1.sb.isEmpty) then some ms else none

/-- The order of would-be gangs: the cycle of the fourth arrival, the cycle and locator of the earliest member (R36). -/
def gangKey (ms : List (Nat × Thread × MusterWait)) : Nat × Nat × Nat :=
  let last := ms.foldl (fun a m => max a m.2.2.cycle.toNat) 0
  let first := ms.foldl (fun a m => min a m.2.2.cycle.toNat) (2 ^ 64)
  let loc := (ms.filter (fun m => m.2.2.cycle.toNat == first)).foldl (fun a m => min a m.1) 131072
  (last, first, loc)

/-- Lexicographic order of keys. -/
def keyLt (a b : Nat × Nat × Nat) : Bool :=
  decide (a.1 < b.1) || (a.1 == b.1 && (decide (a.2.1 < b.2.1) || (a.2.1 == b.2.1 && decide (a.2.2 < b.2.2))))

/-- The next gang to form on a row. -/
def nextGang (s : State) (row : Nat) : Option (List (Nat × Thread × MusterWait)) :=
  let pairs := (s.threads.filterMap (fun e => if rowOf e.1 == row && e.2.muster.isSome then some (e.2.part, e.2.launchNum) else none)).eraseDups
  (pairs.filterMap (fun p => wouldBe s row p.1 p.2)).foldl (fun acc ms =>
    match acc with
    | none => some ms
    | some a => if keyLt (gangKey ms) (gangKey a) then some ms else acc) none

/-- The lowest gang number no gang of a row holds. -/
def freeGang (s : State) (row : Nat) : Option Nat := (List.range 4).find? (fun n => (s.gangOf row n).isNone)

/-- The members of a new gang go on: each has its number and has met the others' releases, and the gang's accumulators are
zero (R36, R96, R116, R290). -/
def formGang (s : State) (row num : Nat) (ms : List (Nat × Thread × MusterWait)) : State :=
  let F := ms.foldl (fun F m => fMerge s F m.2.1.front) []
  let base := accBase row + 131072 * num
  let z := zeroRange s base (base + 131072)
  let z := { z with accPoison := z.accPoison.filter (fun k => k / 2 != row * 4 + num)
                    gangs := z.gangs ++ [⟨row, num, (match ms with | m :: _ => m.2.1.part | [] => 0), (match ms with | m :: _ => m.2.1.launchNum | [] => 0),
                      ms.map (·.1), [], none, none⟩] }
  ms.foldl (fun st m =>
    let t := m.2.1.setG m.2.2.dst (wd num)
    st.setThread m.1 (({ t with muster := none, gang := some num, front := fMerge s t.front F } : Thread).advance s.time 1)) z

/-- A member that leaves by `disband` releases every member stalled in a gang command not yet gathered (R291). -/
def releaseStalled (s : State) (loc : Nat) (g : Gang) : State :=
  g.members.foldl (fun st m =>
    if m == loc then st
    else st.mapThread m (fun u => if u.gangCmd.isSome then { u with gangCmd := none, trapReq := some ⟨12, 1, wd loc, 0⟩ } else u)) s

/-- `disband`: waits for the gang's entries, then the member leaves (R36, R291). -/
def execDisband (s : State) : Host.Outcome State Fault Refusal :=
  issue s .disband (fun th =>
    match th.gang.bind (s.gangOf (rowOf s.cur)) with
    | none => .next (s.put (({ th with gang := none } : Thread).advance s.time 1))
    | some g =>
      if s.cmds.any (fun c => c.queue == mxQueue g.row g.num) then s.stalled th
      else
        let s := if g.firstOut.isNone && g.broken.isNone then releaseStalled s s.cur g else s
        let s := leaveGang s s.cur th true
        .next (s.put (({ th with gang := none } : Thread).advance s.time 1)))

end Sys2Proof.Machine
end

