-- ==== Sys2Proof/Machine/MemEvents.lean ====
section
/-! DEFINITION. The moves of a thread's memory accesses: check returns, walks, read moves, atomics, waits, replies and drains
(R81, R104, R114, R116, R137, R146, R179 to R184, R287). A move that is not permitted changes nothing. -/
namespace Sys2Proof.Machine

/-! ## Shared operations -/

/-- An access at a location can be made now: the slice holds the line, modified for a write, or for a non-cacheable page
the home holds every copy recalled; a poisoned line answers at once (R111, R112, R114). -/
def placeReady (s : State) (die : Nat) (cacheable write : Bool) (x : Nat) : Bool :=
  if !(inLine x) then true
  else
    let line := lineOf x
    let e := s.dirEntry line
    e.poison || (if cacheable then (if write then s.owns die line else s.held die line)
      else e.unheld && !(s.homeTx.any (fun q => q.line == line)))

/-- The entry with a fault mark (R104). -/
def marked (t : Thread) (e : ReplayEntry) (r : TrapReq) : Thread := t.mapEntry e.id (fun x => { x with mark := some r })
/-- The entry whose reply will arrive poisoned, from an address, by a subcause. -/
def poisonReplyOf (t : Thread) (e : ReplayEntry) (sub addr : Nat) : Thread :=
  t.mapEntry e.id (fun x => { x with flight := .poisoning, fault := wd addr, value := wd sub })

/-! ## Soft errors (R116, R173)

Codes: 1 L1 parity; 2 corrected in the slice, pantry or cellar that serves the access; 3 corrected in the memory-side cache;
4 corrected in HBM; 5 uncorrectable in local storage, or a clean L2 line; 6 a modified L2 line, uncorrectable; 7 a clean
memory-side line, 8 a dirty one, uncorrectable; 9 HBM, uncorrectable. -/

/-- One more error in a compute die's counters. -/
def countDie (s : State) (die : Nat) (f : DieErr → DieErr) : State :=
  { s with dieErr := Vector.ofFn (fun i : Fin 8 => if i.val == die then f s.dieErr[i] else s.dieErr[i]) }
/-- One more error in a memory die's memory-side cache. -/
def countMsc (s : State) (mdie : Nat) : State :=
  { s with mdieErr := Vector.ofFn (fun i : Fin 4 =>
      if i.val == mdie then { s.mdieErr[i] with msc := satInc s.mdieErr[i].msc } else s.mdieErr[i]) }
/-- One more error in an HBM stack. -/
def countHbm (s : State) (stack : Nat) : State :=
  { s with hbmErr := Vector.ofFn (fun i : Fin 16 => if i.val == stack then satInc s.hbmErr[i] else s.hbmErr[i]) }
/-- The core whose pantry holds a word: of an alcove its thread's, of a group's share the one that gives it; none for other storage. -/
def pantryCore (s : State) (x : Nat) : Option Nat :=
  let b := bankOf x
  ((s.threads.find? (fun e => e.2.alcBank == b)).map (fun e => coreOf e.1)).or
    ((s.groups.find? (fun g => decide (g.shares ≤ b) && decide (b < g.shares + 8))).map (fun g => 8 * g.cluster + (b - g.shares)))

/-- A soft error met by an access of a core to a location: in the line's storage, in a copy of it, in the detached copy its die works on,
or in a word of local storage, counted by the core whose pantry holds it (R116, R173, R193; log entry 34). -/
def softError (s : State) (core x code : Nat) : State :=
  let die := core / 128
  let x := s.resolve (.thread (128 * core)) x
  let line := lineOf x
  let l2 := fun (s : State) (die : Nat) => countDie s die (fun d => { d with l2 := satInc d.l2 })
  let l1 := fun (s : State) (line : Nat) =>
    if s.l1d.any (fun l => l.core == core && l.pa == line) then (l1DropPa s core line).mapCore core (fun k => { k with errL1 := satInc k.errL1 }) else s
  match s.detachedAt x with
  | some d =>
    match code with
    | 1 => l1 s d.2
    | 2 => l2 s d.1
    | 6 => l2 (evict s d.1 d.2) d.1
    | _ => s
  | none =>
    if !(inLine x) then
      let s := if code = 5 then { s with poison := if s.poison.contains (poisonUnit x) then s.poison else s.poison ++ [poisonUnit x] } else s
      if code != 2 && code != 5 then s
      else if decide (1 ≤ bankOf x) && decide (bankOf x ≤ 8) then countDie s (bankOf x - 1) (fun d => { d with cellar := satInc d.cellar })
      else s.mapCore ((pantryCore s x).getD core) (fun k => { k with errLocal := satInc k.errLocal })
    else
      match code with
      | 1 => l1 s line
      | 2 => if s.held die line then l2 s die else s
      | 3 | 7 => countMsc s (homeDie (64 * line))
      | 4 => countHbm s (stackOf (64 * line))
      | 5 => if s.held die line && !(s.owns die line) then l2 (evict s die line) die else s
      | 6 => if s.owns die line then l2 (poisonLine (evict s die line) line) die else s
      | 8 => if s.l2.any (fun l => l.pa == line) then s else countMsc (poisonLine s line) (homeDie (64 * line))
      | 9 => if s.l2.any (fun l => l.pa == line) then s else countHbm (poisonLine s line) (stackOf (64 * line))
      | _ => s

/-- The soft errors that the accesses of a move meet, each at a location of theirs (R116; log entry 34). -/
def softErrors (s : State) (core : Nat) (softs : List (Nat × Nat)) : State := softs.foldl (fun st e => softError st core e.1 e.2) s

/-- The soft errors that an access at the home meets: those of the memory-side cache and of HBM (R116). -/
def homeErrors (s : State) (softs : List (Nat × Nat)) : State :=
  (softs.filter (fun e => inLine e.1 && [3, 4, 7, 8, 9].contains e.2)).foldl (fun st e => softError st (8 * 128) e.1 e.2) s

/-! ## Checks and walks -/

/-- Cache maintenance that waits for the answers to its writebacks (R285, R298). -/
def maintains : Instr → Bool
  | .cwb .. | .cinv .. | .cinvT .. => true
  | _ => false

/-- The writebacks that a thread's cache maintenance waits for have been answered or given up (R105, R113, R285, R298). -/
def maintained (s : State) (loc : Nat) (t : Thread) (i : Instr) : Bool :=
  match i with
  | .cwb a b .. | .cinv a b .. => !(underWay s (dieOf loc) (cachedRanges s loc t (bits (t.gpr a) 0 48) (t.gpr b).toNat))
  | _ => match s.partition t.part with | some p => !(translationWait s p) | none => true

/-- The access of a store, atomic or `stg` whose check is outstanding. -/
def checkedAccess (t : Thread) (i : Instr) : Except TrapReq (Option (Access × Kind × Bool)) :=
  match storeReq i t, atomicForm i with
  | .ok (some q), _ => .ok (some (q.acc, .store, q.kind != .tags))
  | _, some (space, a, size, _) => (match formAddress space (t.gpr a) 0 size with | .ok a => .ok (some (a, .atomic, true)) | .error r => .error r)
  | _, _ => .ok none

/-- That check has to wait for a message about a line of the tables it walks (R111; log entry 16). -/
def checkWaits (s : State) (loc : Nat) (t : Thread) (i : Instr) : Bool :=
  match checkedAccess t i with
  | .ok (some (a, _, _)) => missesL1 s loc t a && walkWaits s (dieOf loc) t.part t.asid a.addr a.size
  | _ => false

/-- The issue of a thread's store, atomic or `stg` completes with its check, or it traps (R104). -/
def completeCheck (s : State) (loc : Nat) (t : Thread) (w : Code) (i : Instr) : Host.Outcome State Fault Refusal :=
  let st := { s with cur := loc, ir := w }
  match (if (atomicForm i).isSome then atomicNow st t i true else storeNow st t i true) with
  | .next s' => .next { s' with cur := s.cur, ir := s.ir }
  | r => r

/-! ## Failed walks (R105, R146) -/

/-- The checks of an access would pass one of its pieces. -/
def piecePasses (s : State) (loc : Nat) (t : Thread) (a : Access) (k : Kind) (tagged : Bool) (p : Nat × Nat) : Bool :=
  match checkPiece s (t.view s loc) (dieOf loc) t.part t.asid t.super k (if tagged then some a.tag else none) a.addr p.1 p.2 with
  | .ok _ _ => true
  | _ => false

/-- An access that misses L1 finds a page whose walk fails, at an address of it, with what the walk comes to: the first of its pages that stops
it, or a page whose walk is told to have come to something. -/
def failedWalk (s : State) (loc : Nat) (t : Thread) (a : Access) (k : Kind) (tagged : Bool) (told : Option (Nat × Xlate)) : Option (Nat × Xlate) :=
  if !(missesL1 s loc t a) then none
  else
    match told with
    | some r => ((pieces a.addr a.size).find? (fun p => p.1 / 65536 == r.1 && walks s (dieOf loc) t.part t.asid p.1)).map (fun p => (p.1, r.2))
    | none =>
      match (pieces a.addr a.size).find? (fun p => !(piecePasses s loc t a k tagged p)) with
      | none => none
      | some p => match xlate s (dieOf loc) t.part t.asid p.1 with | .page _ _ => none | x => some (p.1, x)

/-- The access of an entry whose page's walk fails: one whose check has not passed. -/
def entryWalk (s : State) (loc : Nat) (t : Thread) (e : ReplayEntry) (told : Option (Nat × Xlate)) : Option (Access × Kind × Nat × Xlate) :=
  if e.flight == .waiting && e.state == .pending && e.mark.isNone then
    (entryAccesses e).findSome? (fun a =>
      if e.places.any (fun p => p.1 == a.1.addr) then none else (failedWalk s loc t a.1 a.2.1 a.2.2 told).map (fun w => (a.1, a.2.1, w)))
  else none

/-- The access of a store, atomic or `stg` whose page's walk fails at the return of its check, the scale byte of a blocked element among
them. -/
def checkWalk (s : State) (loc : Nat) (t : Thread) (i : Instr) (told : Option (Nat × Xlate)) : Option (Access × Kind × Nat × Xlate) :=
  let one := fun (a : Access) (k : Kind) (tagged : Bool) => (failedWalk s loc t a k tagged told).map (fun w => (a, k, w))
  match checkedAccess t i with
  | .ok (some (a, k, tagged)) =>
    (one a k tagged).or (match storeReq i t, accessBytes s loc t a k tagged with
      | .ok (some q), .ok _ _ => q.elem.bind (fun e => one e.2.2.2 .load true)
      | _, _ => none)
  | _ => none

/-- A thread shares the outcome of a failed walk of a page: its entries that miss on the page, and its outstanding check, unless it is
stopped at its group's deadline (R39). -/
def shareWith (s : State) (page : Nat) (told : Option (Nat × Xlate)) (st : State) (p : Nat × Thread) : State :=
  let t := p.2
  let st := sendWaiting st p.1 { t with replay := t.replay.map (fun e =>
    match entryWalk s p.1 t e told with
    | some w => if w.2.2.1 / 65536 = page then e.walked w.1 w.2.1 w.2.2.1 w.2.2.2 else e
    | none => e) }
  match (if t.stopped s p.1 then none else t.check), st.thread p.1 with
  | some w, some u =>
    (match decode w with
     | .error _ => st
     | .ok i =>
       match checkWalk s p.1 t i told with
       | some x => (match walkTrap x.1 x.2.1 x.2.2.2 with
           | some r => if x.2.2.1 / 65536 = page then takeTrap st p.1 { u with check := none } r else st
           | none => st)
       | none => st)
  | _, _ => st

/-- Misses to one page that are outstanding together share one walk and its outcome (R105, R146): every load and wait of the die that misses on
a page whose walk has failed faults, has a fault mark or is poisoned with the first, and every store and atomic whose check is outstanding there
traps. What the walk came to is found as it is made, or told where a message about a table's line has had an error reply (R113). -/
def shareWalk (s : State) (die part asid va : Nat) (told : Option Xlate := none) : State :=
  (s.threads.filter (fun p => dieOf p.1 == die && p.2.part == part && p.2.asid == asid)).foldl
    (shareWith s (va / 65536) (told.map (fun x => (va / 65536, x)))) (fillTlb s die part asid va)

/-- The slice returns the check of a store, atomic or `stg` that missed L1: its issue completes or it traps (R104); a walk that fails is the
outcome of every miss on its page (R146). Its reads take the move's candidates (R176). The slices' answers to a writeback that cache maintenance
waits for end it (R285, R298). -/
def execStoreCheckReturn (loc : ReadMeets) (s : State) : Host.Outcome State Fault Refusal :=
  match s.thread loc.of with
  | none => noMove s
  | some t =>
    match (if t.stopped s loc.of then none else t.check) with
    | none => noMove s
    | some w =>
      match decode w with
      | .error _ => noMove s
      | .ok i =>
        if maintains i then (if maintained s loc.of t i then .next (s.setThread loc.of (t.advance s.time 1)) else noMove s)
        else if checkWaits s loc.of t i then noMove s
        else
          let s := softErrors s (coreOf loc.of) loc.softs
          match checkWalk s loc.of t i none with
          | some x => .next (shareWalk s (dieOf loc.of) t.part t.asid x.2.2.1)
          | none => completeCheck { s with picks := loc.picks } loc.of t w i

/-- A translation unit walks the page tables for an address and keeps the entry, with soft errors its reads meet (R105, R116, R146). -/
def execPageWalk (die part asid : Nat) (va : WalkMeets) (s : State) : Host.Outcome State Fault Refusal :=
  match s.partition part with
  | none => noMove s
  | some p =>
    if p.dies.contains die && decide (va.va < 2 ^ 48) && !(walkWaits s die part asid va.va 1) then .next (fillTlb (softErrors s (128 * die) va.softs) die part asid va.va) else noMove s

/-! ## Read moves -/

/-- What a read of a load entry comes to: its value, some of its accesses made, a fault mark, a recoverable fault, a poisoned reply, or
nothing yet. -/
inductive ReadResult where
  | value (s : State) (t : Thread) (v : Word)
  | made (s : State) (t : Thread) (got : List (Nat × Byte)) (places : List (Nat × List Nat × List Attrs))
  | mark (r : TrapReq)
  | fault (va : Nat)
  | poison (sub addr : Nat)
  | notYet
  deriving DecidableEq, Repr

/-- The single-copy-atomic accesses of a load in order, as bytes by number: 0 is a blocked element's scale byte, 1 + j byte j of its own
access; its own are those of the aligned 8-byte units it touches (R178). -/
def loadParts (q : LoadReq) : List (List Nat) :=
  let us := ((List.range q.acc.size).map (fun j => (q.acc.addr + j) / 8)).eraseDups
  (q.scale.toList.map (fun _ => [0])) ++ us.map (fun u => ((List.range q.acc.size).filter (fun j => (q.acc.addr + j) / 8 == u)).map (1 + ·))

/-- The access that a part of a load belongs to. -/
def partAccess (q : LoadReq) (part : List Nat) : Access := if part == [0] then q.scale.getD q.acc else q.acc

/-- The bytes of one part of an entry: their locations and attributes with those of its whole access, or what stops it. -/
def readPlaces (s : State) (loc : Nat) (t : Thread) (e : ReplayEntry) (q : LoadReq) (part : List Nat) :
    Except ReadResult (List Nat × List Nat × List Attrs) :=
  let a := partAccess q part
  match checkedBytes s loc t e a .load q.tagged with
  | .trap r => .error (.mark r)
  | .absent va => .error (.fault va)
  | .poisoned => .error (.poison 2 a.addr)
  | .ok xs as =>
    let js := part.map (· - 1)
    let ys := js.map (fun j => let x := xs.getD j 0; if q.tagRead then tagLoc x else x)
    let ready := (js.zip ys).all (fun e => t.forwards e.2 || placeReady s (dieOf loc) (attrAt as e.1).c false e.2)
    if olderTouches s loc t e.id (ys.map (s.resolve (.thread loc))) || (!ready && missesL1 s loc t a) then .error .notYet
    else
      match (js.zip ys).find? (fun e => !(t.forwards e.2) && s.poisoned (s.resolve (.thread loc) e.2)) with
      | some e => .error (.poison 0 (if a.space = 0 then (a.addr + e.1) / 64 * 64 else (a.addr + e.1) / 8 * 8))
      | none => .ok (ys, xs, as)

/-- One access of a load is made: its check where that has not passed, for whose walk it may have to wait, its bytes, the line it fills (R104
to R107, R178, R180). An
`ldg` fills no L1 line (DESIGN CHOICE, log entry 64: R235 calls it a load, R102 and R104 name it apart from loads). -/
def readPart (s : State) (loc : Nat) (t : Thread) (e : ReplayEntry) (q : LoadReq) (picks : List (Nat × Nat)) (o : Nat × Nat) (part : List Nat) :
    Except ReadResult (State × Thread × List Byte × (Nat × List Nat × List Attrs)) :=
  let a := partAccess q part
  let new := !(e.places.any (fun p => p.1 == a.addr))
  if new && missesL1 s loc t a && walkWaits s (dieOf loc) t.part t.asid a.addr a.size then .error .notYet
  else
  let s := if new then walkFor s loc t a else s
  match readPlaces s loc t e q part with
  | .error r => .error r
  | .ok (ys, xs, as) =>
    let zs := ys.map (s.resolve (.thread loc))
    let t := if new then comparedTags s loc t a q.tagged xs as else t
    match readMove s loc t ys (picks.filter (fun p => zs.contains p.1)) o.1 o.2 with
    | none => .error .notYet
    | some r => .ok (if q.tagRead then r.1 else fillLines r.1 loc t { a with addr := a.addr + (part.headD 1 - 1), size := part.length }
        (part.map (fun j => xs.getD (j - 1) 0)) (part.map (fun j => attrAt as (j - 1))), r.2.1, r.2.2, (a.addr, xs, as))

/-- Parts of a load made one after another, with the bytes each has read and the places its check has found. -/
def readLoadParts (s : State) (loc : Nat) (t : Thread) (e : ReplayEntry) (q : LoadReq) (picks : List (Nat × Nat)) (o : Nat × Nat) :
    List (List Nat) → Except ReadResult (State × Thread × ReplayEntry)
  | [] => .ok (s, t, e)
  | part :: rest =>
    match readPart s loc t e q picks o part with
    | .error r => .error r
    | .ok (s, t, bs, p) => readLoadParts s loc t { e with got := e.got ++ part.zip bs, places := if e.places.any (·.1 == p.1) then e.places else e.places ++ [p] }
        q picks o rest

/-- The read move of a load or wait entry: all its accesses, or one of them where it is named (R178, R180 to R182, R279). -/
def readEntry (s : State) (loc : Nat) (t : Thread) (e : ReplayEntry) (picks : List (Nat × Nat)) (only : Option Nat) : ReadResult :=
  match e.instr with
  | none => .notYet
  | some i =>
    match entryReq e with
    | .error r => .mark r
    | .ok none => .value s t 0
    | .ok (some q) =>
      let left := (loadParts q).filter (fun p => !(p.any (fun j => (alGet e.got j).isSome)))
      let now := match only with | some k => left.filter (fun p => (loadParts q)[k]? == some p) | none => left
      if now.isEmpty then .notYet
      else
        match readLoadParts s loc t e q picks i.order now with
        | .error r => r
        | .ok (s, t, e') =>
          if now.length < left.length then .made s t e'.got e'.places
          else
            let o := i.order
            let s := if acquires o.1 then bumpGen s (coreOf loc) o.2 else s
            .value s t (loadValue i e.src1 q.place ((alGet e'.got 0).getD 0).toNat ((List.range q.acc.size).map (fun j => (alGet e'.got (1 + j)).getD 0)))

/-- An entry of a thread that still has its access to make. -/
def waitingEntry (t : Thread) (entry : Nat) (p : Instr → Bool) : Option ReplayEntry :=
  t.replay.find? (fun e => e.id == entry && e.flight == .waiting && e.state == .pending && e.mark.isNone &&
    (match e.instr with | some i => p i | none => false))

/-- A read of an entry that gave no value: where a walk of one of its pages has failed, its outcome is shared. -/
def readStopped (s : State) (loc : Nat) (t : Thread) (e : ReplayEntry) : ReadResult → Host.Outcome State Fault Refusal
  | .made s t got places => .next (s.setThread loc (t.mapEntry e.id (fun x => { x with got := got, places := places })))
  | .value .. | .notYet => noMove s
  | r =>
    match entryWalk s loc t e none, r with
    | some w, _ => .next (shareWalk s (dieOf loc) t.part t.asid w.2.2.1)
    | none, .mark m => .next (sendWaiting s loc (marked t e m))
    | none, .poison sub a => .next (s.setThread loc (poisonReplyOf t e sub a))
    | none, _ => noMove s

/-- The read move of a load, or one of its accesses, with the soft errors they meet (R116, R178, R180). -/
def execLoadReadMove (loc entry : Nat) (picks : List (Nat × Nat)) (meets : LoadMeets) (s : State) : Host.Outcome State Fault Refusal :=
  match s.thread loc with
  | none => noMove s
  | some t =>
    match waitingEntry t entry (·.isLoad) with
    | none => noMove s
    | some e =>
      let met := softErrors { s with picks := picks } (coreOf loc) meets.softs
      match readEntry met loc t e picks meets.only with
      | .value s t v => .next (s.setThread loc (t.mapEntry e.id (fun x => { x with flight := .read, value := v })))
      | .notYet => noMove s
      | r => readStopped met loc t e r

/-! ## Waits (R287) -/

/-- The condition of a wait holds for a value. -/
def waitHolds (i : Instr) (target v : Word) : Bool :=
  match i with
  | .waita .. => v != target
  | .waitge .. => decide (target.toNat ≤ v.toNat)
  | _ => true

/-- One read of a wait, with what it meets: it ends when its condition holds or its timeout has passed, else it goes on sleeping. -/
def waitRead (s : State) (loc : Nat) (t : Thread) (e : ReplayEntry) (i : Instr) (meets : AccessMeets) : Host.Outcome State Fault Refusal :=
  let met := softErrors { s with picks := meets.picks } (coreOf loc) meets.softs
  match readEntry met loc t e meets.picks none with
  | .value s t v =>
    let ends := waitHolds i e.src3 v
    let late := decide (e.src2.toNat ≤ (s.time - e.since).toNat)
    .next (s.setThread loc (if ends || late then
      t.mapEntry e.id (fun x => { x with flight := .read, value := v, pred := !ends }) else t))
  | .notYet => noMove s
  | r => readStopped met loc t e r

/-- A wait reads its word, with the soft errors it meets (R116, R287). -/
def execWaitWake (loc entry : Nat) (meets : AccessMeets) (s : State) : Host.Outcome State Fault Refusal :=
  match s.thread loc with
  | none => noMove s
  | some t =>
    match waitingEntry t entry (·.isWait) with
    | none => noMove s
    | some e =>
      match e.instr with
      | some i => waitRead s loc t e i meets
      | none => noMove s

/-- A wait whose timeout has passed reads its word once more and ends (R116, R287). -/
def execWaitTimeout (loc : Nat) (entry : ReadMeets) (s : State) : Host.Outcome State Fault Refusal :=
  match s.thread loc with
  | none => noMove s
  | some t =>
    match waitingEntry t entry.of (·.isWait) with
    | none => noMove s
    | some e =>
      match e.instr with
      | some i => if e.src2.toNat ≤ (s.time - e.since).toNat then waitRead s loc t e i ⟨entry.picks, entry.softs⟩ else noMove s
      | none => noMove s

/-! ## Atomics (R183) -/

/-- A store in SB(t), buffered before an entry of the thread, has a byte of its access (R183, R282). -/
def Thread.olderStore (t : Thread) (id : Nat) (xs : List Nat) : Bool :=
  t.sb.any (fun e => decide (e.id < id) && e.cells.any (fun c => xs.contains c.1))

/-- An atomic is performed at its point of performance, once, with the soft errors it meets; one that `tret` has issued again makes its check
here (R81, R84, R104, R112, R114, R116, R183). -/
def execAtomicPerform (loc entry : Nat) (meets : AccessMeets) (s : State) : Host.Outcome State Fault Refusal :=
  match s.thread loc with
  | none => noMove s
  | some t =>
    match waitingEntry t entry (·.isAtomic) with
    | none => noMove s
    | some e =>
      let old := s
      let s := softErrors { s with picks := meets.picks } (coreOf loc) meets.softs
      match e.instr, entryAtomic e with
      | some i, .ok a =>
        let new := !(e.places.any (fun p => p.1 == a.addr))
        if new && missesL1 s loc t a && walkWaits s (dieOf loc) t.part t.asid a.addr a.size then noMove old
        else
        let s := if new then walkFor s loc t a else s
        match entryWalk s loc t e none, checkedBytes s loc t e a .atomic true with
        | some w, _ => .next (shareWalk s (dieOf loc) t.part t.asid w.2.2.1)
        | none, .trap r => .next (s.setThread loc (marked t e r))
        | none, .absent _ => .next (s.setThread loc (marked t e ⟨8, 0, wd Kind.atomic.code, wd a.addr⟩))
        | none, .poisoned => .next (s.setThread loc (poisonReplyOf t e 2 a.addr))
        | none, .ok xs as =>
          let t := if new then comparedTags s loc t a true xs as else t
          let ys := xs.map (s.resolve (.thread loc))
          let o := i.order
          let slice := sliceFor loc (attrAt as 0).c
          if olderTouches s loc t e.id ys || t.olderStore e.id xs || (releases o.1 && t.sb.any (fun x => decide (x.id < e.id))) ||
              !(xs.all (placeReady s (dieOf loc) (attrAt as 0).c true)) || watchBlocked s ys slice 0 then noMove old
          else
            match firstPoison s (.thread loc) (addressed a.addr xs) (a.space == 0) with
            | some f => .next (s.setThread loc (poisonReplyOf t e 0 f))
            | none =>
              let n := 8 * a.size
              let new := fun (bs : List Byte) =>
                (atomicNew i n (ofBytes bs) (bits e.src2 0 n) (bits e.src3 0 n)).map (toBytes a.size)
              match atomicMove s loc t xs meets.picks o.1 o.2 new with
              | none => noMove old
              | some r =>
                let s := if (new r.2.2).isSome then watchWrite r.1 ys slice loc 0 t.part t.launchNum else r.1
                let s := if acquires o.1 then bumpGen s (coreOf loc) o.2 else s
                .next (s.setThread loc (r.2.1.mapEntry e.id (fun x => { x with state := .done, flight := .read, value := wd (ofBytes r.2.2) })))
      | _, .error r => .next (s.setThread loc (marked t e r))
      | _, _ => noMove old

/-! ## Replies (R64, R81, R114, R137) -/

/-- A producer's result arrives: its destination is written and full, a wait's predicate reports, and its entry is released (R64, R81, R287);
a `spawn` that waited for it is sent (R246). -/
def execProducerReply (loc entry : Nat) (s : State) : Host.Outcome State Fault Refusal :=
  match s.thread loc with
  | none => noMove s
  | some t =>
    match t.replay.find? (fun e => e.id == entry && e.flight == .read && e.mark.isNone && (e.state == .pending || e.state == .done)) with
    | none => noMove s
    | some e =>
      let t := (t.setG e.dst e.value).dropEntry e.id
      .next (sendWaiting s loc (match e.instr with
        | some (.waita k ..) => t.setP k e.pred
        | some (.waitge k ..) => t.setP k e.pred
        | _ => t))

/-- The fewest cycles in which the reply of a miss reaches its core: those of a line that the die's own L2 serves (R273; log entry 66). -/
def missCycles : Nat := 40

/-- A recoverable page fault reaches the core: the entry is faulted and its record awaits its append (R103, R137, R273). -/
def execFaultReply (loc entry : Nat) (s : State) : Host.Outcome State Fault Refusal :=
  match s.thread loc with
  | none => noMove s
  | some t =>
    match t.replay.find? (fun e => e.id == entry && e.flight == .faulting && e.state == .pending && decide (missCycles ≤ (s.time - e.since).toNat)) with
    | none => noMove s
    | some e =>
      let pos := (t.replay.takeWhile (fun x => x.id != e.id)).length
      let s := s.setThread loc (t.mapEntry e.id (fun x => { x with state := .faulted }))
      .next { s with appends := s.appends ++ [⟨t.part, 1, none, wd (loc + pos * 2 ^ 17 + t.asid * 2 ^ 32 + t.launchNum * 2 ^ 48),
        wd (bits e.fault 0 48), wd (bits t.started 0 32), none, false, false, t.front⟩] }

/-- A poisoned reply marks its destination (R64, R114). -/
def execPoisonReply (loc entry : Nat) (s : State) : Host.Outcome State Fault Refusal :=
  match s.thread loc with
  | none => noMove s
  | some t =>
    match t.replay.find? (fun e => e.id == entry && e.flight == .poisoning && e.state == .pending) with
    | none => noMove s
    | some e =>
      .next (sendWaiting s loc (t.mapEntry e.id (fun x =>
        { x with state := .poisoned, mark := some ⟨11, e.value.toNat, wd e.dst.toNat, e.fault⟩ })))

/-! ## Drains (R179, R182, R184, R185) -/

/-- An atomic that its thread issued before a store, and that is still to be performed, touches a byte of it: the store keeps its place behind
it (R112, R155, R192). -/
def olderAtomic (s : State) (loc : Nat) (t : Thread) (e : StoreEntry) : Bool :=
  t.replay.any (fun x => decide (x.id < e.id) && x.state == .pending && x.mark.isNone && x.flight == .waiting &&
    (match x.instr with | some i => i.isAtomic | none => false) &&
    e.cells.any (fun c => (entryLocs s loc t x).any (ordered (s.resolve (.thread loc) c.1))))

/-- An entry is the oldest for each of its bytes, and no earlier release stands before it. -/
def mayDrain (s : State) (loc : Nat) (t : Thread) (e : StoreEntry) : Bool :=
  (t.sb ++ t.nt).all (fun x => decide (e.id ≤ x.id) ||
    (!(x.cells.any (fun c => e.cells.any (fun d => ordered c.1 d.1))) && x.release.isNone)) && !(olderAtomic s loc t e)

/-- A drained `stg` updates the tag of a line its core holds valid (R107). -/
def l1Tags (s : State) (core id : Nat) (cells : List (Nat × Byte × Byte)) : State :=
  let c := s.core core
  let tags := cells.filter (fun e => bankOf e.1 == 9)
  if tags.isEmpty then s
  else { s with l1d := s.l1d.map (fun l =>
    match tags.find? (fun e => l.core == core && offOf e.1 == l.pa && l.die == c.genDie && l.pkg == c.genPkg) with
    | some e => { l with tag := BitVec.ofNat 4 e.2.1.toNat, tagId := id }
    | none => l) }

/-- The drain move of an entry of SB(t) or NT(t). -/
def drainMove (s : State) (loc : Nat) (t : Thread) (e : StoreEntry) : Host.Outcome State Fault Refusal :=
  let slice := if e.cacheable then some (dieOf loc) else none
  let xs := e.reached
  if !(mayDrain s loc t e) || !(e.cells.all (fun c => placeReady s (dieOf loc) e.cacheable true c.1)) || watchBlocked s xs slice 0 then noMove s
  else
    let lands := !(e.cells.any (fun c => let x := s.resolve (.thread loc) c.1
      inLine x && s.poisoned x))
    let d := drainEntry s loc t e
    let s := if lands then l1Tags (watchWrite d.1 (xs.map (s.resolve (.thread loc))) slice loc 0 t.part t.launchNum) (coreOf loc) e.id e.cells else d.1
    match e.release with
    | some sc =>
      if e.seq then
        let key := fscKey (.thread loc) sc
        let F := fMerge s d.2.front ((alGet s.fsc key).getD [])
        .next ({ s with fsc := alSet s.fsc key F }.setThread loc { d.2 with front := F })
      else .next (s.setThread loc d.2)
    | none => .next (s.setThread loc d.2)

/-- A store-buffer entry enters its write sets, with the soft errors it meets (R116, R179). -/
def execStoreDrain (loc : Nat) (store : DrainMeets) (s : State) : Host.Outcome State Fault Refusal :=
  match s.thread loc with
  | none => noMove s
  | some t =>
    match t.sb.find? (fun e => e.id == store.id) with
    | none => noMove s
    | some e => drainMove (softErrors s (coreOf loc) store.softs) loc t e

/-- A non-temporal store enters its write sets, with the soft errors it meets (R116, R184). -/
def execNtStoreDrain (loc : Nat) (store : DrainMeets) (s : State) : Host.Outcome State Fault Refusal :=
  match s.thread loc with
  | none => noMove s
  | some t =>
    match t.nt.find? (fun e => e.id == store.id) with
    | none => noMove s
    | some e => drainMove (softErrors s (coreOf loc) store.softs) loc t e

end Sys2Proof.Machine
end

