-- ==== Sys2Proof/Machine/Functions.lean ====
section
/-! DEFINITION. The functions of FUN, correctly rounded (R256): square root and reciprocals exactly, the four
transcendental functions by integer intervals of rising precision. Where the last interval still spans a rounding
boundary, the neighbour taken is a free value (log entry 15). -/
namespace Sys2Proof.Machine

/-! ## Exact roots and reciprocals -/

/-- The bits of the integer square root, from bit `k - 1` down. -/
def isqrtBits (n : Nat) : Nat → Nat → Nat
  | 0, r => r
  | k + 1, r => if (r + 2 ^ k) * (r + 2 ^ k) ≤ n then isqrtBits n k (r + 2 ^ k) else isqrtBits n k r

/-- floor (sqrt n). -/
def isqrt (n : Nat) : Nat := isqrtBits n (bitLen n / 2 + 1) 0

/-- sqrt of mant x 2^exp with at least `m + 8` bits: mantissa, exponent, sticky. -/
def rootOf (m mant : Nat) (exp : Int) : Nat × Int × Bool :=
  let k := 2 * (m + 8)
  let odd := exp % 2 != 0
  let n := mant * 2 ^ (k + if odd then 1 else 0)
  let e := (exp - (k : Int) - (if odd then 1 else 0)) / 2
  let r := isqrt n
  (r, e, r * r != n)

/-- `fsqrt`. -/
def Fmt.sqrt (f : Fmt) (mode : Nat) : FVal → Nat × Nat
  | .nan g => (f.canonicalNaN, if g then flagNv else 0)
  | .inf neg => if neg then (f.canonicalNaN, flagNv) else (f.infinity false, 0)
  | .fin neg m e =>
    if m = 0 then (f.signBit neg, 0)
    else if neg then (f.canonicalNaN, flagNv)
    else
      let r := rootOf f.m m e
      f.roundExact mode false r.1 r.2.1 r.2.2

/-- `frcp`. -/
def Fmt.rcp (f : Fmt) (mode : Nat) : FVal → Nat × Nat
  | .nan g => (f.canonicalNaN, if g then flagNv else 0)
  | .inf neg => (f.signBit neg, 0)
  | .fin neg m e =>
    if m = 0 then (f.infinity neg, flagDz)
    else
      let q := quotient f.m 1 m
      f.roundExact mode neg q.1 (-e - q.2.1) q.2.2

/-- `frsq`: 1 over the square root; the root of the truncated quotient is the truncated root. -/
def Fmt.rsq (f : Fmt) (mode : Nat) : FVal → Nat × Nat
  | .nan g => (f.canonicalNaN, if g then flagNv else 0)
  | .inf neg => if neg then (f.canonicalNaN, flagNv) else (0, 0)
  | .fin neg m e =>
    if m = 0 then (f.infinity neg, flagDz)
    else if neg then (f.canonicalNaN, flagNv)
    else
      let odd := e % 2 != 0
      let k := 2 * (f.m + 8 + bitLen m) + if odd then 1 else 0
      let n := 2 ^ k / m
      let r := isqrt n
      f.roundExact mode false r ((-e - (k : Int)) / 2) (r * r != n || 2 ^ k % m != 0)

/-! ## Intervals at scale 2^P -/

/-- A closed interval of integers. -/
abbrev Iv := Int × Int

/-- floor and ceiling of an integer over 2^P. -/
def divDown (x : Int) (P : Nat) : Int := x / (2 ^ P : Nat)
def divUp (x : Int) (P : Nat) : Int := -((-x) / (2 ^ P : Nat))

/-- The product of two intervals at scale 2^P. -/
def Iv.mul (P : Nat) (a b : Iv) : Iv :=
  let ps := [a.1 * b.1, a.1 * b.2, a.2 * b.1, a.2 * b.2]
  (divDown (ps.foldl min (a.1 * b.1)) P, divUp (ps.foldl max (a.1 * b.1)) P)

/-- An interval over a positive integer. -/
def Iv.over (a : Iv) (k : Nat) : Iv := (a.1 / (k : Int), -((-a.2) / (k : Int)))

/-- Sum and difference. -/
def Iv.add (a b : Iv) : Iv := (a.1 + b.1, a.2 + b.2)
def Iv.sub (a b : Iv) : Iv := (a.1 - b.2, a.2 - b.1)

/-- Terms of atan (1 / n) at scale 2^P. -/
def atanTerms (n : Nat) : Nat → Nat → Nat → Int → Int
  | 0, _, _, acc => acc
  | fuel + 1, power, k, acc =>
    let t : Int := (power / (2 * k + 1) : Nat)
    atanTerms n fuel (power / (n * n)) (k + 1) (if k % 2 = 0 then acc + t else acc - t)

/-- pi at scale 2^P: 16 atan (1/5) - 4 atan (1/239), with its truncation error. -/
def piIv (P : Nat) : Iv :=
  let Q := P + 32
  let fuel := Q / 4 + 8
  let a := atanTerms 5 fuel (2 ^ Q / 5) 0 0
  let b := atanTerms 239 fuel (2 ^ Q / 239) 0 0
  let v := 16 * a - 4 * b
  let err : Int := 64 * fuel
  (divDown (v - err) 32, divUp (v + err) 32)

/-- 2 atanh z = ln ((1 + z) / (1 - z)) for 0 <= z <= 1/3, at scale 2^P. -/
def atanhTerms (P : Nat) (z2 : Iv) : Nat → Nat → Iv → Iv → Iv
  | 0, _, _, acc => acc
  | fuel + 1, k, power, acc => atanhTerms P z2 fuel (k + 1) (Iv.mul P power z2) (acc.add (power.over (2 * k + 1)))

def lnRatio (P : Nat) (z : Iv) : Iv :=
  let s := atanhTerms P (Iv.mul P z z) (P / 3 + 8) 0 z (0, 0)
  (2 * s.1 - 4, 2 * s.2 + 4)

/-- ln 2 = 2 atanh (1/3). -/
def ln2Iv (P : Nat) : Iv := lnRatio P ((2 ^ P : Nat) / 3, (2 ^ P : Nat) / 3 + 1)

/-- Taylor terms: each is the last times y over the next divisors; `step` counts from the index of the next term. -/
def taylor (P : Nat) (y : Iv) (alternate : Bool) (stride : Nat) : Nat → Nat → Iv → Iv → Iv
  | 0, _, _, acc => acc
  | fuel + 1, k, term, acc =>
    let t := Iv.over (Iv.mul P term y) (if stride = 1 then k else k * (k + 1))
    let t := if alternate then (-t.2, -t.1) else t
    taylor P y alternate stride fuel (k + stride) t (acc.add t)

/-- e^y for |y| <= 1/2. -/
def expIv (P : Nat) (y : Iv) : Iv :=
  let one : Iv := ((2 ^ P : Nat), (2 ^ P : Nat))
  let s := taylor P y false 1 (P / 6 + 20) 1 one one
  (s.1 - 4, s.2 + 4)

/-- sin r and cos r for |r| <= 1. -/
def sinIv (P : Nat) (r : Iv) : Iv :=
  let s := taylor P (Iv.mul P r r) true 2 (P / 8 + 20) 2 r r
  (s.1 - 4, s.2 + 4)
def cosIv (P : Nat) (r : Iv) : Iv :=
  let one : Iv := ((2 ^ P : Nat), (2 ^ P : Nat))
  let s := taylor P (Iv.mul P r r) true 2 (P / 8 + 20) 1 one one
  (s.1 - 4, s.2 + 4)

/-- The rounding of a value strictly inside an interval at exponent e, where both ends round alike; it is inexact. -/
def Fmt.roundIv (f : Fmt) (mode : Nat) (v : Iv) (e : Int) : Option (Nat × Nat) :=
  let a := if 0 < v.1 then some (f.roundExact mode false v.1.toNat e true, f.roundExact mode false (v.2 - 1).toNat e true)
    else if v.2 < 0 then some (f.roundExact mode true (-v.1 - 1).toNat e true, f.roundExact mode true (-v.2).toNat e true)
    else none
  match a with
  | some (x, y) => if x = y then some x else none
  | none => none

/-- The rounding at the first precision whose interval decides, of P and its doublings; else a free choice between the ends of the last
(log entry 15). -/
def Fmt.decide (f : Fmt) (mode op pat : Nat) (at' : Nat → Iv × Int) : Nat → Nat → Nat × Nat
  | 0, P =>
    let r := at' P
    if Config.roundUp op pat then f.roundExact mode (r.1.1 < 0) r.1.2.natAbs r.2 true
    else f.roundExact mode (r.1.1 < 0) r.1.1.natAbs r.2 true
  | n + 1, P =>
    let r := at' P
    match f.roundIv mode r.1 r.2 with
    | some x => x
    | none => f.decide mode op pat at' n (2 * P)

/-- How many precisions are tried, from 160 bits to 10,485,760 bits. -/
def precisions : Nat := 17

/-- A value x = mant x 2^exp at scale 2^P, exact while exp + P >= 0. -/
def scaled (mant : Nat) (exp : Int) (P : Nat) : Iv :=
  let e := exp + P
  if 0 ≤ e then ((mant * 2 ^ e.toNat : Nat), (mant * 2 ^ e.toNat : Nat))
  else ((mant / 2 ^ (-e).toNat : Nat), (mant / 2 ^ (-e).toNat : Nat) + 1)

/-- Just above or below 1. -/
def Fmt.nearOne (f : Fmt) (mode : Nat) (above : Bool) : Nat × Nat :=
  if above then f.roundExact mode false (2 ^ (f.m + 8)) (-(f.m : Int) - 8) true
  else f.roundExact mode false (2 ^ (f.m + 8) - 1) (-(f.m : Int) - 8) true

/-- `fex2`: 2^x. -/
def Fmt.ex2 (f : Fmt) (mode : Nat) (pat : Nat) : FVal → Nat × Nat
  | .nan g => (f.canonicalNaN, if g then flagNv else 0)
  | .inf neg => if neg then (0, 0) else (f.infinity false, 0)
  | .fin neg m e =>
    if m = 0 then f.roundExact mode false 1 0 false
    else if 16 < e + bitLen m then f.roundExact mode false 1 (if neg then -70000 else 70000) true
    else if e + bitLen m < -(f.m : Int) - 16 then f.nearOne mode (!neg)
    else
      -- n = nearest integer to x, r = x - n
      let X : Int := signedMant neg m
      let n : Int := if 0 ≤ e then X * 2 ^ e.toNat else (2 * X + (2 ^ (-e).toNat : Nat)) / (2 * 2 ^ (-e).toNat : Nat)
      let r : Int := if 0 ≤ e then 0 else X - n * (2 ^ (-e).toNat : Nat)
      if r = 0 then f.roundExact mode false 1 n false
      else f.decide mode 3 pat (fun P =>
        let sc := scaled r.natAbs e P
        let rv : Iv := if r < 0 then (-sc.2, -sc.1) else sc
        (expIv P (Iv.mul P rv (ln2Iv P)), n - P)) precisions 160

/-- `flg2`: log2 x. -/
def Fmt.lg2 (f : Fmt) (mode : Nat) (pat : Nat) : FVal → Nat × Nat
  | .nan g => (f.canonicalNaN, if g then flagNv else 0)
  | .inf neg => if neg then (f.canonicalNaN, flagNv) else (f.infinity false, 0)
  | .fin neg m e =>
    if m = 0 then (f.infinity true, flagDz)
    else if neg then (f.canonicalNaN, flagNv)
    else
      let L := bitLen m
      let k : Int := e + L - 1
      if m = 2 ^ (L - 1) then f.roundExact mode (k < 0) k.natAbs 0 false
      else
        -- x = 2^k' c with c in (3/4, 3/2): halve the upper half
        let up := 3 * 2 ^ (L - 2) ≤ m ∧ 2 ≤ L
        let k' : Int := if up then k + 1 else k
        let one : Nat := if up then 2 ^ L else 2 ^ (L - 1)
        f.decide mode 4 pat (fun P =>
          -- z = (c - 1) / (c + 1)
          let num : Int := (m : Int) - one
          let den : Nat := m + one
          let zn : Int := num * (2 ^ P : Nat) / (den : Int)
          let z : Iv := (zn, zn + 1)
          let ln := lnRatio P z
          let l2 := ln2Iv P
          -- ln / ln2 at scale 2^P, by the ends of both
          let q := fun (a : Int) (b : Int) => a * (2 ^ P : Nat) / b
          let lo := min (q ln.1 l2.1) (q ln.1 l2.2) - 1
          let hi := max (q ln.2 l2.1) (q ln.2 l2.2) + 1
          ((k' * (2 ^ P : Nat) + lo, k' * (2 ^ P : Nat) + hi), -(P : Int))) precisions 160

/-- x reduced by the nearest multiple of pi/2: the quadrant and the rest, at scale 2^P (R256). -/
def reduce (m : Nat) (e : Int) (P : Nat) : Nat × Iv :=
  let W := P + (e + bitLen m).toNat + 16
  let X : Int := (scaled m e W).1
  let p := piIv W
  let k : Int := (2 * X + p.1 / 2) / p.1
  let lo := (2 * X - k * p.2)
  let hi := (2 * X - k * p.1)
  ((k % 4).toNat, (divDown lo (W - P + 1), divUp hi (W - P + 1)))

/-- `fsin` and `fcos`. -/
def Fmt.sinCos (f : Fmt) (mode : Nat) (pat : Nat) (cosine : Bool) : FVal → Nat × Nat
  | .nan g => (f.canonicalNaN, if g then flagNv else 0)
  | .inf _ => (f.canonicalNaN, flagNv)
  | .fin neg m e =>
    if m = 0 then (if cosine then f.roundExact mode false 1 0 false else (f.signBit neg, 0))
    else if e + bitLen m < -64 then
      if cosine then f.nearOne mode false
      else f.roundExact mode neg (m * 2 ^ (f.m + 8) - 1) (e - f.m - 8) true
    else f.decide mode (if cosine then 6 else 5) pat (fun P =>
      let r := reduce m e P
      let q := r.1 + if cosine then 1 else 0
      let v := if q % 2 = 0 then sinIv P r.2 else cosIv P r.2
      let v : Iv := if 2 ≤ q % 4 then (-v.2, -v.1) else v
      let v : Iv := if neg && !cosine then (-v.2, -v.1) else v
      (v, -(P : Int))) precisions 160

end Sys2Proof.Machine
end

