-- ==== Sys2Proof/Machine/Float.lean ====
section
/-! DEFINITION. Scalar floating point: arithmetic, functions, conversions, minimum, maximum, negation, comparison and
classification (R251 to R263). -/
namespace Sys2Proof.Machine

/-- Cycles to the next issue by width (R252): binary64, binary32, the 16-bit formats. -/
def latBy (w : BitVec 2) (d s h : Nat) : Nat := if w = 0 then d else if w = 1 then s else h

/-- A two-operand scalar operation. -/
def scalar2 (s : State) (i : Instr) (d a b : Reg) (w : BitVec 2) (m : BitVec 3) (lat : Nat)
    (op : Fmt → Nat → FVal → FVal → Nat × Nat) : Host.Outcome State Fault Refusal :=
  let f := fmtOfWidth w
  floatInstr s i m lat d (fun mode t => op f mode (t.fval f a) (t.fval f b))

/-- A fused multiply-add with its signs. -/
def scalarFma (s : State) (i : Instr) (d a b : Reg) (w : BitVec 2) (m : BitVec 3) (np nz : Bool) :
    Host.Outcome State Fault Refusal :=
  let f := fmtOfWidth w
  floatInstr s i m (latBy w 6 4 4) d (fun mode t => f.fma mode np nz (t.fval f a) (t.fval f b) (t.fval f d))

/-- A function of FUN. -/
def scalar1 (s : State) (i : Instr) (d a : Reg) (w : BitVec 2) (m : BitVec 3) (lat : Nat)
    (op : Fmt → Nat → Nat → FVal → Nat × Nat) : Host.Outcome State Fault Refusal :=
  let f := fmtOfWidth w
  floatInstr s i m lat d (fun mode t => op f mode (bits (t.gpr a) 0 f.size) (t.fval f a))

/-- `fadd` (R254). -/
def execFadd (d a b : BitVec 6) (t u : Bool) (w : BitVec 2) (m : BitVec 3) (s : State) : Host.Outcome State Fault Refusal :=
  scalar2 s (.fadd d a b t u w m) d a b w m (latBy w 6 4 4) (fun f k x y => f.add k x y)

/-- `fsub` (R254). -/
def execFsub (d a b : BitVec 6) (t u : Bool) (w : BitVec 2) (m : BitVec 3) (s : State) : Host.Outcome State Fault Refusal :=
  scalar2 s (.fsub d a b t u w m) d a b w m (latBy w 6 4 4) (fun f k x y => f.add k x y.neg)

/-- `fmul` (R254). -/
def execFmul (d a b : BitVec 6) (t u : Bool) (w : BitVec 2) (m : BitVec 3) (s : State) : Host.Outcome State Fault Refusal :=
  scalar2 s (.fmul d a b t u w m) d a b w m (latBy w 6 4 4) (fun f k x y => f.mul k x y)

/-- `fdiv` (R254). -/
def execFdiv (d a b : BitVec 6) (t u : Bool) (w : BitVec 2) (m : BitVec 3) (s : State) : Host.Outcome State Fault Refusal :=
  scalar2 s (.fdiv d a b t u w m) d a b w m (latBy w 28 14 10) (fun f k x y => f.div k x y)

/-- `fma`: x y + z, rounded once (R255). -/
def execFma (d a b : BitVec 6) (t u : Bool) (w : BitVec 2) (m : BitVec 3) (s : State) : Host.Outcome State Fault Refusal :=
  scalarFma s (.fma d a b t u w m) d a b w m false false

/-- `fms`: x y - z, rounded once (R255). -/
def execFms (d a b : BitVec 6) (t u : Bool) (w : BitVec 2) (m : BitVec 3) (s : State) : Host.Outcome State Fault Refusal :=
  scalarFma s (.fms d a b t u w m) d a b w m false true

/-- `fnma`: -(x y) + z, rounded once (R255). -/
def execFnma (d a b : BitVec 6) (t u : Bool) (w : BitVec 2) (m : BitVec 3) (s : State) : Host.Outcome State Fault Refusal :=
  scalarFma s (.fnma d a b t u w m) d a b w m true false

/-- `fsqrt` (R256). -/
def execFsqrt (d a : BitVec 6) (t : Bool) (w : BitVec 2) (m : BitVec 3) (s : State) : Host.Outcome State Fault Refusal :=
  scalar1 s (.fsqrt d a t w m) d a w m (latBy w 28 14 10) (fun f k _ x => f.sqrt k x)

/-- `frcp` (R256). -/
def execFrcp (d a : BitVec 6) (t : Bool) (w : BitVec 2) (m : BitVec 3) (s : State) : Host.Outcome State Fault Refusal :=
  scalar1 s (.frcp d a t w m) d a w m (latBy w 24 12 8) (fun f k _ x => f.rcp k x)

/-- `frsq` (R256). -/
def execFrsq (d a : BitVec 6) (t : Bool) (w : BitVec 2) (m : BitVec 3) (s : State) : Host.Outcome State Fault Refusal :=
  scalar1 s (.frsq d a t w m) d a w m (latBy w 24 12 8) (fun f k _ x => f.rsq k x)

/-- `fex2` (R256). -/
def execFex2 (d a : BitVec 6) (t : Bool) (w : BitVec 2) (m : BitVec 3) (s : State) : Host.Outcome State Fault Refusal :=
  scalar1 s (.fex2 d a t w m) d a w m (latBy w 40 20 12) (fun f k p x => f.ex2 k p x)

/-- `flg2` (R256). -/
def execFlg2 (d a : BitVec 6) (t : Bool) (w : BitVec 2) (m : BitVec 3) (s : State) : Host.Outcome State Fault Refusal :=
  scalar1 s (.flg2 d a t w m) d a w m (latBy w 40 20 12) (fun f k p x => f.lg2 k p x)

/-- `fsin` (R256). -/
def execFsin (d a : BitVec 6) (t : Bool) (w : BitVec 2) (m : BitVec 3) (s : State) : Host.Outcome State Fault Refusal :=
  scalar1 s (.fsin d a t w m) d a w m (latBy w 40 20 12) (fun f k p x => f.sinCos k p false x)

/-- `fcos` (R256). -/
def execFcos (d a : BitVec 6) (t : Bool) (w : BitVec 2) (m : BitVec 3) (s : State) : Host.Outcome State Fault Refusal :=
  scalar1 s (.fcos d a t w m) d a w m (latBy w 40 20 12) (fun f k p x => f.sinCos k p true x)

/-! ## Conversions (R257 to R259) -/

/-- Width in bits of an integer type code (R200). -/
def intTypeBits (i : BitVec 3) : Nat := 8 * 2 ^ (i.toNat % 4)
/-- The type is unsigned. -/
def intTypeUnsigned (i : BitVec 3) : Bool := i.toNat / 4 == 1

/-- A value rounded to an integer type: the 64-bit result and the flags (R53, R258). -/
def toInteger (mode : Nat) (i : BitVec 3) (x : FVal) : Word × Nat :=
  let n := intTypeBits i
  let uns := intTypeUnsigned i
  let hi : Int := if uns then (2 ^ n : Nat) - 1 else (2 ^ (n - 1) : Nat) - 1
  let lo : Int := if uns then 0 else -(2 ^ (n - 1) : Nat)
  let w := fun (z : Int) => wd (ofInt 64 z)
  match x with
  | .nan _ => (0, flagNv)
  | .inf neg => (w (if neg then lo else hi), flagNv)
  | .fin neg m e =>
    if 80 < e + bitLen m then (if m = 0 then (0, 0) else (w (if neg then lo else hi), flagNv))
    else
      let r := roundAt mode neg m e 0
      let z := signedMant neg r.1
      if hi < z then (w hi, flagNv)
      else if z < lo then (w lo, flagNv)
      else (w z, if r.2 then flagNx else 0)

/-- An integer of a type as a value; integer zero is +0. -/
def ofInteger (i : BitVec 3) (v : Word) : FVal :=
  let n := intTypeBits i
  let z : Int := if intTypeUnsigned i then (bits v 0 n : Int) else toSigned n v.toNat
  .fin (decide (z < 0)) z.natAbs 0

/-- `fcvt`: float to float (R257). -/
def execFcvt (d a : BitVec 6) (s : BitVec 2) (t : Bool) (w : BitVec 2) (m : BitVec 3) (st : State) : Host.Outcome State Fault Refusal :=
  floatInstr st (.fcvt d a s t w m) m 2 d (fun mode th => (fmtOfWidth w).round mode (th.fval (fmtOfWidth s) a))

/-- `fcvti`: float to integer (R258). -/
def execFcvti (d a : BitVec 6) (i : BitVec 3) (t : Bool) (w : BitVec 2) (m : BitVec 3) (s : State) : Host.Outcome State Fault Refusal :=
  issue s (.fcvti d a i t w m) (fun th =>
    match effMode m th with
    | none => floatTrap s th 2 modeTrap
    | some mode =>
      let r := toInteger mode i (th.fval (fmtOfWidth w) a)
      deliver s th r.2 2 (fun u => u.setG d r.1))

/-- `ficvt`: integer to float (R259). -/
def execFicvt (d a : BitVec 6) (i : BitVec 3) (t : Bool) (w : BitVec 2) (m : BitVec 3) (s : State) : Host.Outcome State Fault Refusal :=
  floatInstr s (.ficvt d a i t w m) m 2 d (fun mode th => (fmtOfWidth w).round mode (ofInteger i (th.gpr a)))

/-! ## FMISC (R260 to R263) -/

/-- x < y of two values that are not NaN, with -0 below +0 when `zeros` is set. -/
def ltVal (zeros : Bool) : FVal → FVal → Bool
  | .inf a, .inf b => a && !b
  | .inf a, _ => a
  | _, .inf b => !b
  | .fin n1 m1 e1, .fin n2 m2 e2 =>
    if m1 = 0 ∧ m2 = 0 then zeros && n1 && !n2
    else
      let e := min e1 e2
      decide (signedMant n1 m1 * 2 ^ (e1 - e).toNat < signedMant n2 m2 * 2 ^ (e2 - e).toNat)
  | _, _ => false

/-- `fmin` and `fmax`: one source pattern, or the canonical NaN (R260). -/
def minMax (f : Fmt) (larger : Bool) (p q : Nat) : Nat × Nat :=
  let x := f.decode p
  let y := f.decode q
  let fl := sigFlag [x, y]
  if x.isNan then (if y.isNan then f.canonicalNaN else q, fl)
  else if y.isNan then (p, fl)
  else if larger then (if ltVal true x y then q else p, fl)
  else (if ltVal true y x then q else p, fl)

/-- The condition of `fcmp` and its flag (R262). -/
def fcmpHolds (c : BitVec 3) (x y : FVal) : Bool × Nat :=
  let nan := x.isNan || y.isNan
  let eq := !nan && !(ltVal false x y) && !(ltVal false y x)
  match c.toNat with
  | 0 => (eq, sigFlag [x, y])
  | 1 => (!eq, sigFlag [x, y])
  | 2 => (!nan && ltVal false x y, if nan then flagNv else 0)
  | 3 => (!nan && (ltVal false x y || eq), if nan then flagNv else 0)
  | _ => (nan, sigFlag [x, y])

/-- The class bit of a pattern (R263). -/
def classOf (f : Fmt) (p : Nat) : Nat :=
  match f.decode p with
  | .nan true => 8
  | .nan false => 9
  | .inf true => 0
  | .inf false => 7
  | .fin neg m _ =>
    if m = 0 then (if neg then 3 else 4)
    else if m < 2 ^ f.m then (if neg then 2 else 5)
    else (if neg then 1 else 6)

/-- The pattern in a register's low bits. -/
def Thread.fpat (t : Thread) (f : Fmt) (r : Reg) : Nat := bits (t.gpr r) 0 f.size

/-- `fmin` (R260). -/
def execFmin (d a b : BitVec 6) (t u : Bool) (w : BitVec 2) (s : State) : Host.Outcome State Fault Refusal :=
  issue s (.fmin d a b t u w) (fun th =>
    let f := fmtOfWidth w
    let r := minMax f false (th.fpat f a) (th.fpat f b)
    deliver s th r.2 2 (fun z => z.setG d (wd r.1)))

/-- `fmax` (R260). -/
def execFmax (d a b : BitVec 6) (t u : Bool) (w : BitVec 2) (s : State) : Host.Outcome State Fault Refusal :=
  issue s (.fmax d a b t u w) (fun th =>
    let f := fmtOfWidth w
    let r := minMax f true (th.fpat f a) (th.fpat f b)
    deliver s th r.2 2 (fun z => z.setG d (wd r.1)))

/-- `fneg`: the sign bit inverted, no flag (R261). -/
def execFneg (d a : BitVec 6) (t : Bool) (w : BitVec 2) (s : State) : Host.Outcome State Fault Refusal :=
  issueLocal s (.fneg d a t w) 2 (fun th =>
    let f := fmtOfWidth w
    th.setG d (wd (Nat.xor (th.fpat f a) (2 ^ (f.size - 1)))))

/-- `fcmp` (R262). -/
def execFcmp (c p : BitVec 3) (a b : BitVec 6) (t u : Bool) (w : BitVec 2) (s : State) : Host.Outcome State Fault Refusal :=
  issue s (.fcmp c p a b t u w) (fun th =>
    let f := fmtOfWidth w
    let r := fcmpHolds c (th.fval f a) (th.fval f b)
    deliver s th r.2 2 (fun z => z.setP p r.1))

/-- `fclass` (R263). -/
def execFclass (d a : BitVec 6) (t : Bool) (w : BitVec 2) (s : State) : Host.Outcome State Fault Refusal :=
  issueLocal s (.fclass d a t w) 2 (fun th => th.setG d (wd (2 ^ classOf (fmtOfWidth w) (th.fpat (fmtOfWidth w) a))))

end Sys2Proof.Machine
end

