-- ==== Sys2Proof/Machine/EngineOps.lean ====
section
/-! DEFINITION. What every engine command shares (R303 to R308): its block, its ports into memory with the checks of R307,
reads and writes by aligned 8-byte unit (R178, R185), and its end: status word, arrival update, performed (R121, R166, R306). -/
namespace Sys2Proof.Machine

/-! ## Blocks and queues (R119, R303) -/

/-- Engine registers in the block of a command. -/
def blockSize : Instr → Nat
  | .cpy .. | .qnt .. | .slsend .. => 5
  | .gath .. | .scat .. => 6
  | .tld .. | .acst .. | .acld .. => 4
  | .mma .. => 3
  | _ => 0

/-- The queue code of a command. -/
def queueCode : Instr → Nat
  | .cpy _ _ _ _ q | .qnt _ _ _ _ q => if q then 1 else 0
  | .gath .. | .scat .. => 2
  | .slsend .. => 3
  | _ => 4

/-- The a and b registers of a command; g0 stands for an absent b. -/
def commandRegs : Instr → Reg × Reg
  | .cpy a b .. | .qnt a b .. | .gath a b .. | .scat a b .. | .slsend a b .. | .tld a b .. | .acst a b .. | .acld a b ..
  | .mma a b .. => (a, b)
  | .tclm a _ | .trel a _ | .aclr a _ => (a, 0)
  | _ => (0, 0)

/-- The depth of a queue. -/
def queueDepth (code : Nat) : Nat := if code = 4 then 8 else 16
/-- The guard scope and release scope of a queue (R119). -/
def queueScope (code : Nat) : Nat := if code = 4 then 2 else if code = 3 then 4 else 3
/-- The code of a queue number. -/
def codeOfQueue (q : Nat) : Nat := if q < 8192 then q % 8 else 4

/-- A block register. -/
def Command.reg (c : Command) (k : Nat) : Word := c.block.getD k 0

/-- Fields of the control register C (R304). -/
def ctlArrSpace (w : Word) : Nat := bits w 61 3
def ctlValueMode (w : Word) : Bool := bit w 60
def ctlStatus (w : Word) : Bool := bit w 59
def ctlArrOff (w : Word) : Nat := bits w 33 26
def ctlGuardSpace (w : Word) : Nat := bits w 30 3
def ctlGuardOff (w : Word) : Nat := bits w 4 26

/-- Fields of an engine pointer (R97, R308). -/
def ptrVa (p : Word) : Nat := bits p 0 48
def ptrFmt (p : Word) : Nat := bits p 48 5
def ptrLen (p : Word) : Nat := 2 ^ (bits p 53 3 + 2)

/-! ## Ports -/

/-- Where accesses are made from: the agent, its die, the address space, the windows, and of watch records the locator,
the agent kind and the launch number; the cores whose L1 drops what is written (R107, R134, R308); the lines about which a message for the
agent has had an error reply (R113). -/
structure Port where
  agent : Agent
  die   : Nat
  part  : Nat
  asid  : Nat
  super : Bool
  win   : Windows
  loc   : Nat
  kind  : Nat
  num   : Nat
  cores : List Nat
  refused : List Nat
  deriving DecidableEq, Repr

/-- The agent of a queue number. -/
def queueAgent (q : Nat) : Agent := if q < 8192 then .queue (q / 8) (q % 8) else .matrix ((q - 8192) / 4) ((q - 8192) % 4)
/-- The row of a q.mx number. -/
def rowOfQueue (q : Nat) : Nat := (q - 8192) / 4
/-- The gang of a q.mx number. -/
def gangOfQueue (q : Nat) : Nat := (q - 8192) % 4

/-- The port of a command. -/
def Command.port (c : Command) : Port where
  agent := queueAgent c.queue
  die := queueDie c.queue
  part := c.win.part
  asid := c.asid
  super := c.super
  win := c.win
  loc := c.owner % 131072
  kind := if codeOfQueue c.queue = 4 then 2 else if codeOfQueue c.queue = 3 then 3 else 1
  num := c.launch
  cores := if c.queue < 8192 then (if c.queue % 8 = 3 then [] else [c.queue / 8]) else span (4 * rowOfQueue c.queue) 4
  refused := c.refused

/-! ## Accesses -/

/-- An access that must wait, for a slice watch unit or for a message about its line (R111, R136): no status, it is not permitted
yet. -/
def Stop.wait : Stop := ⟨256, 0, 0⟩

/-- The byte that a port's read of a location gives above a frontier: a candidate of it, that of the move in progress where it names
one (R106, R185). -/
def Port.view (s : State) (q : Port) (F : Frontier) : View := fun x => seenByte s F s.picks (s.resolve q.agent x)

/-- A page of a port's access is walked through a line of the tables about which a message for the port has had an error reply (R113). -/
def Port.walkRefused (s : State) (q : Port) (a n : Nat) : Bool := (walkLines s q.die q.part q.asid a n).any q.refused.contains

/-- The n bytes at an offset from an engine pointer, checked (R307, R308) by an agent with a frontier, with the attributes of their pages; a
walk has to wait for a message about a line it reads. A read of a local space that is gone is outside its window (log entry 64). -/
def engPlaces (s : State) (q : Port) (F : Frontier) (space : Nat) (p : Word) (off n : Nat) (k : Kind) : Except Stop (List Nat × List Attrs) :=
  let a := ptrVa p + off
  if bits p 60 4 ≠ 0 then .error ⟨20, space, ptrVa p⟩
  else if space = 0 then
    if 2 ^ 48 < a + n then .error ⟨20, 0, a % 2 ^ 48⟩
    else if q.walkRefused s a n then .error ⟨24, 0, a⟩
    else if walkWaits s q.die q.part q.asid a n then .error Stop.wait
    else
      match checkGlobal s q.die q.part q.asid q.super k (some (bits p 56 4)) a n (q.view s F) with
      | .ok xs as => .ok (xs, as)
      | .absent va => .error ⟨21, 0, va⟩
      | .poisoned => .error ⟨24, 0, a⟩
      | .trap r => .error ⟨if r.cause = 8 then 21 else if r.cause = 9 then 22 else 23, 0, a⟩
  else
    match localBytes q.win space a n with
    | .ok xs => if k == .load && !(windowLive s q.win space) then .error ⟨19, space, a⟩ else .ok (xs, sameAttrs xs localAttrs)
    | .error r => .error ⟨if r.cause = 9 then 22 else 19, space, a⟩

/-- The translation units of a port's die hold the entries of the pages that it reaches, each walked where none is held and the walk can be
made (R105). -/
def engWalk (s : State) (q : Port) (space : Nat) (p : Word) (off n : Nat) : State :=
  let a := ptrVa p + off
  if space = 0 ∧ bits p 60 4 = 0 ∧ a + n ≤ 2 ^ 48 ∧ !(q.walkRefused s a n) ∧ !(walkWaits s q.die q.part q.asid a n) then fillTlbs s q.die q.part q.asid a n else s

/-- A list cut where a key changes. -/
def chunksBy {α : Type} (key : α → Nat) : List α → List (List α)
  | [] => []
  | x :: l =>
    match chunksBy key l with
    | (y :: c) :: r => if key x = key y then (x :: y :: c) :: r else [x] :: (y :: c) :: r
    | r => [x] :: r

/-- The lines of an engine's access, taken by its die (R111); where a message about one is under way, the access has to wait, and where one
for it has had an error reply, it fails (R113, R114). -/
def engTouch (s : State) (q : Port) (space va : Nat) (xs : List Nat) (as : List Attrs) (write : Bool) : Except Stop State :=
  if space ≠ 0 then .ok s
  else if (xs.zip as).any (fun e => e.2.c && q.refused.contains (e.1 / 64)) then .error ⟨24, 0, va⟩
  else if touchBusy s q.die xs as write then .error Stop.wait
  else
    let s := touch s q.die q.asid va xs as write
    if (xs.zip as).any (fun e => e.2.c && lineRefused s q.die (e.1 / 64)) then .error ⟨24, 0, va⟩ else .ok s

/-- The read of one unit's offsets: the state, the frontier and the bytes. Picks that may not be taken are passed over. -/
def readUnit (s : State) (q : Port) (space : Nat) (p : Word) (picks : List (Nat × Nat)) (F : Frontier) (offs : List Nat) :
    Except Stop (State × Frontier × List (Nat × Byte)) :=
  let lo := offs.headD 0
  match engPlaces s q F space p lo (offs.getLastD lo - lo + 1) .load with
  | .error e => .error e
  | .ok (xs, as) =>
    match engTouch s q space (ptrVa p + lo) xs as false with
    | .error e => .error e
    | .ok s =>
      let F := sawTags s q.agent (fun _ => false) F xs as
      let ys := offs.map (fun o => s.resolve q.agent (xs.getD (o - lo) 0))
      if ys.any s.poisoned then .error ⟨24, space, ptrVa p + lo⟩
      else
        let c := (chooseRead s F ys (picks.filter (fun e => ys.contains e.1))).getD (defaultChoice s F false ys)
        .ok (s, fRead s F c, (offs.zip ys).map (fun e => (e.1, choiceValue s c e.2)))

/-- What reads one after another come to: the state, the frontier, the bytes read, the units left, what stopped them. -/
structure ReadDone where
  st    : State
  front : Frontier
  bytes : List (Nat × Byte)
  rest  : Nat
  stop  : Option Stop
  deriving DecidableEq, Repr

/-- Reads unit by unit until one fails. -/
def readUnits (q : Port) (space : Nat) (p : Word) (picks : List (Nat × Nat)) : List (List Nat) → State → Frontier → List (Nat × Byte) → ReadDone
  | [], s, F, acc => ⟨s, F, acc, 0, none⟩
  | u :: us, s, F, acc =>
    let s := engWalk s q space p (u.headD 0) (u.getLastD 0 - u.headD 0 + 1)
    match readUnit s q space p picks F u with
    | .error e => ⟨s, F, acc, us.length + 1, some e⟩
    | .ok r => readUnits q space p picks us r.1 r.2.1 (acc ++ r.2.2)

/-- Offsets from a pointer by aligned 8-byte unit of the address. -/
def offUnits (p : Word) (offs : List Nat) : List (List Nat) := chunksBy (fun o => (ptrVa p + o) / 8) offs

/-- Offsets from a pointer read in order. -/
def readRun (s : State) (q : Port) (space : Nat) (p : Word) (picks : List (Nat × Nat)) (F : Frontier) (offs : List Nat) : ReadDone :=
  readUnits q space p picks (offUnits p offs) s F []

/-- A line that has been written leaves the L1 caches of some cores (R107): the lines of its place and, for a detached copy, of the
line it is a copy of. -/
def dropLines (s : State) (cores : List Nat) (xs : List Nat) : State :=
  { s with l1d := s.l1d.filter (fun l => !(cores.contains l.core && xs.any (fun x => bankOf x == 0 && x / 64 == l.pa))) }

/-- The queue whose commands an agent performs (R175). -/
def Agent.queueNum : Agent → Option Nat
  | .queue core code => some (8 * core + code)
  | .matrix row gang => some (8192 + 4 * row + gang)
  | _ => none

/-- A command's write, as it enters, merges into its queue's frontier (R185). -/
def queueSees (s : State) (a : Agent) (xs : List Nat) (id : Nat) : State :=
  match a.queueNum with
  | some q => { s with qfront := alSet s.qfront q (fMerge s ((alGet s.qfront q).getD []) (fWrite [] xs id)) }
  | none => s

/-- A write of some cells by an engine or a sluice lands, and its queue's frontier has it. -/
def landQueued (s : State) (a : Agent) (F : Frontier) (cells : List (Nat × Byte × Byte)) (top : Bool) (label : Frontier → Option Label) :
    State × Frontier :=
  let r := land { s with fresh := s.fresh + 1 } a F cells s.fresh top label
  (if r.2.2 then queueSees r.1 a (cells.map (fun c => s.resolve a c.1)) s.fresh else r.1, r.2.1)

/-- The write of one unit's cells (offset, value, mask), above a frontier. Storage that has been freed discards it (R383). The write
of one unit is one write for a watch record (log entry 64). -/
def writeUnit (s : State) (q : Port) (space : Nat) (p : Word) (F : Frontier) (cells : List (Nat × Byte × Byte)) :
    Except Stop (State × Frontier) :=
  let lo := (cells.headD (0, 0, 0)).1
  match engPlaces s q F space p lo ((cells.getLastD (lo, 0, 0)).1 - lo + 1) .store with
  | .error e => .error e
  | .ok (xs, as) =>
    if !(windowLive s q.win space) then .ok (s, F)
    else
      match engTouch s q space (ptrVa p + lo) xs as true with
      | .error e => .error e
      | .ok s =>
        let F := sawTags s q.agent (fun _ => false) F xs as
        let at0 := cells.map (fun c => (xs.getD (c.1 - lo) 0, c.2))
        let ys := at0.map (fun c => (s.resolve q.agent c.1, c.2))
        let locs := ys.map (·.1)
        let slice := if (attrAt as 0).c then some q.die else none
        if locs.any (fun x => s.poisoned x && !(bankOf x != 0 && coversWord ys)) then .error ⟨24, space, ptrVa p + lo⟩
        else if watchBlocked s locs slice q.kind then .error Stop.wait
        else
          let s := dropLines s q.cores (at0.map (·.1))
          let r := landQueued s q.agent F ys (ys.any (fun c => c.2.2 != 255#8)) (fun _ => none)
          .ok (watchWrite r.1 locs slice q.loc q.kind q.part q.num, r.2)

/-- What writes one after another come to: the state, the frontier, the units left, what stopped them. -/
structure WriteDone where
  st    : State
  front : Frontier
  rest  : Nat
  stop  : Option Stop
  deriving DecidableEq, Repr

/-- Writes unit by unit until one fails, or has to wait. -/
def writeCells (q : Port) (space : Nat) (p : Word) : List (List (Nat × Byte × Byte)) → State → Frontier → WriteDone
  | [], s, F => ⟨s, F, 0, none⟩
  | u :: us, s, F =>
    let s := engWalk s q space p (u.headD (0, 0, 0)).1 ((u.getLastD (0, 0, 0)).1 - (u.headD (0, 0, 0)).1 + 1)
    match writeUnit s q space p F u with
    | .error e => ⟨s, F, us.length + 1, some e⟩
    | .ok r => writeCells q space p us r.1 r.2

/-- Cells at offsets from a pointer by aligned 8-byte unit of the address. -/
def cellUnits (p : Word) (cells : List (Nat × Byte × Byte)) : List (List (Nat × Byte × Byte)) := chunksBy (fun c => (ptrVa p + c.1) / 8) cells

/-- Cells at offsets from a pointer written in order. -/
def writeRun (s : State) (q : Port) (space : Nat) (p : Word) (F : Frontier) (cells : List (Nat × Byte × Byte)) : WriteDone :=
  writeCells q space p (cellUnits p cells) s F

/-! ## A command's accesses in one move or in several (R174, R178, R185) -/

/-- What performing a command comes to: the state, its frontier, the bytes of its rule, its status. -/
structure Done where
  st     : State
  front  : Frontier
  bytes  : Nat
  status : Stop
  deriving DecidableEq, Repr

/-- The state with a command replaced. -/
def setCommand (s : State) (c : Command) : State := { s with cmds := s.cmds.map (fun x => if x.id == c.id then c else x) }

/-- The first units of some, all of them where no limit is set. -/
def someOf {α : Type} (units : Nat) (l : List α) : List α := if units = 0 then l else l.take units

/-- A command whose next access has to wait makes no move. -/
def mustWait (s : State) (c : Command) : Done ⊕ State := .inl ⟨s, c.front, 0, Stop.wait⟩

/-- The reads of a command: those of its units not yet read, or some of them; when all are made, or one has failed, it goes on. -/
def reading (s : State) (c : Command) (picks : List (Nat × Nat)) (units : Nat) (space : Nat) (p : Word) (all : List (List Nat))
    (k : State → Command → Done ⊕ State) : Done ⊕ State :=
  if c.ended.isSome || all.length ≤ c.nread then k s c
  else
    let now := someOf units (all.drop c.nread)
    let r := readUnits c.port space p picks now s c.front []
    let made := now.length - r.rest
    let failed := match r.stop with | some e => if e = Stop.wait then none else some e | none => none
    let c' := { c with front := r.front, buf := c.buf ++ r.bytes, nread := c.nread + made, ended := failed }
    if failed.isSome || all.length ≤ c'.nread then (if units = 0 then k r.st c' else .inr (setCommand r.st c'))
    else if made = 0 then mustWait s c
    else .inr (setCommand r.st c')

/-- The writes of a command: those of its units not yet written, or some of them; when all are made, or one has failed, it goes on. -/
def writing (s : State) (c : Command) (units : Nat) (space : Nat) (p : Word) (all : List (List (Nat × Byte × Byte)))
    (k : State → Command → Option Stop → Done ⊕ State) : Done ⊕ State :=
  let now := someOf units (all.drop c.nwrit)
  let w := writeCells c.port space p now s c.front
  let made := now.length - w.rest
  let c' := { c with front := w.front, nwrit := c.nwrit + made }
  match w.stop with
  | some e => if e ≠ Stop.wait then k w.st c' (some e) else if made = 0 then mustWait s c else .inr (setCommand w.st c')
  | none => if all.length ≤ c'.nwrit then k w.st c' none else .inr (setCommand w.st c')

/-! ## Runs of elements -/

/-- The byte read at an offset. -/
def byteAt (bs : List (Nat × Byte)) (o : Nat) : Byte := (alGet bs o).getD 0

/-- An element was read whole. -/
def placeRead (bs : List (Nat × Byte)) (pl : Place) : Bool := (span pl.byte pl.bytes).all (fun o => (alGet bs o).isSome)

/-- The bits of an element among the bytes read. -/
def codeAt (bs : List (Nat × Byte)) (pl : Place) : Nat := pl.extract ((span pl.byte pl.bytes).map (byteAt bs))

/-- The scale byte of an element's block; 0 where the format is not blocked. -/
def scaleAt (bs : List (Nat × Byte)) (pl : Place) : Nat := match pl.scale with | some o => (byteAt bs o).toNat | none => 0

/-- The offsets of elements a to a + n - 1 of a run, each block's scale byte before its payload. -/
def elemOffsets (f space len a n : Nat) : List Nat :=
  (span a n).foldl (fun acc i =>
    let pl := elemPlace f space len i
    let new := (match pl.scale with | some o => if i % len = 0 || i = a then [o] else [] | none => []) ++ span pl.byte pl.bytes
    acc ++ new.filter (fun o => acc.getLast? != some o)) []

/-- Cells with one more element: bytes shared with an earlier element are joined. -/
def putCell (cells : List (Nat × Byte × Byte)) (o : Nat) (v m : Byte) : List (Nat × Byte × Byte) :=
  match alGet cells o with
  | some c => alSet cells o (c.1 ||| v, c.2 ||| m)
  | none => alSet cells o (v, m)

/-- The cells of elements given with their places. -/
def elemCells (f space : Nat) (es : List (Place × Nat)) : List (Nat × Byte × Byte) :=
  es.foldl (fun cells e =>
    ((List.range e.1.bytes).zip (e.1.masked f space e.2)).foldl (fun cs m => putCell cs (e.1.byte + m.1) m.2.1 m.2.2) cells) []

/-- The bytes of a run of elements in a space, scale bytes and the whole last group of packed six-bit elements included; none
where a blocked count is no whole number of blocks (R166, R309). -/
def bytesIn (f space len count : Nat) : Option Nat :=
  if fmtBlocked f then
    if count % len = 0 then some (count / len * (1 + blockBytes f space len)) else none
  else if slotBits f space = 6 then some (3 * ceilDiv count 4)
  else some (ceilDiv (count * slotBits f space) 8)

/-- The bytes that a command's rule gives a run, where its formats and geometry fix them: for a space that is none, those of any
space where all agree (R166). -/
def runBytes (f space len count : Nat) : Option Nat :=
  if !(fmtValid f) then none
  else if space ≤ 4 then bytesIn f space len count
  else if bytesIn f 0 len count = bytesIn f 1 len count then bytesIn f 0 len count
  else none

/-- A blocked pointer that is not on a 64-byte boundary (R99). -/
def misaligned (p : Word) : Bool := fmtBlocked (ptrFmt p) && ptrVa p % 64 != 0

/-- The first check that fails. -/
def firstStop : List (Bool × Stop) → Option Stop
  | [] => none
  | (b, e) :: l => if b then some e else firstStop l

/-- Space, format and geometry failures. -/
def badSpace (sp : Nat) : Bool × Stop := (decide (5 ≤ sp), ⟨16, sp, 0⟩)
def badFormat (b : Bool) : Bool × Stop := (b, ⟨17, 0, 0⟩)
def badGeometry (b : Bool) : Bool × Stop := (b, ⟨18, 0, 0⟩)
def badAlign (p : Word) : Bool × Stop := (misaligned p, ⟨18, 0, ptrVa p⟩)

/-! ## The end of a command (R121, R166, R306) -/

/-- A status word. -/
def statusWord (e : Stop) : Word := wd (e.code + e.space * 256 + e.detail % 2 ^ 48 * 65536)

/-- The labels an arrival addition passes on: that of the write it adds to, where its own release meets it (R167). -/
def carried (s : State) (a : Agent) (scope : Nat) (F : Frontier) (x : Nat) : Frontier :=
  match labelOf (wsGet s x) (newestId (wsGet s x)) with
  | some l => if l.meets a scope then fMerge s F l.front else F
  | none => F

/-- The locations of an arrival or status word, none where its space is gone (R383). -/
def wordPlaces (s : State) (w : Windows) (space off : Nat) : Option (List Nat) :=
  match localBytes w space off 8 with
  | .ok xs => if windowLive s w space then some xs else none
  | .error _ => none

/-- The place of an arrival word among the events that one cycle orders (R167). -/
def arrivalPlace (s : State) (w : Windows) (c : Word) : Option Nat :=
  (if ctlArrSpace c = 0 then none else wordPlaces s w (ctlArrSpace c) (ctlArrOff c)).bind (·.head?)

/-- Updates of one word in one cycle are applied in rising order of queue code, then of the issuing locator (R167). -/
def arrivalRank (code loc : Nat) : Nat := code * 2 ^ 18 + loc

/-- A later update has been made to a command's arrival word in this cycle (R167). -/
def arrivalLate (s : State) (w : Windows) (c : Word) (rank : Nat) : Bool :=
  match arrivalPlace s w c with | some x => s.overtaken 3 x rank | none => false

/-- The status word is written, as a release where the sluice writes it. -/
def writeStatus (s : State) (a : Agent) (w : Windows) (c : Word) (F : Frontier) (scope : Option Nat) (v : Word) : State × Frontier :=
  match (if ctlStatus c then wordPlaces s w (ctlArrSpace c) (ctlArrOff c + 8) else none) with
  | none => (s, F)
  | some xs => landQueued s a F (cellsOf xs (toBytes 8 v.toNat)) false (fun G => scope.map (fun sc => ⟨G, sc, a⟩))

/-- The arrival word is updated: the value stored, or b added in one atomic move, as a release at a scope (R166, R167). -/
def updateArrival (s : State) (a : Agent) (w : Windows) (c v : Word) (F : Frontier) (scope b rank : Nat) : State × Frontier :=
  match (if ctlArrSpace c = 0 then none else wordPlaces s w (ctlArrSpace c) (ctlArrOff c)) with
  | none => (s, F)
  | some xs =>
    let s := s.ranked 3 (xs.headD 0) rank
    if ctlValueMode c then landQueued s a F (cellsOf xs (toBytes 8 v.toNat)) false (fun G => some ⟨G, scope, a⟩)
    else if xs.any s.poisoned then (s, F)
    else
      let id := s.fresh
      let s := { s with fresh := s.fresh + 1 }
      let old := ofBytes (xs.map (memGet s.mem))
      let G := fWrite F xs id
      let L := xs.foldl (fun G x => carried s a scope G x) G
      (queueSees (enterCells s F (cellsOf xs (toBytes 8 (old + b))) id true (some ⟨L, scope, a⟩)) a xs id, G)

/-- A performed command leaves its queue, and its issuing threads can join its frontier (R121, R185). -/
def retireCommand (s : State) (c : Command) (F : Frontier) : State :=
  let code := codeOfQueue c.queue
  let s := { s with cmds := s.cmds.filter (fun x => x.id != c.id) }
  let join := fun (t : Thread) => { t with joined := alSet t.joined code (fMerge s ((alGet t.joined code).getD []) F) }
  if code = 4 then
    match s.gangOf (rowOfQueue c.queue) (gangOfQueue c.queue) with
    | some g => gangCleanup (g.members.foldl (fun st m => st.mapThread m (fun t => if t.gang = some g.num then join t else t)) s) g.row g.num
    | none => s
  else s.mapThread c.owner join

/-- The rank of a command's arrival update. -/
def Command.arrivalRank (c : Command) : Nat := Machine.arrivalRank (codeOfQueue (c.queue % savedQueue)) (c.owner % 131072)

/-- The end of a command: its status word, its arrival update, performed. `b` is what its entered count makes it write; a
command entered with count 0 writes no status word (R123). -/
def endCommand (s : State) (c : Command) (F : Frontier) (b : Nat) (status : Stop) : State :=
  let ctl := c.reg 0
  let scope := queueScope (codeOfQueue c.queue)
  let a := queueAgent c.queue
  let r := if c.block.isEmpty || c.count = 0 then (s, F) else writeStatus s a c.win ctl F none (statusWord status)
  let r := if c.block.isEmpty then r else updateArrival r.1 a c.win ctl (c.reg 1) r.2 scope b c.arrivalRank
  retireCommand r.1 c r.2

end Sys2Proof.Machine
end

