-- ==== Sys2Proof/Machine/Transfers.lean ====
section
/-! DEFINITION. What `cpy`, `gath`, `scat` and `qnt` do when they are performed (R309, R310, R312 to R314). -/
namespace Sys2Proof.Machine

/-- A command that fails before its first access; b is the entered count where its rule has no value (R166). -/
def failStart (s : State) (c : Command) (b : Option Nat) (e : Stop) : Done := ⟨s, c.front, b.getD c.count, e⟩

/-- The status of a command whose accesses ended: the failure, else done with a detail. -/
def statusOf (w r : Option Stop) (detail : Nat) : Stop := (w.or r).getD ⟨0, 0, detail⟩

/-! ## Copy (R309) -/

/-- The formats and block lengths that `cpy` accepts. -/
def cpyFormats (sf df sl dl : Nat) : Bool :=
  fmtValid sf && fmtValid df &&
  (if sf = df then !(fmtBlocked sf) || sl == dl
   else !(fmtBlocked sf) && !(fmtBlocked df) &&
     ((decide (6 ≤ sf) && decide (6 ≤ df)) || (decide (1 ≤ sf) && decide (sf ≤ 5) && decide (1 ≤ df) && decide (df ≤ 5))))

/-- The destination bits of an element's bits. -/
def cpyCode (sf df x : Nat) : Nat :=
  if sf = df then x
  else
    match fmtFloat sf, fmtFloat df with
    | some f, some g => (g.round 0 (f.decode x)).1
    | _, _ => ofInt (fmtBits df) (toSigned (fmtBits sf) x)

/-- The first check of `cpy` that fails at its start. -/
def cpyStop (c : Command) : Option Stop :=
  let S := c.reg 2
  let D := c.reg 3
  let X := c.reg 4
  firstStop [badSpace (bits X 0 3), badSpace (bits X 4 3),
    badFormat (!(cpyFormats (ptrFmt S) (ptrFmt D) (ptrLen S) (ptrLen D))),
    badGeometry (bit X 3 || decide (128 ≤ X.toNat)), badGeometry (decide (2 ^ 32 ≤ c.count)),
    badGeometry (fmtBlocked (ptrFmt S) && c.count % ptrLen S != 0), badAlign S, badAlign D]

/-- The cells of elements a to a + n - 1 of the destination run. -/
def runCells (f space len : Nat) (es : List (Nat × Nat)) : List (Nat × Byte × Byte) :=
  elemCells f space (es.map (fun e => (elemPlace f space len e.1, e.2)))

/-- The cells `cpy` writes from the bytes it has read: the elements read whole, of blocked formats the blocks read whole. -/
def cpyCells (c : Command) : List (Nat × Byte × Byte) :=
  let S := c.reg 2
  let D := c.reg 3
  let X := c.reg 4
  let ss := bits X 0 3
  let ds := bits X 4 3
  let sf := ptrFmt S
  let df := ptrFmt D
  let sl := ptrLen S
  let dl := ptrLen D
  let n0 := ((List.range c.count).takeWhile (fun i => placeRead c.buf (elemPlace sf ss sl i))).length
  let n := if fmtBlocked sf then n0 / sl * sl else n0
  let code := fun i => cpyCode sf df (codeAt c.buf (elemPlace sf ss sl i))
  if fmtBlocked df then
    (List.range (n / dl)).flatMap (fun k =>
      let pl := elemPlace df ds dl (k * dl)
      (match pl.scale with | some o => [(o, BitVec.ofNat 8 (scaleAt c.buf (elemPlace sf ss sl (k * sl))), 255#8)] | none => []) ++
        runCells df ds dl ((span (k * dl) dl).map (fun i => (i, code i))))
  else
    let pad := if slotBits df ds = 6 && n == c.count then span n (4 * ceilDiv n 4 - n) else []
    runCells df ds dl ((List.range n).map (fun i => (i, code i)) ++ pad.map (fun i => (i, 0)))

/-- `cpy` performed. -/
def performCpy (s : State) (c : Command) (picks : List (Nat × Nat)) (units : Nat) : Done ⊕ State :=
  let S := c.reg 2
  let D := c.reg 3
  let X := c.reg 4
  let b := runBytes (ptrFmt D) (bits X 4 3) (ptrLen D) c.count
  match cpyStop c with
  | some e => .inl (failStart s c b e)
  | none =>
    reading s c picks units (bits X 0 3) S (offUnits S (elemOffsets (ptrFmt S) (bits X 0 3) (ptrLen S) 0 c.count)) (fun s c =>
      writing s c units (bits X 4 3) D (cellUnits D (cpyCells c)) (fun s c w => .inl ⟨s, c.front, b.getD c.count, statusOf w c.ended 0⟩))

/-! ## Gather and scatter (R310) -/

/-- How items done one after another, each whole in one move, end a move: the command is done, fails, waits, or goes on from item i. -/
def stepped (s0 : State) (c : Command) (from' i : Nat) (s : State) (F : Frontier) (all : Bool) (stop : Option Stop) (b : Nat) : Done ⊕ State :=
  match stop with
  | some e =>
    if e ≠ Stop.wait then .inl ⟨s, F, b, e⟩
    else if i = from' then mustWait s0 c
    else .inr (setCommand s { c with front := F, nwrit := i })
  | none => if all then .inl ⟨s, F, b, ⟨0, 0, 0⟩⟩ else .inr (setCommand s { c with front := F, nwrit := i })

/-- The first check of `gath` and `scat` that fails at its start. -/
def gathStop (c : Command) : Option Stop :=
  let B := c.reg 2
  let I := c.reg 3
  let L := c.reg 4
  let X := c.reg 5
  let f := ptrFmt B
  let six := f == 12 || f == 13
  firstStop [badSpace (bits X 0 3), badSpace (bits X 4 3), badSpace (bits X 8 3),
    badFormat (!(ptrFmt I == 4 || ptrFmt I == 5)),
    badFormat (!(f == ptrFmt L && decide (2 ≤ f) && (decide (f ≤ 11) || (six && bits X 0 3 != 0 && bits X 8 3 != 0)))),
    badGeometry (bit X 3 || bit X 7 || decide (2 ^ 11 ≤ X.toNat)), badGeometry (decide (2 ^ 24 < c.count))]

/-- Bytes of an element of a format of whole bytes. -/
def wholeSize (f : Nat) : Nat := ceilDiv (fmtBits f) 8

/-- One element after another, from element i: index, read, write; the element that stopped it is told. -/
def gathLoop (c : Command) (scatter : Bool) (picks : List (Nat × Nat)) : Nat → Nat → State → Frontier → State × Frontier × Nat × Option Stop
  | 0, i, s, F => (s, F, i, none)
  | n + 1, i, s, F =>
    let B := c.reg 2
    let I := c.reg 3
    let L := c.reg 4
    let X := c.reg 5
    let sz := wholeSize (ptrFmt B)
    let isz := wholeSize (ptrFmt I)
    let ix := readRun s c.port (bits X 4 3) I picks F (span (i * isz) isz)
    match ix.stop with
    | some e => (s, F, i, some e)
    | none =>
      let x := ofBytes (ix.bytes.map (·.2))
      let rd := if scatter then (bits X 8 3, L, i * sz) else (bits X 0 3, B, x * sz)
      let wr := if scatter then (bits X 0 3, B, x * sz) else (bits X 8 3, L, i * sz)
      let v := readRun ix.st c.port rd.1 rd.2.1 picks ix.front (span rd.2.2 sz)
      match v.stop with
      | some e => (s, F, i, some e)
      | none =>
        let keep := if fmtBits (ptrFmt B) = 6 then 63#8 else 255#8
        let w := writeRun v.st c.port wr.1 wr.2.1 v.front ((span wr.2.2 sz).zip (v.bytes.map (fun b => (b.2 &&& keep, 255#8))))
        match w.stop with
        | some e => if e = Stop.wait then (s, F, i, some e) else (w.st, w.front, i, some e)
        | none => gathLoop c scatter picks n (i + 1) w.st w.front

/-- `gath` or `scat` performed. -/
def performGath (s : State) (c : Command) (scatter : Bool) (picks : List (Nat × Nat)) (units : Nat) : Done ⊕ State :=
  let f := ptrFmt (if scatter then c.reg 2 else c.reg 4)
  match gathStop c with
  | some e => .inl (failStart s c (if 2 ≤ f ∧ f ≤ 13 then some (c.count * wholeSize f) else none) e)
  | none =>
    let left := c.count - c.nwrit
    let r := gathLoop c scatter picks (if units = 0 then left else min units left) c.nwrit s c.front
    let i := r.2.2.1
    stepped s c c.nwrit i r.1 r.2.1 (r.2.2.2.isNone && decide (c.count ≤ i)) r.2.2.2 (c.count * wholeSize f)

/-! ## The quantiser (R312 to R314) -/

/-- floor (log2 |x|) of a finite non-zero value. -/
def expOf : FVal → Option Int
  | .fin _ m e => if m = 0 then none else some (e + m.log2)
  | _ => none

/-- The sum of values: NaN where one is NaN or infinities of both signs meet, else exact. -/
def sumVals : List FVal → FVal
  | [] => .fin false 0 0
  | x :: l => l.foldl (fun a y => if a.isNan || y.isNan then .nan false else (addVal 0 a y).1) (if x.isNan then .nan false else x)

/-- The product of values. -/
def prodVal (x y : FVal) : FVal := if x.isNan || y.isNan then .nan false else (mulVal x y).1

/-- The number of 1 bits. -/
def onesCount (n : Nat) : Nat := ((List.range 16).filter n.testBit).length

/-- The exact value divided by the square root of h and rounded to binary32, nearest even. -/
def overRoot (h : Nat) : FVal → FVal
  | .nan _ => .nan false
  | .inf n => .inf n
  | .fin n m e =>
    if m = 0 then .fin n 0 0
    else
      -- m / sqrt h = sqrt (m^2 2^(2k) / h) / 2^k with enough bits, sticky below
      let k : Nat := 40
      let z := m * m * 2 ^ (2 * k)
      let r := isqrt (z / h)
      f32.decode (f32.roundExact 0 n r (e - (k : Int)) (r * r * h != z)).1

/-- Rotated element k of one aligned run of h values (R313). -/
def rotateAt (h : Nat) (xs : List FVal) (k : Nat) : FVal :=
  overRoot h (sumVals ((List.range h).map (fun j =>
    let x := xs.getD j (.fin false 0 0)
    if onesCount (Nat.land k j) % 2 = 1 then x.neg else x)))

/-- Values rotated in aligned runs of h; h = 0 leaves them. -/
def rotateRun (h : Nat) (xs : List FVal) : List FVal :=
  if h = 0 then xs
  else (List.range xs.length).map (fun i => rotateAt h ((xs.drop (i / h * h)).take h) (i % h))

/-- The Hadamard length of a code. -/
def hadLen (code : Nat) : Nat := if code = 0 then 0 else 8 * 2 ^ code

/-- The clip exponent c of a run (R313). -/
def clipExp (pct : Nat) (xs : List FVal) : Option Int :=
  let es := xs.filterMap expOf
  if es.isEmpty then none
  else
    let need := ceilDiv ((pct + 1) * es.length) 65536
    (es.filter (fun e => decide (need ≤ (es.filter (fun x => decide (x ≤ e))).length))).foldl (fun acc e =>
      match acc with | none => some e | some a => some (min a e)) none

/-- The top exponent of a typed block type. -/
def typeTop (t : Nat) : Int := if t = 0 ∨ t = 1 then 2 else 3
/-- The top exponent of a scaled format. -/
def fmtTop (f : Nat) : Int := match f with | 15 => 8 | 16 => 15 | 17 => 4 | _ => 2
/-- E of R313: clamped to 0 to 62. -/
def blockExp (s top : Int) : Nat := (max 0 (min 62 (s - top + 32))).toNat

/-- A non-negative amount m x 2^e. -/
abbrev Amount := Nat × Int
/-- Exact sum of amounts. -/
def addAmount (a b : Amount) : Amount :=
  let e := min a.2 b.2
  (a.1 * 2 ^ (a.2 - e).toNat + b.1 * 2 ^ (b.2 - e).toNat, e)
/-- The squared difference of two finite values; 0 where one is not finite. -/
def squareDiff (x y : FVal) : Amount :=
  match (addVal 0 x y.neg).1 with
  | .fin _ m e => (m * m, 2 * e)
  | _ => (0, 0)
/-- The squared error of a typed block under a scale byte, over its finite elements. -/
def typedError (sb : Nat) (xs : List FVal) : Amount :=
  (xs.filter (fun x => match x with | .fin .. => true | _ => false)).foldl (fun a x =>
    addAmount a (squareDiff (typedDecode sb (typedEncode sb x)) x)) (0, 0)

/-- The scale byte that typed output keeps: least error, lower type on a tie (R314). -/
def typedScale (types : Nat) (s : Int) (xs : List FVal) : Nat :=
  (((List.range 4).filter types.testBit).foldl (fun (best : Option (Nat × Amount)) t =>
    let sb := t * 64 + blockExp s (typeTop t)
    let err := typedError sb xs
    match best with
    | none => some (sb, err)
    | some b => if ltScaled err.1 err.2 b.2.1 b.2.2 then some (sb, err) else some b) none).elim 0 (·.1)

/-- A scaled element as `qnt` writes it: E5M2 saturates. -/
def quantElem (f sb : Nat) (x : FVal) : Nat :=
  if f = 14 then typedEncode sb x
  else
    match fmtFloat f with
    | none => 0
    | some g =>
      let c := scaledEncode g sb x
      match g.decode c with
      | .inf n => g.largest n
      | _ => c

/-- A block's scale byte and codes (R313). -/
def quantBlock (f types : Nat) (c : Option Int) (xs : List FVal) : Nat × List Nat :=
  if xs.any (·.isNan) then (0x3F, xs.map (fun _ => 0))
  else
    let m : Option Int := if xs.any (fun x => match x with | .inf _ => true | _ => false) then some 127
      else (xs.filterMap expOf).foldl (fun acc e => match acc with | none => some e | some a => some (max a e)) none
    match m with
    | none => (0, xs.map (fun _ => 0))
    | some m =>
      let s := match c with | none => m | some c => min m c
      let sb := if f = 14 then typedScale types s xs else blockExp s (fmtTop f)
      (sb, xs.map (quantElem f sb))

/-- The first check of `qnt` that fails at its start. -/
def qntStop (c : Command) : Option Stop :=
  let S := c.reg 2
  let D := c.reg 3
  let Q := c.reg 4
  let h := hadLen (bits Q 20 2)
  firstStop [badSpace (bits Q 24 3), badSpace (bits Q 28 3),
    badFormat (!(ptrFmt S == 7 || ptrFmt S == 8)), badFormat (!(decide (14 ≤ ptrFmt D) && decide (ptrFmt D ≤ 18))),
    badGeometry (decide (2 ^ 31 ≤ Q.toNat) || bit Q 27 || bits Q 22 2 != 0),
    badGeometry (ptrFmt D == 14 && bits Q 16 4 == 0),
    badGeometry (c.count % ptrLen D != 0 || (h != 0 && c.count % h != 0) || decide (2 ^ 22 < c.count)), badAlign D]

/-- The values `qnt` quantises, from the bytes it has read: decoded and rotated. -/
def qntValues (c : Command) : List FVal :=
  let Q := c.reg 4
  let sf := ptrFmt (c.reg 2)
  rotateRun (hadLen (bits Q 20 2)) ((List.range c.count).map (fun i => elemValue sf 0 (codeAt c.buf (elemPlace sf (bits Q 24 3) 0 i))))

/-- The cells `qnt` writes: block after block, a scale byte and its codes. -/
def qntCells (c : Command) (xs : List FVal) : List (Nat × Byte × Byte) :=
  let Q := c.reg 4
  let df := ptrFmt (c.reg 3)
  let ds := bits Q 28 3
  let len := ptrLen (c.reg 3)
  (List.range (c.count / len)).flatMap (fun k =>
    let blk := quantBlock df (bits Q 16 4) (clipExp (bits Q 0 16) xs) ((xs.drop (k * len)).take len)
    (match (elemPlace df ds len (k * len)).scale with | some o => [(o, BitVec.ofNat 8 blk.1, 255#8)] | none => []) ++
      runCells df ds len ((List.range len).map (fun j => (k * len + j, blk.2.getD j 0))))

/-- `qnt` performed: all its elements are read before it writes. -/
def performQnt (s : State) (c : Command) (picks : List (Nat × Nat)) (units : Nat) : Done ⊕ State :=
  let S := c.reg 2
  let D := c.reg 3
  let Q := c.reg 4
  let b := if fmtBlocked (ptrFmt D) then runBytes (ptrFmt D) (bits Q 28 3) (ptrLen D) c.count else none
  match qntStop c with
  | some e => .inl (failStart s c b e)
  | none =>
    reading s c picks units (bits Q 24 3) S (offUnits S (elemOffsets (ptrFmt S) (bits Q 24 3) 0 0 c.count)) (fun s c =>
      match c.ended with
      | some e => .inl ⟨s, c.front, b.getD c.count, e⟩
      | none =>
        let xs := qntValues c
        writing s c units (bits Q 28 3) D (cellUnits D (qntCells c xs)) (fun s c w =>
          .inl ⟨s, c.front, b.getD c.count, statusOf w none (ofInt 16 ((clipExp (bits Q 0 16) xs).getD (-32768)))⟩))

end Sys2Proof.Machine
end

