-- ==== Sys2Proof/Machine/Matrix.lean ====
section
/-! DEFINITION. What the q.mx commands do when they are performed: the larder (R94, R315, R316), the matrix operation
(R317 to R321) and the accumulators (R96, R323). The larder and accumulators are in no address space: their bytes are kept
as plain values without write sets. -/
namespace Sys2Proof.Machine

/-! ## The larder (R94, R316) -/

/-- K, rows and larder bytes per row of a tile format. -/
def tileShape (f : Nat) : Option (Nat × Nat × Nat) :=
  if f = 9 then some (64, 64, 512)
  else if f = 8 then some (64, 128, 256)
  else if f = 6 ∨ f = 7 then some (128, 128, 256)
  else if f = 14 then some (512, 128, 256)
  else if f ∈ [2, 10, 11, 15, 16, 12, 13, 17, 18] then some (256, 128, 256)
  else none

/-- The format of a slot that no `tld` has set. -/
def noFormat : Nat := 32

/-- A slot by row and number. -/
def State.slotOf (s : State) (row num : Nat) : Option Slot := s.slots.find? (fun x => x.row == row && x.num == num)
/-- The state with a slot replaced. -/
def State.setSlot (s : State) (x : Slot) : State :=
  { s with slots := s.slots.map (fun y => if y.row == x.row && y.num == x.num then x else y) }

/-- Bytes written to the larder or an accumulator. -/
def rawBytes (s : State) (x : Nat) (bs : List Byte) : State := ((span x bs.length).zip bs).foldl (fun st e => initByte st e.1 e.2) s

/-- `tclm` performed: the slot is claimed, zero and without format. -/
def performTclm (s : State) (c : Command) : Done :=
  let row := rowOfQueue c.queue
  let n := c.a.toNat
  let base := slotBase row n
  let s := zeroRange s base (base + 34816)
  ⟨{ s with slots := s.slots.filter (fun x => !(x.row == row && x.num == n)) ++ [⟨row, n, gangOfQueue c.queue, false, false, noFormat, 0⟩] },
    c.front, 0, ⟨0, 0, 0⟩⟩

/-- `trel` performed: the slot is free. -/
def performTrel (s : State) (c : Command) : Done :=
  ⟨{ s with slots := s.slots.filter (fun x => !(x.row == rowOfQueue c.queue && x.num == c.a.toNat)) }, c.front, 0, ⟨0, 0, 0⟩⟩

/-- Fields of W (R316). -/
def wSlot (w : Word) : Nat := bits w 52 5
def wRow0 (w : Word) : Nat := bits w 44 7
def wSpace (w : Word) : Nat := bits w 40 3
def wStride (w : Word) : Nat := bits w 0 40
/-- A reserved bit of W is set. -/
def wReserved (w : Word) : Bool := bits w 57 7 != 0 || bit w 51 || bit w 43

/-- The bytes of `tld`'s rule. -/
def tldBytes (f len count : Nat) : Option Nat :=
  match tileShape f with
  | none => none
  | some (k, _, rb) => if fmtBlocked f then (if k < len then none else some (count * (rb + k / len))) else some (count * rb)

/-- The first check of `tld` that fails at its start. A stride that would put a later row of blocks off a boundary of 64 bytes is a geometry of
its own, at the address of P (DESIGN CHOICE, log entry 64). -/
def tldStop (c : Command) : Option Stop :=
  let P := c.reg 2
  let W := c.reg 3
  let f := ptrFmt P
  let sh := (tileShape f).getD (0, 0, 0)
  firstStop [badSpace (wSpace W), badFormat (tileShape f).isNone, badGeometry (wReserved W),
    badGeometry (fmtBlocked f && (decide (sh.1 < ptrLen P) || decide (16 < sh.1 / ptrLen P))),
    badGeometry (decide (128 < c.count) || decide (sh.2.1 < wRow0 W + c.count)),
    badAlign P, (fmtBlocked f && decide (1 < c.count) && wStride W % 64 != 0, ⟨18, 0, ptrVa P⟩)]

/-- One row read and written to the larder, row after row; the row that stopped it is told. -/
def tldLoop (c : Command) (picks : List (Nat × Nat)) : Nat → Nat → State → Frontier → State × Frontier × Nat × Option Stop
  | 0, r, s, F => (s, F, r, none)
  | n + 1, r, s, F =>
    let P := c.reg 2
    let W := c.reg 3
    let f := ptrFmt P
    let len := ptrLen P
    let sh := (tileShape f).getD (0, 0, 0)
    let shift := r * wStride W
    let rd := readRun s c.port (wSpace W) P picks F ((elemOffsets f (wSpace W) len 0 sh.1).map (· + shift))
    match rd.stop with
    | some e => (if e = Stop.wait then s else rd.st, if e = Stop.wait then F else rd.front, r, some e)
    | none =>
      let s := rd.st
      let bs := rd.bytes.map (fun e => (e.1 - shift, e.2))
      let row := wRow0 W + r
      let base := slotBase (rowOfQueue c.queue) (wSlot W)
      let cells := elemCells f 1 ((List.range sh.1).map (fun k =>
        (plainPlace f 1 (row * sh.2.2) k none, codeAt bs (elemPlace f (wSpace W) len k))))
      let s := cells.foldl (fun st e => initByte st (base + e.1) e.2.1) s
      let s := if fmtBlocked f then
          rawBytes s (base + 32768 + 16 * row) ((List.range (sh.1 / len)).map (fun k =>
            BitVec.ofNat 8 (scaleAt bs (elemPlace f (wSpace W) len (k * len)))))
        else s
      tldLoop c picks n (r + 1) s rd.front

/-- `tld` performed: the slot is ready, with the pointer's format once its accesses have begun. -/
def performTld (s : State) (c : Command) (picks : List (Nat × Nat)) (units : Nat) : Done ⊕ State :=
  let P := c.reg 2
  let row := rowOfQueue c.queue
  let num := wSlot (c.reg 3)
  let b := tldBytes (ptrFmt P) (ptrLen P) c.count
  let x := (s.slotOf row num).getD ⟨row, num, gangOfQueue c.queue, false, false, noFormat, 0⟩
  match tldStop c with
  | some e => .inl (failStart (s.setSlot { x with loading := false }) c b e)
  | none =>
    let left := c.count - c.nwrit
    let r := tldLoop c picks (if units = 0 then left else min units left) c.nwrit s c.front
    let i := r.2.2.1
    match stepped s c c.nwrit i r.1 r.2.1 (r.2.2.2.isNone && decide (c.count ≤ i)) r.2.2.2 (b.getD c.count) with
    | .inl d => .inl { d with st := d.st.setSlot { x with loading := false, ready := true, fmt := ptrFmt P, blen := bits P 53 3 } }
    | .inr s => .inr s

/-! ## Reading a tile (R316, R320) -/

/-- The bits of element k of larder row i. -/
def tileCode (s : State) (x : Slot) (i k : Nat) : Nat :=
  let pl := plainPlace x.fmt 1 (i * ((tileShape x.fmt).getD (0, 0, 0)).2.2) k none
  pl.extract (peekBytes s (slotBase x.row x.num + pl.byte) pl.bytes)
/-- The scale byte of element k of larder row i. -/
def tileScale (s : State) (x : Slot) (i k : Nat) : Nat :=
  (memGet s.mem (slotBase x.row x.num + 32768 + 16 * i + k / 2 ^ (x.blen + 2))).toNat
/-- Row i of an operand: its K values, rotated where Hadamard is asked (R320). -/
def tileRow (s : State) (x : Slot) (h i : Nat) : List FVal :=
  let k := ((tileShape x.fmt).getD (0, 0, 0)).1
  rotateRun h ((List.range k).map (fun j => elemValue x.fmt (if fmtBlocked x.fmt then tileScale s x i j else 0) (tileCode s x i j)))

/-! ## The matrix operation (R317 to R321) -/

/-- Formats of a class (R318). -/
def classFormats (c : Nat) : List Nat :=
  match c with
  | 0 => [9]
  | 1 => [8]
  | 2 => [6, 7]
  | 3 => [10, 11, 15, 16]
  | 4 => [12, 13, 17, 18]
  | 5 => [2]
  | _ => [14]

/-- The base of an accumulator of a gang. -/
def accAt (row gang acc : Nat) : Nat := accBase row + 131072 * gang + 65536 * acc
/-- The key of an accumulator's poison mark. -/
def accKey (row gang acc : Nat) : Nat := row * 8 + 2 * gang + acc

/-- The pairs whose products group g of output (i, j) sums: A's and B's rows given; in complex mode an even column takes
the real sum and an odd one the imaginary sum (R319). -/
def groupTerms (complex : Bool) (j g : Nat) (as bs : List FVal) : List (FVal × FVal) :=
  let z : FVal := .fin false 0 0
  let a := fun k => as.getD k z
  let b := fun k => bs.getD k z
  if complex then
    (span (8 * g) 8).flatMap (fun m =>
      if j % 2 = 0 then [(a (2 * m), b (2 * m)), ((a (2 * m + 1)).neg, b (2 * m + 1))]
      else [(a (2 * m), b (2 * m + 1)), (a (2 * m + 1), b (2 * m))])
  else (span (16 * g) 16).map (fun k => (a k, b k))

/-- An integer value. -/
def valInt : FVal → Int
  | .fin n m e => signedMant n m * 2 ^ e.toNat
  | _ => 0

/-- An accumulator element after a group (R319). -/
def groupStep (cls old : Nat) (ts : List (FVal × FVal)) : Nat :=
  if cls = 0 then ts.foldl (fun acc p => (f64.fma 0 false false p.1 p.2 (f64.decode acc)).1) old
  else if cls = 5 then ofInt 32 ((old : Int) + (ts.map (fun p => valInt p.1 * valInt p.2)).sum)
  else
    let sg := (f32.round 0 (sumVals (ts.map (fun p => prodVal p.1 p.2)))).1
    (f32.add 0 (f32.decode old) (f32.decode sg)).1

/-- Eight times the value of a typed code, an integer (R321). -/
def typedEighths (sb c : Nat) : Int :=
  if scaleType sb = 0 then toSigned 4 c * 8 else signedMant (c / 8 % 2 == 1) (typedMag (scaleType sb) c)

/-- The term T of one element pair on the integer path; none where it is out of range (R321). -/
def intTerm (sa ca sb cb xsum : Nat) : Option Int :=
  let e : Int := (scaleExp sa : Int) + scaleExp sb - xsum
  if scaleExp sa = 63 ∨ scaleExp sb = 63 ∨ e < 0 ∨ 31 < e then none
  else some (typedEighths sa ca * typedEighths sb cb * 2 ^ e.toNat)

/-- Fields of M (R317). -/
def mXsum (m : Word) : Nat := bits m 24 8
def mIpath (m : Word) : Bool := bit m 19
def mHsize (m : Word) : Nat := bits m 17 2
def mAcc (m : Word) : Nat := bits m 16 1
def mB (m : Word) : Nat := bits m 8 5
def mA (m : Word) : Nat := bits m 0 5
/-- A reserved bit of M is set. -/
def mReserved (m : Word) : Bool := bits m 32 32 != 0 || bits m 20 4 != 0 || bits m 13 3 != 0 || bits m 5 3 != 0

/-- The new elements of one group: rows of the accumulator, each with its old value replaced; none on a range failure. -/
def mmaGroup (s : State) (row gang : Nat) (m : Word) (cls : Nat) (x h : Bool) (sa sb : Slot) (g : Nat) : Option State :=
  let n := if cls = 0 then 64 else 128
  let sz := if cls = 0 then 8 else 4
  let base := accAt row gang (mAcc m)
  let hl := if h then 16 * 2 ^ mHsize m else 0
  let ix := (List.range n).flatMap (fun i => (List.range n).map (fun j => (i, j)))
  if mIpath m then
    let terms := fun (p : Nat × Nat) => (span (16 * g) 16).map (fun k =>
      intTerm (tileScale s sa p.1 k) (tileCode s sa p.1 k) (tileScale s sb p.2 k) (tileCode s sb p.2 k) (mXsum m))
    if ix.any (fun p => (terms p).any (·.isNone)) then none
    else
      some (ix.foldl (fun st p =>
        let a := base + sz * (n * p.1 + p.2)
        rawBytes st a (toBytes sz (ofInt 32 ((peek s a sz : Int) + ((terms p).map (·.getD 0)).sum)))) s)
  else
    let as := (List.range n).map (tileRow s sa hl)
    let bs := (List.range n).map (tileRow s sb hl)
    some (ix.foldl (fun st p =>
      let a := base + sz * (n * p.1 + p.2)
      rawBytes st a (toBytes sz (groupStep cls (peek s a sz)
        (groupTerms x p.2 g (as.getD p.1 []) (bs.getD (if x then p.2 / 2 else p.2) []))))) s)

/-- The first check of `mma` that fails at its start (R318). -/
def mmaStop (s : State) (c : Command) (cls : Nat) : Option Stop :=
  let m := c.reg 2
  let row := rowOfQueue c.queue
  let ok := fun n => match s.slotOf row n with | some x => (classFormats cls).contains x.fmt | none => false
  firstStop [badFormat (!(ok (mA m) && ok (mB m))), badGeometry (mReserved m)]

/-- The bytes of an accumulator that `mma` writes (R322). -/
def mmaBytes (cls : Nat) : Nat := if cls = 0 then 8 * 64 * 64 else 4 * 128 * 128

/-- `s.pix` kgroups of every member of a gang (R75). -/
def setKgroups (s : State) (row gang k : Nat) : State :=
  match s.gangOf row gang with
  | some g => g.members.foldl (fun st m => st.mapThread m (fun t => if t.gang = some gang then { t with pix := setBits t.pix 16 16 k } else t)) s
  | none => s

/-- One group of an `mma`, or its failure: done only when its last group is; otherwise the state with the group made. -/
def performMma (s : State) (c : Command) (cls : Nat) (x h : Bool) : Done ⊕ State :=
  let m := c.reg 2
  let row := rowOfQueue c.queue
  let gang := gangOfQueue c.queue
  let b := mmaBytes cls
  match mmaStop s c cls, s.slotOf row (mA m), s.slotOf row (mB m) with
  | some e, _, _ => .inl (failStart s c (some b) e)
  | none, some sa, some sb =>
    let total := min c.count (((tileShape sa.fmt).getD (0, 0, 0)).1 / 16)
    match mmaGroup s row gang m cls x h sa sb c.kg with
    | none => .inl ⟨setKgroups s row gang 0, c.front, b, ⟨25, 0, 0⟩⟩
    | some s =>
      if total ≤ c.kg + 1 then .inl ⟨setKgroups s row gang 0, c.front, b, ⟨0, 0, 0⟩⟩
      else .inr { setKgroups s row gang (c.kg + 1) with cmds := s.cmds.map (fun y => if y.id == c.id then { y with kg := c.kg + 1 } else y) }
  | none, _, _ => .inl (failStart s c (some b) ⟨17, 0, 0⟩)

/-! ## The accumulators (R116, R323) -/

/-- A byte's line or local word becomes poisoned; no copy of the line is left in an L2 or an L1 (R114 to R116). -/
def poisonAt (s : State) (x : Nat) : State :=
  if bankOf x = 0 then (if (s.dirEntry (x / 64)).poison then s else poisonLine s (x / 64))
  else if s.poison.contains (poisonUnit x) then s
  else { s with poison := s.poison ++ [poisonUnit x] }

/-- `aclr` performed. -/
def performAclr (s : State) (c : Command) : Done :=
  let row := rowOfQueue c.queue
  let g := gangOfQueue c.queue
  let base := accAt row g c.a.toNat
  ⟨{ zeroRange s base (base + 65536) with accPoison := s.accPoison.filter (· != accKey row g c.a.toNat) }, c.front, 0, ⟨0, 0, 0⟩⟩

/-- The first check of `acst` and `acld` that fails at their start. -/
def accStop (c : Command) : Option Stop :=
  let W := c.reg 3
  firstStop [badSpace (wSpace W), badGeometry (wReserved W || bits W 53 4 != 0), badGeometry (decide (128 < wRow0 W + c.count))]

/-- The cells of accumulator rows from r on, row after row. -/
def acstCells (s : State) (c : Command) (r : Nat) : List (Nat × Byte × Byte) :=
  let W := c.reg 3
  let base := accAt (rowOfQueue c.queue) (gangOfQueue c.queue) (bits W 52 1)
  (List.range 512).map (fun j => (r * wStride W + j, memGet s.mem (base + 512 * (wRow0 W + r) + j), 255#8))

/-- The places of a written unit become poisoned, but for storage that is gone (R116, R383). -/
def poisonCells (s : State) (q : Port) (F : Frontier) (space : Nat) (p : Word) (u : List (Nat × Byte × Byte)) : State :=
  if !(windowLive s q.win space) then s
  else
    match engPlaces s q F space p (u.headD (0, 0, 0)).1 u.length .store with
    | .ok (xs, _) => xs.foldl (fun st x => poisonAt st (s.resolve q.agent x)) s
    | .error _ => s

/-- The rows of an `acst` in the units in which they are written. -/
def acstUnits (s : State) (c : Command) : List (List (Nat × Byte × Byte)) :=
  (List.range c.count).flatMap (fun r => cellUnits (c.reg 2) (acstCells s c r))

/-- `acst` performed: rows written in ascending order, poisoned where the accumulator is. -/
def performAcst (s : State) (c : Command) (units : Nat) : Done ⊕ State :=
  match accStop c with
  | some e => .inl (failStart s c (some (512 * c.count)) e)
  | none =>
    let P := c.reg 2
    let sp := wSpace (c.reg 3)
    let all := acstUnits s c
    let bad := s.accPoison.contains (accKey (rowOfQueue c.queue) (gangOfQueue c.queue) (bits (c.reg 3) 52 1))
    let spoil := fun (s : State) => if bad then all.foldl (fun st u => poisonCells st c.port c.front sp P u) s else s
    -- a poisoned accumulator's rows are written in one move, so that no line poisoned here stops the next unit of it
    writing s c (if bad then 0 else units) sp P all (fun s c' w =>
      .inl ⟨if w.isSome then (if bad then (all.take c'.nwrit).foldl (fun st u => poisonCells st c.port c.front sp P u) s else s) else spoil s,
        c'.front, 512 * c.count, statusOf w none 0⟩)

/-- Rows read into an accumulator, row after row; the row that stopped it is told. -/
def acldLoop (c : Command) (picks : List (Nat × Nat)) : Nat → Nat → State → Frontier → State × Frontier × Nat × Option Stop
  | 0, r, s, F => (s, F, r, none)
  | n + 1, r, s, F =>
    let W := c.reg 3
    let rd := readRun s c.port (wSpace W) (c.reg 2) picks F (span (r * wStride W) 512)
    match rd.stop with
    | some e => (if e = Stop.wait then s else rd.st, if e = Stop.wait then F else rd.front, r, some e)
    | none =>
      let base := accAt (rowOfQueue c.queue) (gangOfQueue c.queue) (bits W 52 1)
      acldLoop c picks n (r + 1) (rawBytes rd.st (base + 512 * (wRow0 W + r)) (rd.bytes.map (·.2))) rd.front

/-- `acld` performed: the accumulator's rows are read and its poison mark is cleared. -/
def performAcld (s : State) (c : Command) (picks : List (Nat × Nat)) (units : Nat) : Done ⊕ State :=
  match accStop c with
  | some e => .inl (failStart s c (some (512 * c.count)) e)
  | none =>
    let left := c.count - c.nwrit
    let r := acldLoop c picks (if units = 0 then left else min units left) c.nwrit s c.front
    let i := r.2.2.1
    let key := accKey (rowOfQueue c.queue) (gangOfQueue c.queue) (bits (c.reg 3) 52 1)
    let all := r.2.2.2.isNone && decide (c.count ≤ i)
    stepped s c c.nwrit i (if all then { r.1 with accPoison := r.1.accPoison.filter (· != key) } else r.1) r.2.1 all r.2.2.2 (512 * c.count)

/-- A soft error of the row's matrix stores met by a command: 2 corrected, 5 uncorrectable (R116, R173). -/
def rowSoft (s : State) (c : Command) (acc : Option Nat) (soft : Nat) : State :=
  if soft = 2 ∨ soft = 5 then
    let row := rowOfQueue c.queue
    let s := { s with rowErr := alSet s.rowErr row (satInc ((alGet s.rowErr row).getD 0)) }
    match acc with
    | some a =>
      let k := accKey row (gangOfQueue c.queue) a
      if soft = 5 && !(s.accPoison.contains k) then { s with accPoison := s.accPoison ++ [k] } else s
    | none => s
  else s

end Sys2Proof.Machine
end

