-- ==== Sys2Proof/Machine/System.lean ====
section
/-! DEFINITION. System and engine register moves, spawning, tag allocation and queue status (R25, R55, R70 to R79, R125,
R156, R246, R247, R292, R293, R327, R329). -/
namespace Sys2Proof.Machine

/-! ## System registers (R70 to R79) -/

/-- The fields of a word that a write replaces: n bits from lo. -/
def keepBits (v : Word) (lo n : Nat) : Word := setBits 0 lo n (bits v lo n)

/-- A system register number of R70. -/
def sysNumber (n : Nat) : Bool := decide (n ≤ 8) || (decide (0x10 ≤ n) && decide (n ≤ 0x1A)) || n == 0x20 || n == 0x21

/-- A user-level read traps: `s.save0` and `s.save1`. -/
def sysReadTraps (n : Nat) : Bool := n == 0x16 || n == 0x17

/-- A user-level write traps (R70). -/
def sysWriteTraps (n : Nat) : Bool := n == 1 || n == 8 || (decide (0x10 ≤ n) && decide (n ≤ 0x1A))

/-- The value `mfs` reads (R71 to R80); its own issue has cleared watch_skip (R72). -/
def readSys (s : State) (loc : Nat) (t : Thread) (n : Nat) : Word :=
  let c := s.core (coreOf loc)
  match n with
  | 0x00 => wd t.here.toNat
  | 0x01 => setBits t.status 3 1 0
  | 0x02 => wd loc
  | 0x03 => t.gid
  | 0x04 => t.launch
  | 0x05 => wd t.part
  | 0x06 => t.fcsr
  | 0x07 => t.alcove
  | 0x08 => t.pix
  | 0x10 => c.tvec
  | 0x11 => t.tfp
  | 0x12 => c.tfbase
  | 0x13 => t.cause
  | 0x14 => t.info
  | 0x15 => t.faddr
  | 0x16 => t.save0
  | 0x17 => t.save1
  | 0x18 => t.watch0
  | 0x19 => t.watch1
  | 0x1A => c.merge
  | 0x20 => s.time
  | 0x21 => t.cyc
  | _ => 0

/-- What a write stores in `s.merge` (R25). -/
def mergeWord (v : Word) : Word :=
  let w := bits v 8 8
  wd ((if w < 8 then 8 else if 128 < w then 128 else w) * 256 + bits v 0 1)

/-- What a write stores in `s.alcove`: floor first, then csp against the floor that results (R74). -/
def alcoveAfter (old v : Word) : Word :=
  let size := bits old 16 16
  let f := bits v 32 16
  let floor := if f % 8 = 0 ∧ f ≤ size then f else bits old 32 16
  let p := bits v 0 16
  let csp := if p % 8 = 0 ∧ floor ≤ p ∧ p ≤ size then p else bits old 0 16
  setBits (setBits old 32 16 floor) 0 16 csp

/-- What a write stores in `s.status`: watch_skip and in_trap (R72). -/
def statusAfter (old v : Word) : Word := setBits old 2 2 (bits v 2 2)

/-- What a write stores in a watchpoint register: bits [54:48] are reserved (R79). -/
def watchWord (v : Word) : Word := setBits v 48 7 0

/-- What a write stores in `s.fcsr` (R55). -/
def fcsrWord (v : Word) : Word := keepBits v 0 10 ||| keepBits v 12 3

/-- A write of a system register; read-only registers ignore it (R71). A per-core register takes its value from the next cycle,
a trap entered in this one uses the old (R292); `s.merge` acts from the next pick (R25). -/
def writeSys (s : State) (loc : Nat) (n : Nat) (v : Word) : State :=
  let th := fun (f : Thread → Thread) => s.mapThread loc f
  let co := fun (f : Core → Core) => s.mapCore (coreOf loc) f
  match n with
  | 0x01 => th (fun t => { t with status := statusAfter t.status v })
  | 0x06 => th (fun t => { t with fcsr := fcsrWord v })
  | 0x07 => th (fun t => { t with alcove := alcoveAfter t.alcove v })
  | 0x08 => th (fun t => { t with pix := setBits t.pix 0 16 (bits v 0 16) })
  | 0x10 => co (fun c => { c with tvecNext := some (keepBits v 2 46) })
  | 0x11 => th (fun t => { t with tfp := setBits v 0 9 0 })
  | 0x12 => co (fun c => { c with tfbaseNext := some (keepBits v 9 39) })
  | 0x13 => th (fun t => { t with cause := keepBits v 0 16 })
  | 0x14 => th (fun t => { t with info := v })
  | 0x15 => th (fun t => { t with faddr := v })
  | 0x16 => th (fun t => { t with save0 := v })
  | 0x17 => th (fun t => { t with save1 := v })
  | 0x18 => th (fun t => { t with watch0 := watchWord v })
  | 0x19 => th (fun t => { t with watch1 := watchWord v })
  | 0x1A => co (fun c => { c with merge := mergeWord v })
  | _ => s

/-- A register-write operation of the current thread. -/
def writeOp (s : State) (n : Nat) (v : Word) : Host.Outcome State Fault Refusal :=
  match s.thread s.cur with
  | none => .fault .noThread
  | some _ => .next (writeSys s s.cur n v)

/-- The write of `s.merge` (R25). -/
def execSMergeWrite (v : BitVec 64) (s : State) : Host.Outcome State Fault Refusal :=
  writeOp s 0x1A v

/-- The write of `s.alcove` (R74). -/
def execSAlcoveWrite (v : BitVec 64) (s : State) : Host.Outcome State Fault Refusal :=
  writeOp s 0x07 v

/-- The write of `s.status`: priv is ignored (R72). -/
def execSStatusWrite (v : BitVec 64) (s : State) : Host.Outcome State Fault Refusal :=
  writeOp s 0x01 v

/-- The write of a system register by number (R292). -/
def execSystemRegisterWrite (n : BitVec 12) (v : BitVec 64) (s : State) : Host.Outcome State Fault Refusal :=
  writeOp s n.toNat v

/-- `mfs`: reads a system register (R70, R71, R292). -/
def execMfs (d : BitVec 6) (n : BitVec 12) (s : State) : Host.Outcome State Fault Refusal :=
  issue s (.mfs d n) (fun th =>
    let k := n.toNat
    if !(sysNumber k) then .next (s.trap th (illegal 0 k))
    else if sysReadTraps k && !th.super then .next (s.trap th ⟨2, 0, wd s.ir.toNat, 0⟩)
    else .next (s.put ((th.setG d (readSys s s.cur th k)).advance s.time 2)))

/-- `mts`: writes a system register; the write takes effect for the next instruction (R70, R71, R292). -/
def execMts (a : BitVec 6) (t : Bool) (n : BitVec 12) (s : State) : Host.Outcome State Fault Refusal :=
  issue s (.mts a t n) (fun th =>
    let k := n.toNat
    if !(sysNumber k) then .next (s.trap th (illegal 0 k))
    else if sysWriteTraps k && !th.super then .next (s.trap th ⟨2, 0, wd s.ir.toNat, 0⟩)
    else .next (writeSys (s.put (th.advance s.time 1)) s.cur k (th.gpr a)))

/-- `mfe`: reads an engine register (R293). -/
def execMfe (d : BitVec 6) (k : BitVec 4) (s : State) : Host.Outcome State Fault Refusal :=
  issueLocal s (.mfe d k) 1 (fun th => th.setG d (th.eReg k))

/-- `mte`: writes an engine register (R69, R293). -/
def execMte (k : BitVec 4) (a : BitVec 6) (t : Bool) (s : State) : Host.Outcome State Fault Refusal :=
  issueLocal s (.mte k a t) 1 (fun th => { th with e := th.e.set k.toNat (th.gpr a) })

/-! ## Spawning (R246, R247) -/

/-- A `spawn` at its issue: checks, g1 to g4, SB(t) empty, then the entry and the message (R187, R246). -/
def spawnNow (s : State) (i : Instr) (d a b : Reg) (cluster : Bool) : Host.Outcome State Fault Refusal :=
  issue s i (fun th =>
    let h := th.gpr a
    let x := th.gpr b
    match spawnTrap s th h x cluster with
    | some r => .next (s.trap th r)
    | none =>
      match argsGate th with
      | .trap r => .next (s.trap th r)
      | .stall => s.stalled th
      | .go =>
        if !th.sb.isEmpty then s.stalled th
        else
          let e := { entryFor s th h x 0 d 0 with flight := .sent }
          let s := { s with fresh := s.fresh + 1 }
          takeEntry (sendSpawn s (spawnMessage s s.cur th h x cluster e.id)) th e 1)

/-- `spawn`: a message to one core (R246). -/
def execSpawn (d a b : BitVec 6) (t u : Bool) (s : State) : Host.Outcome State Fault Refusal :=
  spawnNow s (.spawn d a b t u) d a b false

/-- `spawn.cl`: a message to the lowest core of a cluster with a free inbox entry (R246). -/
def execSpawnCl (d a b : BitVec 6) (t u : Bool) (s : State) : Host.Outcome State Fault Refusal :=
  spawnNow s (.spawnCl d a b t u) d a b true

/-! ## Tag ranges (R156, R327) -/

/-- Entry k of a partition's tag-range table: base, units, orphan exponent, launch, live. -/
structure TagRange where
  index  : Nat
  base   : Nat
  units  : Nat
  k      : Nat
  launch : Nat
  deriving DecidableEq, Repr

/-- The live ranges of a partition. -/
def tagRanges (s : State) (p : Partition) : List TagRange :=
  (List.range 4096).filterMap (fun i =>
    let w := peek s (p.tagtab + 16 * i + 8) 8
    if w % 2 = 1 then some ⟨i, peek s (p.tagtab + 16 * i) 8 % 2 ^ 32, w / 2 % 2 ^ 16, w / 2 ^ 17 % 32, w / 2 ^ 26 % 2 ^ 16⟩ else none)

/-- The live range that holds a tag. -/
def rangeOf (s : State) (p : Partition) (tag : Nat) : Option TagRange :=
  (tagRanges s p).find? (fun r => decide (r.base ≤ tag) && decide (tag < r.base + 64 * r.units))

/-- The lowest free base for some units: 0 or the end of a live range. -/
def freeBase (rs : List TagRange) (units : Nat) : Option Nat :=
  let ok := fun (b : Nat) => decide (b + 64 * units ≤ 2 ^ 32) &&
    rs.all (fun r => decide (b + 64 * units ≤ r.base) || decide (r.base + 64 * r.units ≤ b))
  ((0 :: rs.map (fun r => r.base + 64 * r.units)).filter ok).foldl (fun acc b =>
    match acc with | none => some b | some a => some (min a b)) none

/-- The lowest entry of the table that is not live. -/
def freeEntry (rs : List TagRange) : Option Nat := (List.range 4096).find? (fun i => !(rs.any (fun r => r.index == i)))

/-- The words of a table entry. -/
def tagWords (base units k launch : Nat) (live : Bool) : List Byte :=
  toBytes 8 base ++ toBytes 8 (live.toNat + 2 * units + k * 2 ^ 17 + launch * 2 ^ 26)

/-- An allocation: the table written and the result of R327. Where several of its failures hold, the count's comes first, then that of the
timeout, then the want of room (DESIGN CHOICE, log entry 64). -/
def allocateTags (s : State) (p : Partition) (n k launch : Nat) : State × Word :=
  if n = 0 ∨ 65536 < n then (s, 0x8000000000000002)
  else if k < 10 ∨ 30 < k then (s, 0x8000000000000003)
  else
    let units := ceilDiv n 64
    let rs := tagRanges s p
    match freeBase rs units, freeEntry rs with
    | some b, some i => (devWrite s (p.tagtab + 16 * i) (tagWords b units k launch true) none, wd b)
    | _, _ => (s, 0x8000000000000001)

/-- `taga`: asks memory die 0 for a range of tags (R327). -/
def execTaga (d a b : BitVec 6) (t u : Bool) (s : State) : Host.Outcome State Fault Refusal :=
  issue s (.taga d a b t u) (fun th => takeEntry s th (entryFor s th (th.gpr a) (th.gpr b) 0 d 0) 1)

/-- Memory die 0 performs an allocation: the entry is done with its result. Those of one cycle are performed in rising order of the
locator (R81, R156, R327). -/
def execTagAllocation (loc entry : Nat) (s : State) : Host.Outcome State Fault Refusal :=
  match s.thread loc with
  | none => noMove s
  | some t =>
    match t.replay.find? (fun e => e.id == entry && e.state == .pending && e.mark.isNone && (match e.instr with | some i => i.isTaga | none => false)),
        s.partition t.part with
    | some e, some p =>
      if s.overtaken 1 t.part loc then noMove s
      else
        let r := allocateTags s p e.src1.toNat e.src2.toNat t.launchNum
        .next ((r.1.ranked 1 t.part loc).setThread loc (t.mapEntry e.id (fun x => { x with state := .done, flight := .read, value := r.2 })))
    | _, _ => noMove s

/-! ## Queue status (R125, R329) -/

/-- The queue status word: depth, the thread's entries (the gang's for q.mx), entries in use. -/
def queueStatus (s : State) (loc : Nat) (t : Thread) (code : Nat) : Word :=
  let depth := if code = 4 then 8 else 16
  match queueOf loc t code with
  | none => wd (depth * 65536)
  | some q =>
    let used := s.cmds.filter (fun c => c.queue == q)
    let mine := if code = 4 then used else used.filter (fun c => c.owner == loc)
    wd (depth * 65536 + mine.length * 256 + used.length)

/-- `qstat`: the status word of a queue (R125, R329). -/
def execQstat (d : BitVec 6) (q : BitVec 3) (s : State) : Host.Outcome State Fault Refusal :=
  issue s (.qstat d q) (fun th => .next (s.put ((th.setG d (queueStatus s s.cur th q.toNat)).advance s.time 2)))

end Sys2Proof.Machine
end

