-- ==== Sys2Proof/Machine/Sluice.lean ====
section
/-! DEFINITION. The sluice (R157 to R160, R186, R324 to R328): sending an operand, its slice, meeting, overflow, orphans and
`tagf`. -/
namespace Sys2Proof.Machine

/-! ## Sending (R157, R324) -/

/-- The slice of a partition's tag: die x 192 + slice (R157). -/
def meetingSlice (p : Partition) (tag : Nat) : Nat :=
  let h := (tag * 0x9E3779B1 + p.num * 0x85EBCA6B) % 2 ^ 32
  let ds := p.dies
  (ds.getD (h / 65536 % ds.length) 0) * 192 + h % 65536 % 192

/-- Fields of X of `slsend`. -/
def xTag (x : Word) : Nat := bits x 32 32
def xOp (x : Word) : Nat := bits x 8 4
def xDst (x : Word) : Nat := bits x 4 3
def xSrc (x : Word) : Nat := bits x 0 3
/-- A reserved bit of X is set. -/
def xReserved (x : Word) : Bool := bits x 12 20 != 0 || bit x 7 || bit x 3
/-- Bytes written to D when the operands meet. -/
def metBytes (op n : Nat) : Nat := if op = 8 then 2 * n else n

/-- n bytes from an engine pointer page by page, or whole in a local window: offsets and lengths. -/
def pagesOf (space : Nat) (p : Word) (n : Nat) : List (Nat × Nat) :=
  if space = 0 then (pieces (ptrVa p) n).map (fun e => (e.1 - ptrVa p, e.2)) else [(0, n)]

/-- D is checked page by page, or whole in a local window, as a write (R324). -/
def checkDest (s : State) (q : Port) (F : Frontier) (space : Nat) (p : Word) (n : Nat) : Option Stop :=
  (pagesOf space p n).foldl (fun acc e =>
    match acc with
    | some x => some x
    | none => match engPlaces s q F space p e.1 e.2 .store with | .error x => some x | .ok _ => none) none

/-- The first check of `slsend` that fails at its start, D's among them; none once O is being read. -/
def slsendStop (s : State) (c : Command) : Option Stop :=
  let X := c.reg 4
  if c.nread ≠ 0 ∨ c.ended.isSome then none
  else (firstStop [(decide (8192 < c.count) || c.count % 4 != 0 || decide (8 < xOp X), ⟨6, 0, 0⟩), badGeometry (xReserved X),
    badSpace (xSrc X), badSpace (xDst X)]).or (checkDest s c.port c.front (xDst X) (c.reg 3) (metBytes (xOp X) c.count))

/-- A `slsend` whose operand has been sent and whose outcome is still to come: kg counts its send. -/
def Command.sent (c : Command) : Bool := decide (c.queue % savedQueue < 8192) && c.kg != 0

/-- Two commands of one core queue, or of one row's array. -/
def sameLane (a b : Command) : Bool :=
  if a.queue < 8192 ∨ b.queue < 8192 then a.queue == b.queue else rowOfQueue a.queue == rowOfQueue b.queue

/-- A command's thread, or a member of its gang, is stopped at its group's deadline: what is queued then is saved unperformed (R39, R40, R124,
R242). -/
def ownerForced (s : State) (c : Command) : Bool :=
  let forced := fun (m : Nat) => match s.thread m with | some t => t.stopped s m | none => false
  if c.queue < 8192 then forced c.owner
  else match s.gangOf (rowOfQueue c.queue) (gangOfQueue c.queue) with | some g => g.members.any forced | none => false

/-- The runs of locations that some bytes at an engine pointer occupy: start and length. -/
def placeRuns (s : State) (q : Port) (F : Frontier) (space : Nat) (p : Word) (n : Nat) (k : Kind) : List (Nat × Nat) :=
  (pagesOf space p n).filterMap (fun e => match engPlaces s q F space p e.1 e.2 k with | .ok (x :: _, _) => some (x, e.2) | _ => none)

/-- Two lists of runs share a location. -/
def overlap (a b : List (Nat × Nat)) : Bool := a.any (fun x => b.any (fun y => decide (x.1 < y.1 + y.2) && decide (y.1 < x.1 + x.2)))

/-- What the outcome of a sent `slsend` is going to write: its destination, its arrival and its status word. -/
def sentRuns (s : State) (c : Command) : List (Nat × Nat) :=
  let ctl := c.reg 0
  let word := fun (off : Nat) => (wordPlaces s c.win (ctlArrSpace ctl) off).toList.map (fun xs => ((xs.headD 0, 8) : Nat × Nat))
  placeRuns s c.port c.front (xDst (c.reg 4)) (c.reg 3) (metBytes (xOp (c.reg 4)) c.count) .store ++
    (if ctlArrSpace ctl = 0 then [] else word (ctlArrOff ctl) ++ word (ctlArrOff ctl + 8))

/-- A `slsend` reads what an earlier one of its queue that has been sent is still to write: it reads after that write (R121). -/
def readsSent (s : State) (c : Command) : Bool :=
  let src := placeRuns s c.port c.front (xSrc (c.reg 4)) (c.reg 2) c.count .load
  (s.cmds.takeWhile (fun x => x.id != c.id)).any (fun x => x.queue == c.queue && x.sent && overlap (sentRuns s x) src)

/-- The command is the first of its lane that has not sent its operand, and reads nothing that is still to be written by one that has;
entries that wait to be saved unperformed are passed over (R39, R121, R124; log entry 36). -/
def firstInLane (s : State) (c : Command) : Bool :=
  match s.cmds.find? (fun x => sameLane x c && !x.sent && (x.started || !(ownerForced s x))) with
  | some x => x.id == c.id && !(codeOfQueue c.queue == 3 && readsSent s c)
  | none => false

/-- A command may end as to its queue: every earlier entry of its queue has been performed, a `slsend` whose outcome is to come among
them; what has been saved unperformed is passed over (R121, R124). -/
def mayEnd (s : State) (c : Command) : Bool :=
  match s.cmds.find? (fun x => x.queue == c.queue && (x.started || (decide (x.queue < savedQueue) && !(ownerForced s x)))) with
  | some x => x.id == c.id
  | none => true

/-- An outcome has been reported to a command's words: the command is performed and its entry freed, in its queue or in the
saved state of its thread, which can join its frontier (R121, R160, R185; log entry 36). -/
def performSent (s : State) (id : Nat) (F : Frontier) : State :=
  match s.cmds.find? (fun c => c.id == id) with
  | none => s
  | some c =>
    if c.queue < savedQueue then retireCommand s c F
    else
      let join := fun (t : Thread) => { t with joined := alSet t.joined 3 (fMerge s ((alGet t.joined 3).getD []) F) }
      { s with
        cmds := s.cmds.filter (fun x => x.id != id)
        saved := s.saved.map (fun x => if x.loc == c.owner && x.thread.grp == c.grp then { x with thread := join x.thread } else x) }

/-- The operand of a `slsend` that has been read. -/
def sentOperand (c : Command) (p : Partition) : Operand :=
  let X := c.reg 4
  ⟨c.id, p.num, xTag X, xOp X, c.owner % 131072, ⟨xDst X, c.reg 3, c.win, c.asid, c.super, c.reg 0, c.reg 1⟩, c.buf.map (·.2),
    meetingSlice p (xTag X), .flying, 0, c.front, c.grp, c.launch⟩

/-- `slsend` in q.sl: the operand is read and on its way to its slice, under the command's own id (R186); the command is
performed when its outcome has been reported (R121). -/
def performSlsend (s : State) (c : Command) (picks : List (Nat × Nat)) (units : Nat) : Done ⊕ State :=
  let X := c.reg 4
  let b := metBytes (xOp X) c.count
  match slsendStop s c, s.partition c.win.part with
  | some e, _ => .inl (failStart s c (some b) e)
  | none, none => .inl (failStart s c (some b) ⟨21, 0, 0⟩)
  | none, some p =>
    reading s c picks units (xSrc X) (c.reg 2) (offUnits (c.reg 2) (span 0 c.count)) (fun s c =>
      match c.ended with
      | some e => .inl ⟨s, c.front, b, e⟩
      | none => .inr { setCommand s { c with kg := 1 } with operands := s.operands ++ [sentOperand c p] })

/-! ## Combining (R325) -/

/-- One unit of the result. -/
def combineUnit (op a b : Nat) : Nat :=
  let signed := toSigned 32
  match op with
  | 0 => (f32.add 0 (f32.decode a) (f32.decode b)).1
  | 1 => (bf16.add 0 (bf16.decode (a % 65536)) (bf16.decode (b % 65536))).1 +
      65536 * (bf16.add 0 (bf16.decode (a / 65536)) (bf16.decode (b / 65536))).1
  | 2 => (a + b) % 2 ^ 32
  | 3 => (minMax f32 true a b).1
  | 4 => (minMax f32 false a b).1
  | 5 => if signed a < signed b then b else a
  | 6 => if signed a < signed b then a else b
  | _ => Nat.xor a b

/-- The result of two operands, that of the lower sender first (R325). -/
def combine (op : Nat) (a b : List Byte) : List Byte :=
  if op = 8 then a ++ b
  else (List.range (a.length / 4)).flatMap (fun u =>
    toBytes 4 (combineUnit op (ofBytes ((a.drop (4 * u)).take 4)) (ofBytes ((b.drop (4 * u)).take 4))))

/-! ## Delivering (R186, R324, R326) -/

/-- The die of an operand's slice. -/
def Operand.die (o : Operand) : Nat := o.slice / 192
/-- The port of a write to an operand's destination. -/
def Operand.port (o : Operand) : Port := ⟨.sluice o.die, o.die, o.part, o.dest.asid, o.dest.super, o.dest.win, o.sender, 3, o.launch, [], []⟩

/-- An operand's destination is there still; a local one that has been freed takes nothing, and its status word and arrival
update go with it (R160, R383). -/
def Operand.destLive (s : State) (o : Operand) : Bool := windowLive s o.dest.win o.dest.space

/-- The rank of an operand's arrival update (R167). -/
def Operand.rank (o : Operand) : Nat := arrivalRank 3 o.sender

/-- An operand's arrival update would come too late in this cycle (R167). -/
def Operand.late (s : State) (o : Operand) : Bool := o.destLive s && arrivalLate s o.dest.win o.dest.arrival o.rank

/-- What was written with identifiers from one on, of a frontier. -/
def writtenSince (id : Nat) (F : Frontier) : Frontier :=
  (F.map (fun e => (e.1, e.2.filter (fun i => decide (id ≤ i))))).filter (fun e => !e.2.isEmpty)

/-- The writes of an operand's outcome, from an identifier on, merge into the frontier of its sender's queue, where the sender's command
stands in it (R121, R185). -/
def Operand.queueSees (s : State) (o : Operand) (id : Nat) (F : Frontier) : State :=
  match s.cmds.find? (fun c => c.id == o.id && decide (c.queue < savedQueue)) with
  | some c => { s with qfront := alSet s.qfront c.queue (fMerge s ((alGet s.qfront c.queue).getD []) (writtenSince id F)) }
  | none => s

/-- A slice's frontier holds what it has written (R175); what it writes stands above the operands' frontiers alone (R186). -/
def sliceWrote (s : State) (slice : Nat) (F : Frontier) : State :=
  { s with slices := alSet s.slices slice (fMerge s ((alGet s.slices slice).getD []) F) }

/-- The status word and the arrival update of an operand's sender, whose command is then performed (R121, R186, R306). -/
def reportOperand (s : State) (o : Operand) (F : Frontier) (b : Nat) (e : Stop) : State :=
  if o.destLive s then
    let a := Agent.sluice o.die
    let r := writeStatus s a o.dest.win o.dest.arrival F (some 4) (statusWord e)
    let r := updateArrival r.1 a o.dest.win o.dest.arrival o.dest.value r.2 4 b o.rank
    performSent (o.queueSees (sliceWrote r.1 o.slice r.2) s.fresh r.2) o.id r.2
  else performSent s o.id F

/-- The command that sent an operand, queued or in the saved state of its thread. -/
def Operand.command (s : State) (o : Operand) : Option Command := s.cmds.find? (fun c => c.id == o.id)

/-- An operand's outcome may be written as to the queue of its command (R121). -/
def Operand.mayEnd (s : State) (o : Operand) : Bool := match o.command s with | some c => Machine.mayEnd s c | none => true

/-- A frontier with what the earlier commands of an operand's queue have written (R121, R185). -/
def Operand.queueFront (s : State) (o : Operand) (F : Frontier) : Frontier :=
  match o.command s with | some c => fMerge s F ((alGet s.qfront (c.queue % savedQueue)).getD []) | none => F

/-- The units of a delivery's bytes at its destination. -/
def Delivery.units (d : Delivery) (o : Operand) : List (List (Nat × Byte × Byte)) :=
  cellUnits o.dest.ptr ((List.range d.bytes.length).zip (d.bytes.map (fun b => (b, 255#8))))

/-- The writes of a delivery may go on: the queue of one of its operands has come to it, and a destination that it overlaps has been written
(R121, R326). -/
def Delivery.mayWrite (s : State) (d : Delivery) : Bool :=
  !d.written && d.ops.any (fun e => e.1.mayEnd s) && !(s.deliveries.any (fun x => d.after == some x.id && !x.written))

/-- The writes of a delivery as far as the slice watch units have room for their records; one that fails ends them, and its code is the
status (R136, R324, R326). -/
def writeDelivery (s : State) (d : Delivery) : State × Delivery :=
  match (if d.mayWrite s then d.ops else []) with
  | [] => (s, d)
  | e :: _ =>
    let F := d.ops.foldl (fun F x => if x.1.mayEnd s then x.1.queueFront s F else F) d.front
    let us := (d.units e.1).drop d.done
    let w := writeCells { e.1.port with refused := d.refused } e.1.dest.space e.1.dest.ptr us s F
    let w : WriteDone := { w with st := d.ops.foldl (fun (st : State) (o : Operand × Stop) => o.1.queueSees st s.fresh w.front) w.st }
    match w.stop with
    | none => (w.st, { d with front := w.front, done := d.done + us.length, written := true })
    | some x =>
      if x ≠ Stop.wait then (w.st, { d with front := w.front, written := true, ops := d.ops.map (fun y => (y.1, x)) })
      else if us.length ≤ w.rest then (s, d)
      else (w.st, { d with front := w.front, done := d.done + (us.length - w.rest) })

/-- The writes of a delivery and of the same result to the other destination have ended (R186). -/
def Delivery.allWritten (s : State) (d : Delivery) : Bool :=
  d.written && !(s.deliveries.any (fun x => d.mate == some x.id && !x.written))

/-- What a delivery has written is in the frontier of the delivery of the same result to the other destination, whose updates it is
published with (R186). -/
def tellMate (s : State) (d : Delivery) : State :=
  if d.written then { s with deliveries := s.deliveries.map (fun x => if d.mate == some x.id then { x with front := fMerge s x.front d.front } else x) }
  else s

/-- The outcome is told to each operand of a delivery whose writes, and those of the same result, have ended, in the order of its command's queue and of the updates of one
cycle (R121, R167); the operands that it is still to be told to. -/
def reportDelivery (s : State) (d : Delivery) : State × List (Operand × Stop) :=
  d.ops.foldl (fun acc e =>
    if d.allWritten s && e.1.mayEnd acc.1 && !(e.1.late acc.1) then
      (reportOperand acc.1 e.1 (e.1.queueFront acc.1 d.front) d.bytes.length e.2, acc.2)
    else (acc.1, acc.2 ++ [e])) (s, [])

/-- A delivery goes on as far as it can now. -/
def goOn (s : State) (d : Delivery) : State :=
  let w := writeDelivery s d
  let r := reportDelivery (if d.written then w.1 else tellMate w.1 w.2) w.2
  { r.1 with deliveries := if r.2.isEmpty then r.1.deliveries.filter (fun x => x.id != d.id)
      else r.1.deliveries.map (fun x => if x.id == d.id then { w.2 with ops := r.2 } else x) }

/-- The bytes of a waiting operand: those in its overflow slot, where it lies in one. -/
def Operand.bytes (o : Operand) (s : State) : List Byte :=
  match o.place, s.partition o.part with
  | .overflow k, some p => peekBytes s (p.ovfBase + 8256 * k + 64) o.data.length
  | _, _ => o.data

/-- An outcome: the operands of a delivery leave the sluice, and it is delivered (R159, R186). -/
def startDelivery (s : State) (d : Delivery) : State :=
  goOn { s with operands := s.operands.filter (fun x => !(d.ops.any (fun e => e.1.id == x.id))), deliveries := s.deliveries ++ [d] } d

/-- An outcome of an operand counts at its sender's core (R172). -/
def countOutcome (s : State) (o : Operand) (code : Nat) : State :=
  if code = 1 then s.count (coreOf o.sender) 17 1
  else if code = 2 ∨ code = 3 then s.count (coreOf o.sender) 18 1
  else if code = 4 then s.count (coreOf o.sender) 19 1
  else s

/-- An operand returned to its own sender's destination, unchanged, with a status other than met (R159, R186). -/
def returnOperand (s : State) (o : Operand) (code : Nat) : State :=
  startDelivery (countOutcome s o code) ⟨o.id, [(o, ⟨code, 0, 0⟩)], o.bytes s, 0, false, o.front, none, none, []⟩

/-- Two destinations are the same bytes (R326). -/
def sameDest (a b : Operand) : Bool :=
  a.dest.space == b.dest.space &&
  (if a.dest.space = 0 then a.dest.asid == b.dest.asid && ptrVa a.dest.ptr == ptrVa b.dest.ptr
   else
    match localBytes a.dest.win a.dest.space (ptrVa a.dest.ptr) 1, localBytes b.dest.win b.dest.space (ptrVa b.dest.ptr) 1 with
    | .ok x, .ok y => x == y
    | _, _ => false)

/-- The order of two operands: the lower sender, of one sender the first performed (R324, R325). -/
def Operand.before (x y : Operand) : Bool := decide (x.sender < y.sender) || (x.sender == y.sender && decide (x.id < y.id))

/-- The runs of locations of an operand's destination for some bytes. -/
def Operand.runs (s : State) (o : Operand) (n : Nat) : List (Nat × Nat) := placeRuns s o.port o.front o.dest.space o.dest.ptr n .store

/-- A delivery, where it has not been told to every operand, goes on. -/
def goOnWith (s : State) (id : Nat) : State :=
  match s.deliveries.find? (fun d => d.id == id) with
  | some d => goOn s d
  | none => s

/-- Two operands meet: the result goes to each distinct destination, above both frontiers, and once every destination is written both are told
(R159, R186). Where the destinations overlap, the lower sender's is written first (R326). -/
def meetOperands (s : State) (x y : Operand) : State :=
  let lo := if x.before y then x else y
  let hi := if x.before y then y else x
  let F := fMerge s lo.front hi.front
  let bs := combine lo.op (lo.bytes s) (hi.bytes s)
  let s := countOutcome (countOutcome s lo 1) hi 1
  let a : Operand × Stop := (lo, ⟨1, 0, hi.sender⟩)
  let b : Operand × Stop := (hi, ⟨1, 0, lo.sender⟩)
  if sameDest lo hi then startDelivery s ⟨lo.id, [a, b], bs, 0, false, F, none, none, []⟩
  else
    let after := if overlap (lo.runs s bs.length) (hi.runs s bs.length) then some lo.id else none
    let both : List Delivery := [⟨lo.id, [a], bs, 0, false, F, none, some hi.id, []⟩, ⟨hi.id, [b], bs, 0, false, F, after, some lo.id, []⟩]
    let s := { s with operands := s.operands.filter (fun o => o.id != lo.id && o.id != hi.id), deliveries := s.deliveries ++ both }
    goOnWith (goOnWith (goOnWith s lo.id) hi.id) lo.id

/-! ## Arrival, expiry, freeing (R158, R159) -/

/-- An operand has arrived and waits. -/
def Operand.waits (o : Operand) : Bool := o.place != .flying

/-- The orphan deadline of a waiting operand has come. -/
def Operand.due (s : State) (o : Operand) : Bool :=
  match (s.partition o.part).bind (fun p => rangeOf s p o.tag) with
  | some r => decide (o.arrived.toNat + 2 ^ r.k ≤ s.time.toNat)
  | none => false

/-- The lowest free overflow slot of a partition. -/
def freeSlot (s : State) (p : Partition) : Option Nat :=
  (List.range (p.ovfSize / 8256)).find? (fun k => !(s.operands.any (fun o => o.part == p.num && o.place == .overflow k)))

/-- A slot's bytes: an internal header, then the payload (R158). -/
def fillSlot (s : State) (p : Partition) (k : Nat) (bs : List Byte) : State :=
  let x := p.ovfBase + 8256 * k
  let hd := (List.range 64).map (fun i => Config.internalByte (x + i) s.draws)
  devWrite { s with draws := s.draws + 1 } x (hd ++ bs) none

/-- An operand stored, held in the overflow area, or refused (R159). -/
def storeOperand (s : State) (p : Partition) (o : Operand) : State :=
  let here := fun (q : Operand) => q.slice == o.slice && q.waits
  let put := fun (s : State) (pl : OperandPlace) =>
    { s with operands := s.operands.map (fun q => if q.id == o.id then { q with place := pl, arrived := s.time } else q) }
  if (s.operands.filter (fun q => here q && q.place == .store)).length < 16 then put s .store
  else if (s.operands.filter (fun q => here q && q.place != .store)).length < 256 then
    match freeSlot s p with
    | some k => put (fillSlot s p k o.data) (.overflow k)
    | none => returnOperand s o 4
  else returnOperand s o 4

/-- What an arriving operand finds (R159). Of two that do not fit together the lower sender's is returned first (DESIGN CHOICE, log
entry 64: R159 gives no order). -/
def arriveOperand (s : State) (p : Partition) (o : Operand) : State :=
  if (rangeOf s p o.tag).isNone then returnOperand s o 5
  else if s.markers.contains (o.slice, o.part, o.tag) then
    returnOperand { s with markers := s.markers.erase (o.slice, o.part, o.tag) } o 3
  else
    match s.operands.find? (fun q => q.waits && q.part == o.part && q.tag == o.tag) with
    | some w =>
      if w.data.length != o.data.length || w.op != o.op then
        (if w.before o then returnOperand (returnOperand s w 6) o 6 else returnOperand (returnOperand s o 6) w 6)
      else meetOperands s w o
    | none => storeOperand s p o

/-- The place of a tag of a partition among the events that one cycle orders. -/
def tagPlace (part tag : Nat) : Nat := part * 2 ^ 32 + tag

/-- An orphan marker joins its slice's list of 64, the oldest making room. -/
def addMarker (s : State) (o : Operand) : State :=
  let mine := s.markers.filter (fun m => m.1 == o.slice)
  let kept := if 64 ≤ mine.length then (match mine with | m :: _ => s.markers.erase m | [] => s.markers) else s.markers
  { s with markers := kept ++ [(o.slice, o.part, o.tag)] }

/-- The first core of an operand's die: the slices' accesses meet the soft errors of its storage (R116). -/
def Operand.core (o : Operand) : Nat := 128 * o.die

/-- An operand reaches its slice (R159): after the expiries due for its tag, and among the arrivals of one cycle in rising
order of sender. An outcome whose writes or words had to wait goes on with the same event (R121, R136). -/
def execSluiceArrival (id : DrainMeets) (s : State) : Host.Outcome State Fault Refusal :=
  match s.operands.find? (fun o => o.id == id.id && o.place == .flying) with
  | none =>
    (match s.deliveries.find? (fun d => d.id == id.id) with
     | none => noMove s
     | some d => .next (goOn (softErrors s ((d.ops.map (·.1.core)).headD 0) (id.softs.filter (·.2 != 1))) d))
  | some o =>
    let place := tagPlace o.part o.tag
    if s.operands.any (fun q => q.waits && q.part == o.part && q.tag == o.tag && q.due s) || s.overtaken 2 place (2 + o.sender) then noMove s
    else
      match s.partition o.part with
      | some p => .next ((arriveOperand (softErrors s o.core (id.softs.filter (·.2 != 1))) p o).ranked 2 place (2 + o.sender))
      | none => noMove s

/-- A waiting operand whose timeout has passed is returned as an orphan, leaving a marker (R159). -/
def execSluiceOrphanExpiry (id : DrainMeets) (s : State) : Host.Outcome State Fault Refusal :=
  match s.operands.find? (fun o => o.id == id.id && o.waits) with
  | none => noMove s
  | some o =>
    if !(o.due s) || s.overtaken 2 (tagPlace o.part o.tag) 0 then noMove s
    else .next (addMarker (returnOperand (softErrors s o.core (id.softs.filter (·.2 != 1))) o 2) o)

/-- The live range of a base and a length in units. -/
def rangeAt (s : State) (p : Partition) (base units : Nat) : Option TagRange :=
  (tagRanges s p).find? (fun r => r.base == base && r.units == units)

/-- An operand in its place among some, the lower sender first. -/
def insertOperand (o : Operand) : List Operand → List Operand
  | [] => [o]
  | x :: l => if o.before x then o :: x :: l else x :: insertOperand o l

/-- A range is dead: its waiting operands return as orphans, its markers go, its entry is no longer live (R159, R328). The operands
return in the order of their senders, the lower first (DESIGN CHOICE, log entry 64: R159 gives no order). -/
def killRange (s : State) (p : Partition) (r : TagRange) : State :=
  let inside := fun (part tag : Nat) => part == p.num && decide (r.base ≤ tag) && decide (tag < r.base + 64 * r.units)
  let s := ((s.operands.filter (fun o => o.waits && inside o.part o.tag)).foldl (fun l o => insertOperand o l) []).foldl (fun st o => returnOperand st o 2) s
  devWrite { s with markers := s.markers.filter (fun m => !(inside m.2.1 m.2.2)) } (p.tagtab + 16 * r.index)
    (tagWords r.base r.units r.k r.launch false) none

/-- A `tagf` comes after the expiries of its cycle and before its arrivals (R159): some tag of the range has one due, or has had
an arrival in this cycle. -/
def tagfBlocked (s : State) (p : Partition) (r : TagRange) : Bool :=
  let inside := fun (tag : Nat) => decide (r.base ≤ tag) && decide (tag < r.base + 64 * r.units)
  s.operands.any (fun o => o.waits && o.part == p.num && inside o.tag && o.due s) ||
  s.ranks.any (fun e => e.1 == 2 && e.2.1 / 2 ^ 32 == p.num && inside (e.2.1 % 2 ^ 32) && decide (2 ≤ e.2.2))

/-- `tagf`: frees a live range of the partition with its waiting operands (R328); it waits for the next cycle where an arrival of this
one has come first (R159). -/
def execTagf (a b : BitVec 6) (t u : Bool) (s : State) : Host.Outcome State Fault Refusal :=
  issue s (.tagf a b t u) (fun th =>
    match (s.partition th.part).bind (fun p => (rangeAt s p (bits (th.gpr a) 0 32) (ceilDiv (th.gpr b).toNat 64)).map (fun r => (p, r))) with
    | none => .next (s.put (th.advance s.time 1))
    | some pr => if tagfBlocked s pr.1 pr.2 then s.stalled th else .next ((killRange s pr.1 pr.2).put (th.advance s.time 1)))

end Sys2Proof.Machine
end

