-- ==== Sys2Proof/Machine/Engine.lean ====
section
/-! DEFINITION. Issuing engine commands (R119, R120, R122, R165, R303 to R305, R311, R318), and the moves that start and
perform them (R37, R94, R95, R121, R185). -/
namespace Sys2Proof.Machine

/-! ## Checks at issue -/

/-- The first gang member's thread: its windows are those of every q.mx command (R308). -/
def gangHead (s : State) (row num : Nat) : Option (Nat × Thread) :=
  match s.gangOf row num with
  | some g => (g.members.head?).bind (fun m => (s.thread m).map (fun t => (m, t)))
  | none => none

/-- The windows of a command issued by a thread (R308). -/
def commandWindows (s : State) (loc : Nat) (t : Thread) (i : Instr) : Windows :=
  match (if queueCode i = 4 then t.gang.bind (gangHead s (rowOf loc)) else none) with
  | some h => windowsOf s h.1 h.2
  | none => windowsOf s loc t

/-- The geometry block of a command (R303). -/
def blockOf (t : Thread) (i : Instr) : List Word :=
  (span (bits (t.gpr (commandRegs i).2) 0 4) (blockSize i)).map (fun j => t.e.toArray.getD j 0)

/-- The trap of a q.mx command outside a gang that accepts commands (R38, R291, R305). -/
def gangTrap (s : State) (loc : Nat) (t : Thread) : Option TrapReq :=
  match t.gang.bind (s.gangOf (rowOf loc)) with
  | none => some ⟨12, 3, 0, 0⟩
  | some g => ((g.broken.or g.firstOut)).map (fun l => ⟨12, 1, wd l, 0⟩)

/-- The alignment and window checks of a local word named by C (R122, R165). -/
def wordTrap (w : Windows) (space off : Nat) : Option TrapReq :=
  if off % 8 ≠ 0 then some ⟨4, 0, wd space, wd off⟩
  else match localBytes w space off 8 with | .error r => some r | .ok _ => none

/-- The checks of C in the order of R304. -/
def controlTrap (w : Windows) (k : Nat) (c : Word) : Option TrapReq :=
  let named := fun (sp : Nat) => decide (2 ≤ sp) && decide (sp ≤ 4)
  let asp := ctlArrSpace c
  let gsp := ctlGuardSpace c
  if bits c 0 4 ≠ 0 then some ⟨12, 10, wd k, 0⟩
  else if (asp = 0 && ctlStatus c) || (asp ≠ 0 && !(named asp)) then some ⟨12, 7, wd asp, 0⟩
  else
    (if asp = 0 then none
      else (wordTrap w asp (ctlArrOff c)).or (if ctlStatus c then wordTrap w asp (ctlArrOff c + 8) else none)).or
    (if gsp = 0 then none
      else if !(named gsp) then some ⟨12, 6, wd gsp, 0⟩
      else wordTrap w gsp (ctlGuardOff c))

/-- An `mma` mode that is not permitted (R318). -/
def badMode (cls : Nat) (x h : Bool) (m : Word) : Bool :=
  (h && !(cls == 1 || cls == 2)) || (h && x) || mHsize m == 3 || (mIpath m && (cls != 6 || x)) || (x && cls == 5) || decide (124 < mXsum m)

/-- The trap of an `mma` mode. -/
def modeCheck (i : Instr) (block : List Word) : Option TrapReq :=
  match i with
  | .mma _ _ _ _ c x h =>
    if badMode c.toNat x h (block.getD 2 0) then some ⟨12, 9, wd (0x40 + 4 * c.toNat + 2 * x.toNat + h.toNat), 0⟩ else none
  | _ => none

/-- The checks each thread makes at the issue of a command (R303 to R305, R311, R318). -/
def commandTrap (s : State) (loc : Nat) (t : Thread) (i : Instr) : Option TrapReq :=
  let k := bits (t.gpr (commandRegs i).2) 0 4
  (if queueCode i = 4 then gangTrap s loc t else none).or
  (if blockSize i = 0 then none
   else if 16 < k + blockSize i then some ⟨12, 8, wd k, 0⟩
   else (controlTrap (commandWindows s loc t i) k ((blockOf t i).getD 0 0)).or (modeCheck i (blockOf t i)))

/-! ## Entering (R120, R185) -/

/-- The queue of a code is full for a thread. -/
def queueFull (s : State) (loc : Nat) (t : Thread) (code : Nat) : Bool :=
  match queueOf loc t code with
  | some q => decide (queueDepth code ≤ (s.cmds.filter (fun c => c.queue == q)).length)
  | none => false

/-- The entry of a command. -/
def newCommand (s : State) (queue loc : Nat) (t : Thread) (i : Instr) (word : Code) (a b : Word) (block : List Word) (count : Nat)
    (front : Frontier) (waits joins : List Nat) : Command :=
  ⟨s.fresh, queue, loc, word, a, b, block, count, front, waits, joins, false, t.launchNum, t.asid, t.super, commandWindows s loc t i, t.grp, 0, [], 0, 0, none, []⟩

/-- The guard word of a command is named. -/
def guarded (block : List Word) : Bool := match block with | c :: _ => ctlGuardSpace c != 0 | [] => false

/-- A command of a core's queue enters it and its thread goes on. -/
def enterCommand (s : State) (loc : Nat) (t : Thread) (i : Instr) (word : Code) (count : Nat) : State :=
  let c := newCommand s (8 * coreOf loc + queueCode i) loc t i word (t.gpr (commandRegs i).1) (t.gpr (commandRegs i).2) (blockOf t i) count
    t.front (t.sb.map (·.id)) (t.nt.map (·.id))
  ({ s with fresh := s.fresh + 1, cmds := s.cmds ++ [c] }).setThread loc (t.advance s.time 1)

/-- The queue code of the command that stands in a thread's `guard`. -/
def Thread.guardQueue (t : Thread) : Option Nat := t.guard.bind (fun w => match decode w with | .ok i => some (queueCode i) | .error _ => none)

/-- A command of another thread of a core that issued before a place in the order of issues still waits to enter the queue of a code, which
takes its entries in issue order (R120); one that is stopped at its deadline is no longer to enter (R39). -/
def entersBefore (s : State) (loc code stamp : Nat) : Bool :=
  s.threads.any (fun e => e.1 != loc && coreOf e.1 == coreOf loc && e.2.guardQueue == some code && decide (e.2.stamp < stamp) && !(e.2.stopped s e.1))

/-- The issue of an engine command: its checks, its queue's room, its guard, or the entry of the commands before it; a q.mx command waits for
its gang (R37, R120, R122, R311). -/
def issueCommand (s : State) (i : Instr) : Host.Outcome State Fault Refusal :=
  issue s i (fun t =>
    if queueFull s s.cur t (queueCode i) then s.stalled t
    else
      match commandTrap s s.cur t i with
      | some r => .next (s.trap t r)
      | none =>
        let a := t.gpr (commandRegs i).1
        let b := t.gpr (commandRegs i).2
        if queueCode i = 4 then
          .next ({ s with fresh := s.fresh + 1 }.put { t with gangCmd := some ⟨s.ir, a, b, blockOf t i, s.fresh⟩ })
        else if guarded (blockOf t i) || entersBefore s s.cur (queueCode i) s.fresh then
          .next ({ s with fresh := s.fresh + 1 }.put { t with guard := some s.ir, stamp := s.fresh })
        else .next (enterCommand s s.cur t i s.ir a.toNat))

/-- `cpy` (R309). -/
def execCpy (a b : BitVec 6) (t u q : Bool) (s : State) : Host.Outcome State Fault Refusal :=
  issueCommand s (.cpy a b t u q)

/-- `qnt` (R312). -/
def execQnt (a b : BitVec 6) (t u q : Bool) (s : State) : Host.Outcome State Fault Refusal :=
  issueCommand s (.qnt a b t u q)

/-- `gath` (R310). -/
def execGath (a b : BitVec 6) (t u : Bool) (s : State) : Host.Outcome State Fault Refusal :=
  issueCommand s (.gath a b t u)

/-- `scat` (R310). -/
def execScat (a b : BitVec 6) (t u : Bool) (s : State) : Host.Outcome State Fault Refusal :=
  issueCommand s (.scat a b t u)

/-- `slsend` (R324). -/
def execSlsend (a b : BitVec 6) (t u : Bool) (s : State) : Host.Outcome State Fault Refusal :=
  issueCommand s (.slsend a b t u)

/-- `tclm` (R315). -/
def execTclm (a : BitVec 6) (t : Bool) (s : State) : Host.Outcome State Fault Refusal :=
  issueCommand s (.tclm a t)

/-- `tld` (R316). -/
def execTld (a b : BitVec 6) (t u : Bool) (s : State) : Host.Outcome State Fault Refusal :=
  issueCommand s (.tld a b t u)

/-- `trel` (R315). -/
def execTrel (a : BitVec 6) (t : Bool) (s : State) : Host.Outcome State Fault Refusal :=
  issueCommand s (.trel a t)

/-- `aclr` (R323). -/
def execAclr (a : BitVec 6) (t : Bool) (s : State) : Host.Outcome State Fault Refusal :=
  issueCommand s (.aclr a t)

/-- `acst` (R323). -/
def execAcst (a b : BitVec 6) (t u : Bool) (s : State) : Host.Outcome State Fault Refusal :=
  issueCommand s (.acst a b t u)

/-- `acld` (R323). -/
def execAcld (a b : BitVec 6) (t u : Bool) (s : State) : Host.Outcome State Fault Refusal :=
  issueCommand s (.acld a b t u)

/-- `mma` (R317). -/
def execMma (a b : BitVec 6) (t u : Bool) (c : BitVec 4) (x h : Bool) (s : State) : Host.Outcome State Fault Refusal :=
  issueCommand s (.mma a b t u c x h)

/-! ## Guards (R122) -/

/-- The location of a guard word. -/
def guardPlaces (w : Windows) (c : Word) : Option (List Nat) :=
  match localBytes w (ctlGuardSpace c) (ctlGuardOff c) 8 with | .ok xs => some xs | .error _ => none

/-- The guard read of a stalled command returns, an acquire at its queue's scope, with the soft errors it meets, and the command enters
with its count, after the commands of its queue that issued before it (R120); a poisoned guard word traps (R116, R122, R382). One that is not
guarded has waited for those commands only. -/
def execGuardReadReturn (loc : Nat) (meets : AccessMeets) (s : State) : Host.Outcome State Fault Refusal :=
  match s.thread loc with
  | none => noMove s
  | some t =>
    match (if t.stopped s loc then none else t.guard) with
    | none => noMove s
    | some w =>
      let old := s
      let s := softErrors s (coreOf loc) meets.softs
      match decode w with
      | .error _ => noMove s
      | .ok i =>
        let c := (blockOf t i).getD 0 0
        if entersBefore s loc (queueCode i) t.stamp then noMove old
        else if !(guarded (blockOf t i)) then
          (if queueFull s loc t (queueCode i) then noMove old else .next (enterCommand s loc t i w (t.gpr (commandRegs i).1).toNat))
        else
        match guardPlaces (windowsOf s loc t) c with
        | none => .next (takeTrap s loc { t with guard := none } ⟨7, 0, wd (ctlGuardSpace c), wd (ctlGuardOff c)⟩)
        | some xs =>
          if queueFull s loc t (queueCode i) || olderTouches s loc t s.fresh xs then noMove old
          else if (firstPoison s (.thread loc) (t.unforwarded (addressed (ctlGuardOff c) xs)) false).isSome then
            .next (takeTrap s loc { t with guard := none } ⟨11, 0, 1, wd (ctlGuardOff c)⟩)
          else
            match readMove s loc t xs meets.picks 1 (queueScope (queueCode i)) with
            | none => noMove old
            | some r => .next (enterCommand r.1 loc r.2.1 i w (min (t.gpr (commandRegs i).1).toNat (ofBytes r.2.2)))

/-! ## Gang commands (R37, R95, R311) -/

/-- The four members of a gang stalled in a command, in row order; none of them at its deadline's end (R39). -/
def gathered (s : State) (g : Gang) : Option (List (Nat × Thread × GangCmd)) :=
  let ms := g.members.filterMap (fun m => (s.thread m).bind (fun t => if t.stopped s m then none else t.gangCmd.map (fun c => (m, t, c))))
  if ms.length = 4 then some ms else none

/-- The mask of row positions whose command differs from that of position 0. -/
def mismatch (ms : List (Nat × Thread × GangCmd)) : Nat :=
  match ms with
  | [] => 0
  | h :: _ => ((List.range ms.length).zip ms).foldl (fun m e =>
      let x := h.2.2
      let y := e.2.2.2
      if x.word = y.word ∧ x.a = y.a ∧ x.b = y.b ∧ x.block = y.block then m else m + 2 ^ e.1) 0

/-- Every member takes one trap. -/
def trapAll (s : State) (ms : List (Nat × Thread × GangCmd)) (r : TrapReq) : State :=
  ms.foldl (fun st m => st.setThread m.1 { m.2.1 with gangCmd := none, trapReq := some r }) s

/-- A slot is claimed by a gang, by the commands issued so far (R95). -/
def claimedBy (s : State) (row slot gang : Nat) : Bool := s.claims.contains (row * 32 + slot, gang)
/-- A slot is claimed by some gang. -/
def claimed (s : State) (row slot : Nat) : Bool := s.claims.any (fun c => c.1 == row * 32 + slot)

/-- The slot check of a command fails (R95, R315, R323). -/
def badSlot (s : State) (row gang : Nat) (i : Instr) (a : Word) (block : List Word) : Bool :=
  match i with
  | .tclm .. => decide (31 < a.toNat) || claimed s row a.toNat
  | .trel .. => decide (31 < a.toNat) || !(claimedBy s row a.toNat gang)
  | .tld .. => !(claimedBy s row (wSlot (block.getD 3 0)) gang)
  | .mma .. => !(claimedBy s row (mA (block.getD 2 0)) gang && claimedBy s row (mB (block.getD 2 0)) gang)
  | .aclr .. => decide (1 < a.toNat)
  | _ => false

/-- The claims after a command has been issued. -/
def claimsAfter (s : State) (row gang : Nat) (i : Instr) (a : Word) : List (Nat × Nat) :=
  match i with
  | .tclm .. => s.claims ++ [(row * 32 + a.toNat, gang)]
  | .trel .. => s.claims.filter (fun c => c.1 != row * 32 + a.toNat)
  | _ => s.claims

/-- The one guard read of a gang command: each member meets it; its value is that of position 0. -/
def gangGuard (s : State) (xs : List Nat) (picks : List (Nat × Nat)) :
    List (Nat × Thread × GangCmd) → Option (State × List (Nat × Thread × GangCmd) × List Byte)
  | [] => some (s, [], [])
  | m :: ms =>
    match gangGuard s xs picks ms with
    | none => none
    | some r =>
      match readMove r.1 m.1 m.2.1 xs picks 1 2 with
      | none => none
      | some x => some (x.1, (m.1, x.2.1, m.2.2) :: r.2.1, x.2.2)

/-- The member whose issue came last. -/
def lastIssuer (ms : List (Nat × Thread × GangCmd)) : Nat :=
  (ms.foldl (fun (b : Nat × Nat) m => if b.2 ≤ m.2.2.stamp then (m.1, m.2.2.stamp) else b) (0, 0)).1

/-- A gathered command enters q.mx with a count, and the four members go on. -/
def enterGang (s : State) (g : Gang) (ms : List (Nat × Thread × GangCmd)) (i : Instr) (count : Nat) : State :=
  match ms with
  | [] => s
  | h :: _ =>
    let x := h.2.2
    let F := ms.foldl (fun F m => fMerge s F m.2.1.front) []
    let c := newCommand s (mxQueue g.row g.num) h.1 h.2.1 i x.word x.a x.b x.block count F (ms.flatMap (fun m => m.2.1.sb.map (·.id)))
      (ms.flatMap (fun m => m.2.1.nt.map (·.id)))
    let s := { s with fresh := s.fresh + 1, cmds := s.cmds ++ [c], claims := claimsAfter s g.row g.num i x.a }
    let s := match i with | .mma .. => s.count (coreOf (lastIssuer ms)) 16 1 | _ => s
    ms.foldl (fun st m => st.setThread m.1 ({ m.2.1 with gangCmd := none }.advance st.time 1)) s

/-- The issue of the fourth member of a gathered command. -/
def lastStamp (ms : List (Nat × Thread × GangCmd)) : Nat := ms.foldl (fun a m => max a m.2.2.stamp) 0

/-- Another gang of a row has gathered a command whose fourth member issued earlier: it enters first (R37). -/
def gatheredBefore (s : State) (row gang stamp : Nat) : Bool :=
  s.gangs.any (fun h => h.row == row && h.num != gang &&
    (match gathered s h with | some ms => decide (lastStamp ms < stamp) | none => false))

/-- The fourth member of a gang has issued: the identity and slot checks, the one guard read, and the entry; a failed check
traps all four members (R37, R95, R122, R311). Among the gangs of a row the commands enter in the order in which their fourth
members issued, and are performed in that order (R37). The guard read meets the soft errors of its word (R116). -/
def execGangCommandEntry (row gang : Nat) (meets : AccessMeets) (s : State) : Host.Outcome State Fault Refusal :=
  match s.gangOf row gang with
  | none => noMove s
  | some g =>
    match gathered s g with
    | none => noMove s
    | some ms =>
      match (if gatheredBefore s row gang (lastStamp ms) then [] else ms) with
      | [] => noMove s
      | h :: _ =>
        let x := h.2.2
        match decode x.word with
        | .error _ => noMove s
        | .ok i =>
          if mismatch ms ≠ 0 then .next (trapAll s ms ⟨12, 2, wd (mismatch ms), 0⟩)
          else if badSlot s row gang i x.a x.block then .next (trapAll s ms ⟨12, 5, x.a, 0⟩)
          else if !(guarded x.block) then .next (enterGang s g ms i x.a.toNat)
          else
            let old := s
            let s := softErrors s (coreOf h.1) meets.softs
            let c := x.block.getD 0 0
            match guardPlaces (windowsOf s h.1 h.2.1) c with
            | none => .next (trapAll s ms ⟨7, 0, wd (ctlGuardSpace c), wd (ctlGuardOff c)⟩)
            | some xs =>
              if ms.any (fun m => olderTouches s m.1 m.2.1 s.fresh xs) then noMove old
              else if (firstPoison s (.thread h.1) (h.2.1.unforwarded (addressed (ctlGuardOff c) xs)) false).isSome then
                .next (trapAll s ms ⟨11, 0, 1, wd (ctlGuardOff c)⟩)
              else
                match gangGuard s xs meets.picks ms with
                | none => noMove old
                | some r => .next (enterGang r.1 g r.2.1 i (min x.a.toNat (ofBytes r.2.2)))

/-! ## Starting and performing (R37, R94, R121, R185) -/

/-- The instruction of a command. -/
def Command.instr (c : Command) : Option Instr := match decode c.word with | .ok i => some i | .error _ => none

/-- The slot a `tclm` claims is free, its former owner's commands done (R95). -/
def slotClear (s : State) (c : Command) : Bool :=
  match c.instr with
  | some (.tclm ..) => (s.slotOf (rowOfQueue c.queue) c.a.toNat).isNone
  | _ => true

/-- The state as a started command's slot: a `tld` makes it loading (R94). -/
def startSlot (s : State) (c : Command) : State :=
  match c.instr with
  | some (.tld ..) =>
    if c.count = 0 then s
    else match s.slotOf (rowOfQueue c.queue) (wSlot (c.reg 3)) with | some x => s.setSlot { x with loading := true } | none => s
  | _ => s

/-- The first command of its lane starts once its thread's earlier stores have drained, unless its thread has been forced:
its frontier meets its queue's (R37, R39, R121, R185). -/
def execEngineCommandStart (id : Nat) (s : State) : Host.Outcome State Fault Refusal :=
  match s.cmds.find? (fun c => c.id == id && !c.started) with
  | none => noMove s
  | some c =>
    if savedQueue ≤ c.queue || !(firstInLane s c) || !c.waits.isEmpty || !(slotClear s c) || ownerForced s c then noMove s
    else
      let F := fMerge s c.front ((alGet s.qfront c.queue).getD [])
      let s' := { s with cmds := s.cmds.map (fun x => if x.id == id then { x with started := true, front := F } else x) }
      .next (startSlot s' c)

/-- What performing a started command comes to: done, or a state with more of it to do. -/
def performCommand (s : State) (c : Command) (picks : List (Nat × Nat)) (soft units : Nat) : Done ⊕ State :=
  match c.instr with
  | some (.cpy ..) => performCpy s c picks units
  | some (.qnt ..) => performQnt s c picks units
  | some (.gath ..) => performGath s c false picks units
  | some (.scat ..) => performGath s c true picks units
  | some (.slsend ..) => performSlsend s c picks units
  | some (.tclm ..) => .inl (performTclm (rowSoft s c none soft) c)
  | some (.tld ..) => performTld (rowSoft s c none soft) c picks units
  | some (.trel ..) => .inl (performTrel s c)
  | some (.aclr ..) => .inl (performAclr (rowSoft s c none soft) c)
  | some (.acst ..) => performAcst (rowSoft s c (some (bits (c.reg 3) 52 1)) soft) c units
  | some (.acld ..) => performAcld (rowSoft s c none soft) c picks units
  | some (.mma _ _ _ _ k x h) => performMma (rowSoft s c (some (mAcc (c.reg 2))) soft) c k.toNat x h
  | _ => .inl (failStart s c none ⟨18, 0, 0⟩)

/-- A core whose die's storage the accesses of a command meet: its own, or the first of its row. -/
def Command.core (c : Command) : Nat := if c.queue < 8192 then c.queue / 8 else 4 * rowOfQueue c.queue

/-- The updates of a command's arrival word in this cycle let its own come next (R121, R167). -/
def endsNow (s : State) (c : Command) : Bool :=
  mayEnd s c && (c.block.isEmpty || !(arrivalLate s c.win (c.reg 0) c.arrivalRank))

/-- A started command is performed, an `mma` one K-group at a time, another in one move or, where `meets.units` is not 0, in that many of
its single-copy-atomic accesses or items at a time (R178): its accesses with the soft errors they meet (R116), then its status word and
arrival word (R121, R123, R166, R306, R307). An access that has to wait makes no move. -/
def execEngineCommandPerformed (id : Nat) (picks : List (Nat × Nat)) (meets : CommandMeets) (s : State) : Host.Outcome State Fault Refusal :=
  match s.cmds.find? (fun c => c.id == id && c.started && !c.sent && decide (c.queue < savedQueue)) with
  | none => noMove s
  | some c =>
    if c.count = 0 && !c.block.isEmpty then (if endsNow s c then .next (endCommand s c c.front 0 ⟨0, 0, 0⟩) else noMove s)
    else
      match performCommand (softErrors { s with picks := picks } c.core (meets.softs.filter (·.2 != 1))) c picks meets.soft meets.units with
      | .inr s' => .next s'
      | .inl d => if d.status = Stop.wait || !(endsNow s c) then noMove s else .next (endCommand d.st c d.front d.bytes d.status)

end Sys2Proof.Machine
end

