-- ==== Sys2Proof/Machine/Launches.lean ====
section
/-! DEFINITION. The events of launches, groups and spawned threads: spawn messages (R127, R128), placement (R30, R31), the
end of a thread (R35, R242), quiescence reports (R34, R164), the appends of records (R130 to R133) and counter snapshots (R171). -/
namespace Sys2Proof.Machine

/-! ## Spawn messages (R127, R128) -/

/-- A message reaches its target core: started, queued or refused (R127). -/
def execSpawnMessageArrival (id : Nat) (s : State) : Host.Outcome State Fault Refusal :=
  match s.spawns.find? (fun m => m.id == id) with
  | none => noMove s
  | some m => .next (spawnArrives s m)

/-- The oldest message of an inbox starts when a context, alcove room and charge allow (R128). -/
def execInboxHeadStart (core : Nat) (s : State) : Host.Outcome State Fault Refusal :=
  match (s.core core).inbox with
  | [] => noMove s
  | m :: rest =>
    let s' := s.mapCore core (fun c => { c with inbox := rest })
    if canStart s' core m && !(pastDeadline s m.grp) then .next (startSpawned s' ((freeContexts s core).headD 0) m) else noMove s

/-! ## Placement (R30, R31, R149 to R153) -/

/-- A ready group as the dispatcher sees it: its launch and linear index. -/
abbrev Ready := Launch × Nat

/-- Dispatch order (R30). -/
def readyBefore (a b : Ready) : Bool :=
  if a.1.prio ≠ b.1.prio then decide (b.1.prio < a.1.prio)
  else if a.1.order ≠ b.1.order then decide (a.1.order < b.1.order)
  else
    let x := a.1.sweepOf a.2
    let y := b.1.sweepOf b.2
    decide (x < y) || (x == y && decide (a.2 < b.2))

/-- A ready group put in its place. -/
def insertReady (a : Ready) : List Ready → List Ready
  | [] => [a]
  | b :: l => if readyBefore a b then a :: b :: l else b :: insertReady a l

/-- The ready groups of a partition in dispatch order: ready and not placed by their count bytes, of a launch that no
request has stopped (R39, R151, R153). -/
def readyGroups (s : State) (part : Nat) : List Ready :=
  let ls := s.launches.filter (fun l => l.part == part && !l.request && !l.saved)
  (ls.flatMap (fun l => ((List.range l.total).filter (fun i =>
    let v := peek s (l.countByte i) 1
    v.testBit 3 && !(v.testBit 4))).map (fun i => (l, i)))).foldl (fun acc r => insertReady r acc) []

/-- Threads of a group of n on core k of its cluster (R31). -/
def coreShare (n k : Nat) : Nat := let c := ceilDiv n 8; min c (n - k * c)

/-- A group fits on a core: contexts beyond the inbox's messages, pantry beyond the alcove of the inbox's head (R30). -/
def fitsCore (s : State) (l : Launch) (core n : Nat) : Bool :=
  let box := (s.core core).inbox
  let head := match box with | m :: _ => units256 (alcoveSize s m.part m.launchNum) | [] => 0
  let need := units256 (l.hall / 8) + n * units256 l.alcove
  decide (n ≤ (freeContexts s core).length - box.length) && (need == 0 || decide (pantryUsed s core + head + need ≤ Config.pantryBytes))

/-- A group of a launch fits on a cluster. -/
def fitsCluster (s : State) (l : Launch) (c : Nat) : Bool :=
  (List.range 8).all (fun k => fitsCore s l (8 * c + k) (coreShare l.gsize k))

/-- The clusters of a partition, beginning after the one that received its previous group. -/
def clusterRing (p : Partition) : List Nat :=
  (p.clusters.filter (fun c => decide (p.lastCluster < c))) ++ (p.clusters.filter (fun c => decide (c ≤ p.lastCluster)))

/-- Where a ready group would be placed: the charge allows one more group and a cluster has room (R149). -/
def fits (s : State) (p : Partition) (r : Ready) : Option Nat :=
  let l := r.1
  if l.ctxsize < charge s l + (l.hall + l.gsize * (l.alcove + 1024) + 3407872) then none
  else (clusterRing p).find? (fitsCluster s l)

/-- Placements that have passed over a ready group. -/
def Launch.passedOver (l : Launch) (i : Nat) : Nat := (alGet l.passed i).getD 0

/-- The first group of dispatch order that fits, with those ahead of it; a group passed over by 64 placements lets no later
one pass (R30). -/
def choosePlacement (s : State) (p : Partition) : List Ready → List Ready → Option (Ready × Nat × List Ready)
  | _, [] => none
  | ahead, r :: rest =>
    match fits s p r with
    | some c => some (r, c, ahead)
    | none => if 64 ≤ r.1.passedOver r.2 then none else choosePlacement s p (ahead ++ [r]) rest

/-- The `s.gid` of a thread of a group (R73). -/
def gidWord (l : Launch) (i t : Nat) : Word :=
  wd (i % l.gx + i / l.gx % l.gy * 2 ^ 16 + i / (l.gx * l.gy) * 2 ^ 32 + t * 2 ^ 48)

/-- The threads of a group start on core k of a cluster, in the lowest free slots (R31, R63). -/
def startOnCore (s : State) (l : Launch) (gid i cluster k : Nat) (F : Frontier) : State :=
  let core := 8 * cluster + k
  let c := ceilDiv l.gsize 8
  ((freeContexts s core).take (coreShare l.gsize k)).zipIdx.foldl (fun st e =>
    countUp (startThread st e.1 l.entry false (gidWord l i (k * c + e.2)) (wd (l.record + l.num * 2 ^ 48)) l.part l.asid
      (Vector.ofFn (fun j : Fin 4 => if j.val = 0 then l.arg else 0)) 0 l.alcove (some gid) F) (some gid) core) s

/-- A group is placed on a cluster: its shares zeroed, its count byte marked, its threads started in one cycle. -/
def placeGroup (s : State) (p : Partition) (l : Launch) (i cluster : Nat) : State :=
  let b := s.newBanks 8
  let gid := b.2.fresh
  let g : Group := ⟨gid, l.part, l.num, i, cluster, b.1, l.hall / 8, none, false, none, [], [], []⟩
  let s := { b.2 with fresh := gid + 1, groups := b.2.groups ++ [g] }.setPartition { p with lastCluster := cluster }
  let x := l.countByte i
  let s := boardWrite s x (peek s x 1 + 16)
  let F := startFront s l i
  (List.range 8).foldl (fun st k => startOnCore st l gid i cluster k F) s

/-- GROUP_PLACEMENT: the dispatcher of a partition places the first ready group that fits; none while a saved launch of the
partition is being restored (R30, R42). -/
def execGroupPlacement (part : Nat) (s : State) : Host.Outcome State Fault Refusal :=
  match s.partition part with
  | none => noMove s
  | some p =>
    if s.launches.any (fun l => l.part == part && l.restoring) then noMove s
    else
      match choosePlacement s p [] (readyGroups s part) with
      | none => noMove s
      | some (r, c, ahead) =>
        let s := { s with launches := s.launches.map (fun l =>
          if l.part == part then
            { l with passed := (ahead.filter (fun a => a.1.num == l.num)).foldl (fun ps a => alSet ps a.2 (l.passedOver a.2 + 1)) l.passed }
          else l) }
        .next (placeGroup s p r.1 r.2 c)

/-! ## The end of a thread (R35, R140, R242) -/

/-- An entry that a `quit` still waits for (R140). -/
def ReplayEntry.open (e : ReplayEntry) : Bool := (e.state == .pending || e.state == .done) && e.mark.isNone

/-- A command of a thread, or of its gang, has not been performed; an entry of a gang with a forced member that waits to be saved
unperformed with the gang is not waited for (R41). -/
def queuesBusy (s : State) (loc : Nat) (t : Thread) : Bool :=
  s.cmds.any (fun c => decide (c.queue < savedQueue) && (c.queue < 8192 || c.started || !(ownerForced s c)) &&
    (if c.queue < 8192 then c.owner == loc
     else match s.gangOf (rowOfQueue c.queue) (gangOfQueue c.queue) with
       | some g => g.members.contains loc && g.part == t.part && g.launch == t.launchNum
       | none => false))

/-- The drains of a `quit` are done (R242). -/
def quitDrained (s : State) (loc : Nat) (t : Thread) : Bool :=
  t.quitting && t.trapReq.isNone && !(t.replay.any (·.open)) && !(queuesBusy s loc t) && t.sb.isEmpty && t.nt.isEmpty

/-- The thread leaves: its frontier and those of its performed commands enter its group's collector, its context and alcove
are free, and its core's count falls by one (R35, R187). -/
def endThread (s : State) (loc : Nat) (t : Thread) : State :=
  let core := coreOf loc
  let lost := (t.replay.filter (fun e => e.state != .done)).length
  let s := s.mapCore core (fun c => { c with errDiscard := (List.range lost).foldl (fun w _ => satInc w) c.errDiscard })
  let s := match t.grp.bind s.group with
    | some g => s.setGroup { g with collector := t.joined.foldl (fun (F : Frontier) (e : Nat × Frontier) => fMerge s F e.2) (fMerge s g.collector t.front) }
    | none => s
  countDown ((s.dropThread loc).freeBanks t.alcBank 1) t.grp core

/-- QUIT_COMPLETE: a quitting thread whose drains are done ends (R35, R242). -/
def execQuitComplete (loc : Nat) (s : State) : Host.Outcome State Fault Refusal :=
  match s.thread loc with
  | none => noMove s
  | some t => if quitDrained s loc t then .next (endThread s loc t) else noMove s

/-- QUIESCENCE_REPORT: the oldest report of a group reaches the level above; the group retires when its count at the launch
level returns to zero (R34, R35, R164). -/
def execQuiescenceReport (group : Nat) (s : State) : Host.Outcome State Fault Refusal :=
  match s.group group with
  | none => noMove s
  | some g =>
    match g.reports with
    | [] => noMove s
    | (n, up) :: rest =>
      let g := { g with reports := rest }
      let a := nodeAbove n
      if up then .next (s.setGroup (g.up a))
      else
        let g := g.down a
        .next (if a = 4000 && g.countAt 4000 = 0 then retireGroup (s.setGroup g) g else s.setGroup g)

/-! ## Records (R130 to R135) -/

/-- The descriptor of a queue of a partition: 0 trap, 1 fault, 2 command (R130). -/
def queueDesc (p : Partition) (queue : Nat) : Nat := p.qblock + 64 * queue

/-- Bytes of a record. -/
def recordBytes (queue : Nat) : Nat := if queue = 2 then 256 else 32

/-- A descriptor as the device reads it: the ring's base and entry count, the two indices. -/
structure Ring where
  base     : Nat
  entries  : Nat
  producer : Nat
  consumer : Nat
  deriving DecidableEq, Repr

/-- Entries in use. -/
def Ring.used (r : Ring) : Nat := (r.producer + 2 ^ 64 - r.consumer) % 2 ^ 64
/-- The address of the next record. -/
def Ring.slot (r : Ring) (queue : Nat) : Nat := r.base + r.producer % r.entries * recordBytes queue

/-- A queue's ring where its descriptor is consistent (R133); its bytes 48 to 63 are ignored (log entry 64). The base and log2 words are read
whole, so that a reserved bit that is set in one of them makes the queue inconsistent (DESIGN CHOICE, log entry 64: R130 names no
outcome). -/
def ringOf (s : State) (p : Partition) (queue : Nat) : Option Ring :=
  let d := queueDesc p queue
  let base := peek s d 8
  let k := peek s (d + 8) 8
  let r : Ring := ⟨base, 2 ^ k, peek s (d + 16) 8, peek s (d + 24) 8⟩
  if s.poisoned d || base % 4096 ≠ 0 || k < 4 || 20 < k then none
  else if !(p.hasBytes base (r.entries * recordBytes queue)) || r.entries < r.used then none
  else some r

/-- The halted bit of a queue set or cleared, in its descriptor too where that line is not poisoned (R133). -/
def setHalted (s : State) (p : Partition) (queue : Nat) (h : Bool) : State :=
  let k := (p.num, queue)
  let x := queueDesc p queue + 40
  let s1 := { s with halted := if h then (if s.halted.contains k then s.halted else s.halted ++ [k]) else s.halted.filter (· != k) }
  if s.poisoned x || h == (peek s x 1).testBit 0 then s1
  else devWrite s1 x [BitVec.ofNat 8 (peek s x 1 - peek s x 1 % 2 + h.toNat)] none

/-- The launch number a record carries. -/
def Append.num (a : Append) : Nat := bits a.w0 48 16

/-- The kind of a trap-queue record. -/
def Append.kind (a : Append) : Nat := if a.queue = 0 then bits a.w0 0 8 else 0

/-- The agent that is appending a record, where it can have several: the dispatcher for the records of launches, a slice watch unit
(R132). -/
def Append.source (a : Append) : Option Nat :=
  if a.kind = 4 ∨ a.kind = 5 ∨ a.kind = 7 then some 0 else if a.kind = 6 then some (1 + a.unit.getD 0) else none

/-- The records of a queue that their agents are appending are held: of the dispatcher and of a watch unit the first, which its
later ones queue behind (R132). -/
def holdHeads (part queue : Nat) : List Append → List Nat → List Append
  | [], _ => []
  | a :: l, busy =>
    if a.part != part || a.queue != queue then a :: holdHeads part queue l busy
    else
      match a.source with
      | none => { a with held := true } :: holdHeads part queue l busy
      | some n => (if busy.contains n then a else { a with held := true }) :: holdHeads part queue l (n :: busy)

/-- The records held and not counted yet join the count of a queue's descriptor, once its line can be written (R130, R132, R133). -/
def countHeld (s : State) (p : Partition) (queue : Nat) : State :=
  let x := queueDesc p queue + 44
  let new := fun (a : Append) => a.part == p.num && a.queue == queue && a.held && !a.counted
  let n := (s.appends.filter new).length
  if n = 0 ∨ s.poisoned x then s
  else devWrite { s with appends := s.appends.map (fun a => if new a then { a with counted := true } else a) } x (toBytes 4 (peek s x 4 + n)) none

/-- The records of a queue have to wait (R132, R133). -/
def holdRecords (s : State) (p : Partition) (queue : Nat) : State :=
  countHeld { s with appends := holdHeads p.num queue s.appends [] } p queue

/-- The bell's word gains 1 where the named die holds a share and the offset lies in it (R131). The bell word's unlisted bits are
ignored, and a poisoned word in the cellar is left as it is (log entry 64). -/
def ringBell (s : State) (p : Partition) (queue : Nat) (front : Frontier) : State :=
  let w := peek s (queueDesc p queue + 32) 8
  let off := w % 2 ^ 26
  match p.shareOn (w / 2 ^ 60 % 8) with
  | none => s
  | some c =>
    let x := c.base + off
    if w / 2 ^ 63 = 1 ∧ off % 8 = 0 ∧ off + 8 ≤ c.bytes ∧ !(s.poisoned x) then devRelease s x (toBytes 8 (peek s x 8 + 1)) 4 front else s

/-- A record is written, the producer index released at package scope, and the bell rung (R131). An index covers the records below
it: what the queue's earlier records have published is published with it. -/
def writeRecord (s : State) (p : Partition) (queue : Nat) (r : Ring) (bs : List Byte) (front : Frontier) : State :=
  let s := devWrite s (r.slot queue) bs none
  let F := fMerge s ((alGet p.rings queue).getD []) front
  let p := { p with rings := alSet p.rings queue F }
  ringBell (devRelease (s.setPartition p) (queueDesc p queue + 16) (toBytes 8 (r.producer + 1)) 4 F) p queue F

/-- The lines an append writes are not poisoned. -/
def recordWritable (s : State) (p : Partition) (queue : Nat) (r : Ring) : Bool :=
  !(s.poisoned (queueDesc p queue + 16)) &&
  (List.range (ceilDiv (recordBytes queue) 64)).all (fun k => !(s.poisoned (r.slot queue + 64 * k)))

/-- What an append publishes: a completed launch's retirements, or the frontier of the thread it is about as it was when the record was
made, of one that waits for its record, in its context or saved, with what it has seen since (R187). -/
def recordFront (s : State) (a : Append) : Frontier :=
  let mine := fun (t : Thread) => t.part == a.part && t.launchNum == a.num
  if a.kind = 4 then
    match s.launchOf a.part a.num with
    | some l => l.labels.foldl (fun F e => fMerge s F e.2) l.front
    | none => []
  else
    match a.thread.bind (fun loc => ((s.thread loc).filter mine).or ((s.saved.find? (fun x => x.loc == loc && mine x.thread)).map (·.thread))) with
    | some t => fMerge s a.front t.front
    | none => a.front

/-- The thread that waits for its record goes on (R132); saved meanwhile, it goes on when restored. -/
def recordAppended (s : State) (a : Append) : State :=
  match a.thread with
  | none => s
  | some loc =>
    match s.thread loc with
    | some t =>
      if t.part == a.part && t.launchNum == a.num then s.setThread loc { t with recordOwed := false } else savedAppended s loc
    | none => savedAppended s loc
where
  savedAppended (s : State) (loc : Nat) : State :=
    { s with saved := s.saved.map (fun x =>
        if x.loc == loc && x.thread.part == a.part && x.thread.launchNum == a.num then { x with thread := { x.thread with recordOwed := false } } else x) }

/-- A completed launch's number is free once its record is appended (R148). -/
def launchAppended (s : State) (a : Append) : State :=
  if a.kind = 4 then
    { s with launches := s.launches.filter (fun l => !(l.part == a.part && l.num == a.num))
             sgangs := s.sgangs.filter (fun g => !(g.gang.part == a.part && g.gang.launch == a.num)) }
  else s

/-- The bytes of a record with its append time (R134, R137). -/
def Append.bytes (a : Append) (now : Word) : List Byte :=
  if a.queue = 0 then toBytes 8 a.w0.toNat ++ toBytes 8 now.toNat ++ toBytes 8 a.w2.toNat ++ toBytes 8 a.w3.toNat
  else toBytes 8 a.w0.toNat ++ toBytes 8 a.w2.toNat ++ toBytes 8 now.toNat ++ toBytes 8 a.w3.toNat

/-- QUEUE_RECORD_APPEND: the consumer index is acquired, and the oldest record of a queue is appended, or held: the ring is full, or
the queue is halted (R131 to R133). -/
def execQueueRecordAppend (part queue : Nat) (s : State) : Host.Outcome State Fault Refusal :=
  match s.partition part, s.appends.find? (fun a => a.part == part && a.queue == queue) with
  | some p, some a =>
    let s := devAcquire s (queueDesc p queue + 24) 8
    match ringOf s p queue with
    | none => .next (holdRecords (setHalted s p queue true) p queue)
    | some r =>
      if r.used = r.entries then .next (holdRecords (setHalted s p queue false) p queue)
      else if !(recordWritable s p queue r) then .next (holdRecords (setHalted s p queue true) p queue)
      else
        let s1 := countHeld (setHalted s p queue false) p queue
        let s2 := recordAppended { s1 with appends := s1.appends.eraseIdx (s1.appends.findIdx (fun b => b.part == part && b.queue == queue)) } a
        .next (launchAppended (writeRecord s2 p queue r (a.bytes s.time) (recordFront s a)) a)
  | _, _ => noMove s

/-! ## Counter snapshots (R171) -/

/-- The cores of a partition, ascending. -/
def Partition.cores (p : Partition) : List Nat := p.clusters.flatMap (fun c => span (8 * c) 8)

/-- The bytes of a snapshot from its stamp on. -/
def snapshotBytes (s : State) (core : Nat) : List Byte :=
  let c := s.core core
  toBytes 8 s.time.toNat ++ c.perf.toList.flatMap (fun w => toBytes 8 w.toNat) ++ toBytes 8 c.errRegfile.toNat ++ toBytes 8 c.errLocal.toNat ++
  toBytes 8 c.errL1.toNat ++ toBytes 8 c.errDiscard.toNat ++ toBytes 8 ((alGet s.rowErr (core / 4)).getD 0).toNat ++ toBytes 8 0

/-- A select word applied: a counter whose code changes is set to 0. -/
def Core.applySelect (c : Core) (w : Word) : Core :=
  { c with select := w
           perf := Vector.ofFn (fun i : Fin 8 => if bits w (8 * i.val) 8 == bits c.select (8 * i.val) 8 then c.perf[i] else 0) }

/-- A snapshot of some core of the partition is due: the cores in ascending order at the end of each period. -/
def snapshotDue (s : State) (p : Partition) : Option Nat :=
  if p.snapAt.toNat ≤ s.time.toNat then p.cores[p.snapDone]? else none

/-- COUNTER_SNAPSHOT: a core's record is written and released at package scope, and its select word is to apply from the next
cycle (R171). -/
def execCounterSnapshot (part core : Nat) (s : State) : Host.Outcome State Fault Refusal :=
  match s.partition part with
  | none => noMove s
  | some p =>
    if snapshotDue s p ≠ some core then noMove s
    else
      let x := p.ctrBase + 128 * p.snapDone
      let w := wd (peek s x 8)
      let bs := snapshotBytes s core
      let s1 := devRelease s (x + 8) bs 4 []
      let last := decide (p.cores.length ≤ p.snapDone + 1)
      let p := if last then { p with snapDone := 0, snapAt := p.snapAt + wd (2 ^ p.ctrK) } else { p with snapDone := p.snapDone + 1 }
      .next ((s1.setPartition p).mapCore core (fun c => { c with selectNext := some w }))

end Sys2Proof.Machine
end

