-- ==== Sys2Proof/Machine/Fabric.lean ====
section
/-! DEFINITION. The Ethernet endpoints (R141, R142, R188, R347, R348, R354) and the outbound ring (R355). -/
namespace Sys2Proof.Machine

/-! ## Admission and windows (R348, R354) -/

/-- The answer codes of a packet the device sends: acknowledgement, no resources, access error; 16 + op is an outbound request. -/
def ackDone : Nat := 0
/-- The no-resources code. -/
def ackNoResources : Nat := 1
/-- The access-error code. -/
def ackAccess : Nat := 2

/-- Entry k of the peer table is live; its unlisted bits are ignored (log entry 64). -/
def peerLive (s : State) (p : Partition) (k : Nat) : Bool := peek s (p.peertab + 32 * k + 16) 8 % 2 == 1
/-- The fabric address of entry k of the peer table. -/
def peerAddress (s : State) (p : Partition) (k : Nat) : Nat := peek s (p.peertab + 32 * k) 16

/-- The fabric address of a partition's endpoint at a port: the configuration record's (R353, R354). -/
def endpointAddress (s : State) (p : Partition) (port : Nat) : Nat :=
  ofBytes ((s.flash.record.drop (32 + 16 * port + 128 * p.num)).take 16)

/-- The partition and peer that a packet reaches, where it is accepted: in a delivery mode that is supported, at an endpoint, with
its partition's jobid, from a live peer (R347, R348, R354); of several live entries with one address the lowest is the peer (DESIGN CHOICE, log
entry 64: R354 does not say). -/
def admitted (s : State) (pkt : Packet) : Option (Partition × Nat) :=
  match (if pkt.mode = .other then none else s.parts.find? (fun p =>
      decide (pkt.port < 8) && p.ports.testBit pkt.port && p.jobid == pkt.jobid && endpointAddress s p pkt.port == pkt.dest.toNat)) with
  | none => none
  | some p => ((List.range 64).find? (fun k => peerLive s p k && peerAddress s p k == pkt.source.toNat)).map (fun k => (p, k))

/-- A peer's frontier (R188). -/
def peerFront (s : State) (p : Partition) (k : Nat) : Frontier := (alGet s.peers (64 * p.num + k)).getD []
/-- The state with a peer's frontier. -/
def setPeerFront (s : State) (p : Partition) (k : Nat) (F : Frontier) : State := { s with peers := alSet s.peers (64 * p.num + k) F }

/-- The device answers a packet. -/
def sendReply (s : State) (port code : Nat) (data : List Byte) : State := { s with out := s.out ++ [⟨port, code, data⟩] }

/-- The physical base of the window that passes an operation, which carries less than 2^32 bytes (R347, R354; log entry 64, the
unlisted bits of the table ignored); of several entries that pass it, that of the lowest (DESIGN CHOICE, log entry 64: R354 does not say). -/
def window (s : State) (p : Partition) (pkt : Packet) (write : Bool) : Option Nat :=
  ((List.range 16).find? (fun k =>
    let e := peek s (p.wintab + 32 * k) 8
    e % 2 ^ 16 == pkt.key && e.testBit 16 && e.testBit (if write then 18 else 17) &&
    decide (pkt.size < 2 ^ 32) && decide (pkt.offset + pkt.size ≤ peek s (p.wintab + 32 * k + 16) 8 % 2 ^ 40))).map
    (fun k => peek s (p.wintab + 32 * k + 8) 8 % 2 ^ 40 + pkt.offset)

/-- The lines of n bytes at a physical address. -/
def linesOf (pa n : Nat) : List Nat := if n = 0 then [] else span (pa / 64) ((pa + n - 1) / 64 - pa / 64 + 1)

/-- Every line of a range can be accessed at its home: no copy is left, or it is poisoned (R111). -/
def homeReady (s : State) (pa n : Nat) : Bool :=
  (linesOf pa n).all (fun l => let e := s.dirEntry l; e.poison || (e.unheld && !(s.homeTx.any (fun q => q.line == l))))

/-- Writes at the home by a system-scope agent, unit by unit; what lies in a poisoned line is dropped, which the line's home counts
once (R114, R173, R188). -/
def homeWrite (s : State) (a : Agent) (F : Frontier) (x : Nat) (bs : List Byte) (label : Frontier → Option Label) : State × Frontier :=
  let gone := (linesOf x bs.length).filter (fun l => (s.dirEntry l).poison)
  let s := gone.foldl (fun st l => countDropped st (64 * l)) s
  let cells := (cellsOf (span x bs.length) bs).filter (fun c => !(gone.contains (c.1 / 64)))
  (unitsOf cells).foldl (fun acc u =>
    let r := land { acc.1 with fresh := acc.1.fresh + 1 } a acc.2 u acc.1.fresh false label
    (r.1, r.2.1)) (s, F)

/-- The data of a range is written at the home from where it has got to, line after line, as far as the slice watch units have room for the
records (R136): the state and the bytes written in all. -/
def lineWrites (p : Partition) (lo len : Nat) (data : List Byte) (write : State → Nat → List Byte → State) : List Nat → State → Nat → State × Nat
  | [], s, n => (s, n)
  | l :: ls, s, n =>
    let hi := min (lo + len) (64 * l + 64)
    let part := (data.drop n).take (hi - (lo + n))
    let xs := span (lo + n) part.length
    if watchBlocked s xs none 4 then (s, n)
    else
      let gone := (s.dirEntry l).poison
      lineWrites p lo len data write ls (watchWrite (write s (lo + n) part) (if gone then [] else xs) none 0 4 p.num 0) (n + part.length)

/-! ## Packets (R141, R142, R347, R348, R354) -/

/-- A command record (R141): length and sequence number, sender, payload. -/
def commandRecord (p : Partition) (k : Nat) (data : List Byte) : List Byte :=
  toBytes 8 (data.length + p.cmdSeq % 2 ^ 32 * 2 ^ 32) ++ toBytes 8 (p.jobid + k * 2 ^ 24) ++ data ++ List.replicate (240 - data.length) 0

/-- HOST_SEND: an admitted message is placed whole in a command record, or refused at the transport, which counts no held append
(R141, R142, R188; log entry 64). -/
def execHostSend (pkt : Packet) (s : State) : Host.Outcome State Fault Refusal :=
  match admitted s pkt with
  | none => noMove s
  | some (p, k) =>
    let s := devAcquire s (queueDesc p 2 + 24) 8
    if 240 < pkt.data.length then .next (sendReply s pkt.port ackNoResources [])
    else
      match ringOf s p 2 with
      | none => .next (sendReply (setHalted s p 2 true) pkt.port ackNoResources [])
      | some r =>
        if r.used = r.entries then .next (sendReply (setHalted s p 2 false) pkt.port ackNoResources [])
        else if !(recordWritable s p 2 r) then .next (sendReply (setHalted s p 2 true) pkt.port ackNoResources [])
        else
          let p' := { p with cmdSeq := p.cmdSeq + 1 }
          .next (sendReply (writeRecord (setHalted s p 2 false) p' 2 r (commandRecord p k pkt.data) (peerFront s p k)) pkt.port ackDone [])

/-- An RMA operation of no partition's window takes an access-error acknowledgement (R348). -/
def accessError (s : State) (pkt : Packet) : Host.Outcome State Fault Refusal := .next (sendReply s pkt.port ackAccess [])

/-- A peer writes at the home, above its frontier. -/
def peerWrite (p : Partition) (k : Nat) (s : State) (x : Nat) (bs : List Byte) : State :=
  let r := homeWrite s .peer (peerFront s p k) x bs (fun _ => none)
  setPeerFront r.1 p k r.2

/-- A peer's write goes on from where it has got to, with one watch record for each watched line of it, as far as the home's watch unit has room
for them (R136); it is acknowledged when all of it has been written, and where some is left the event comes again. A peer's write belongs to no
launch: its records hold launch number 0 (DESIGN CHOICE, log entry 64: R134 is silent). -/
def writeOn (s : State) (p : Partition) (r : PeerPart) (softs : List (Nat × Nat)) : Host.Outcome State Fault Refusal :=
  let left := r.pkt.size - r.done
  if !(homeReady s (r.base + r.done) left) then noMove s
  else
    let w := lineWrites p r.base r.pkt.size r.pkt.data (peerWrite p r.peer) (linesOf (r.base + r.done) left) (homeErrors s softs) r.done
    let rest := w.1.rmas.filter (fun x => x.pkt != r.pkt)
    if w.2 = r.pkt.size then .next (sendReply { w.1 with rmas := rest } r.pkt.port ackDone [])
    else if w.2 = r.done then noMove s
    else .next { w.1 with rmas := rest ++ [{ r with done := w.2 }] }

/-- RMA_WRITE: an admitted write is checked against the window table and performed at the home (R188, R354), in one move or, where its watch
records have to wait for room, in several (R136). -/
def execRmaWrite (write : PeerWrite) (s : State) : Host.Outcome State Fault Refusal :=
  let pkt := write.pkt
  match (s.rmas.find? (fun r => r.pkt == pkt)).bind (fun r => (s.partition r.part).map (fun p => (p, r))) with
  | some e => writeOn s e.1 e.2 write.softs
  | none =>
    match admitted s pkt with
    | none => noMove s
    | some (p, k) =>
      match window s p pkt true with
      | none => accessError s pkt
      | some x =>
        if !(p.hasBytes x pkt.size) || pkt.data.length ≠ pkt.size then accessError s pkt else writeOn s p ⟨pkt, p.num, k, x, 0⟩ write.softs

/-- RMA_READ: an admitted read is checked against the window table and answered from the home, a read move of the peer (R188, R354). -/
def execRmaRead (read : PeerRead) (s : State) : Host.Outcome State Fault Refusal :=
  let pkt := read.pkt
  match admitted s pkt with
  | none => noMove s
  | some (p, k) =>
    match window s p pkt false with
    | none => accessError s pkt
    | some x =>
      if !(p.hasBytes x pkt.size) then accessError s pkt
      else if !(homeReady s x pkt.size) then noMove s
      else
        let met := homeErrors s read.softs
        if (span x pkt.size).any met.poisoned then accessError met pkt
        else
          match chooseRead met (peerFront s p k) (span x pkt.size) read.picks with
          | none => noMove s
          | some c =>
            let s' := setPeerFront met p k (fRead met (peerFront s p k) c)
            .next (sendReply s' pkt.port ackDone ((span x pkt.size).map (choiceValue met c)))

/-- UNSUPPORTED_OPERATION: an admitted packet of any other operation takes an access error; nothing is performed (R347). -/
def execUnsupportedOperation (pkt : Packet) (s : State) : Host.Outcome State Fault Refusal :=
  match admitted s pkt with
  | none => noMove s
  | some _ => accessError s pkt

/-- PACKET_DROP: a packet that is not accepted is dropped without response and counted (R347, R348). -/
def execPacketDrop (pkt : Packet) (s : State) : Host.Outcome State Fault Refusal :=
  if (admitted s pkt).isSome then noMove s else .next { s with mon := { s.mon with dropped := s.mon.dropped + 1 } }

/-! ## The outbound ring (R355) -/

/-- The ring of a partition's outbound descriptor; none where it is not consistent. -/
def outRing (s : State) (p : Partition) : Option Ring :=
  let base := peek s p.outq 8
  let k := peek s (p.outq + 8) 8
  let r : Ring := ⟨base, 2 ^ k, peek s (p.outq + 16) 8, peek s (p.outq + 24) 8⟩
  if s.poisoned p.outq || base % 4096 ≠ 0 || k < 4 || 20 < k then none
  else if !(p.hasBytes base (r.entries * 64)) || r.entries < r.used then none
  else some r

/-- Fields of an outbound entry (R355). -/
structure OutEntry where
  op      : Nat
  port    : Nat
  peer    : Nat
  ordered : Bool
  length  : Nat
  loc     : Nat
  key     : Nat
  offset  : Nat
  done    : Nat
  deriving DecidableEq, Repr

/-- An entry as it stands in memory; bits that R355 does not list are ignored (log entry 64). -/
def outEntry (s : State) (x : Nat) : OutEntry :=
  let w := peek s x 8
  ⟨w % 256, w / 2 ^ 8 % 256, w / 2 ^ 16 % 64, w.testBit 22, w / 2 ^ 32, peek s (x + 8) 8 % 2 ^ 40, peek s (x + 16) 8 % 2 ^ 16,
   peek s (x + 24) 8 % 2 ^ 48, peek s (x + 32) 8 % 2 ^ 40 / 8 * 8⟩

/-- A field is bad, or the local range lies outside the partition: completion code 3; so do poisoned local bytes (log entry 50). -/
def OutEntry.bad (s : State) (p : Partition) (e : OutEntry) : Bool :=
  e.op == 0 || decide (3 < e.op) || decide (8 ≤ e.port) || !(p.ports.testBit e.port) || !(peerLive s p e.peer) ||
  (e.op == 1 && decide (240 < e.length)) || !(p.hasBytes e.loc e.length) || !(p.hasBytes e.done 8) ||
  (e.op != 3 && (span e.loc e.length).any s.poisoned)

/-- The request the device sends for an entry: the peer's address, the entry's fields, and the local bytes of a send or write. -/
def OutEntry.request (s : State) (p : Partition) (e : OutEntry) (bs : List Byte) : List Byte :=
  toBytes 16 (peerAddress s p e.peer) ++ toBytes 8 (e.key + e.ordered.toNat * 2 ^ 16 + e.length * 2 ^ 32) ++ toBytes 8 e.offset ++ bs

/-- The device's functions write at the home, above what they have seen (log entry 64: the outbound agent is one of them). -/
def outWrite (s : State) (x : Nat) (bs : List Byte) (label : Frontier → Option Label) : State :=
  let r := homeWrite s .memory s.dev x bs label
  { r.1 with dev := r.2 }

/-- A status code is written to a completion word, a release at system scope (R355); it makes no watch record (log entry 64). -/
def writeDone (s : State) (p : Partition) (done code : Nat) : State :=
  if p.hasBytes done 8 then outWrite s done (toBytes 8 code) (fun G => some ⟨G, 5, .memory⟩) else s

/-- The consumer index moves past the completed entries at the front. -/
def retireOutbound (s : State) (p : Partition) : State :=
  let n := (p.outbound.takeWhile (·.finished)).length
  let s := s.setPartition { p with outbound := p.outbound.drop n }
  if n = 0 then s else devWrite s (p.outq + 24) (toBytes 8 (peek s (p.outq + 24) 8 + n)) none

/-- An entry completes with a code: its outcome is written and its place is free once all before it have completed. -/
def completeOutbound (s : State) (p : Partition) (o : Outbound) (code : Nat) : State :=
  let s := writeDone s p o.done code
  let p := { p with outbound := p.outbound.map (fun q => if q.index == o.index then { q with finished := true } else q) }
  retireOutbound s p

/-- OUTBOUND_ENTRY_START: the producer index is acquired and the next released entry starts, its local bytes read as candidates of the
device's frontier; a bad one completes with code 3 and performs nothing (R355). -/
def execOutboundEntryStart (part : ReadMeets) (s : State) : Host.Outcome State Fault Refusal :=
  match s.partition part.of with
  | none => noMove s
  | some p =>
    match outRing s p with
    | none => noMove s
    | some r =>
      let met := homeErrors (devAcquire s (p.outq + 16) 8) part.softs
      let i := p.outNext.toNat
      if i = r.producer then noMove s
      else
        let e := outEntry met (r.base + i % r.entries * 64)
        let o : Outbound := ⟨i, e.op, e.length, e.loc, e.done, 0, false⟩
        let p' := { p with outNext := p.outNext + 1, outbound := p.outbound ++ [o] }
        if e.bad met p then
          if p.hasBytes e.done 8 && !(homeReady met e.done 8) then noMove s else .next (completeOutbound met p' o 3)
        else if e.op = 3 then .next (sendReply (met.setPartition p') e.port (16 + e.op) (e.request met p []))
        else if !(homeReady met e.loc e.length) then noMove s
        else
          let xs := span e.loc e.length
          match chooseRead met met.dev xs part.picks with
          | none => noMove s
          | some c => .next (sendReply ({ met with dev := fRead met met.dev c }.setPartition p') e.port (16 + e.op) (e.request met p (xs.map (choiceValue met c))))

/-- A started entry that has not completed. -/
def Partition.inFlight (p : Partition) (index : Nat) : Option Outbound := p.outbound.find? (fun o => o.index == index && !o.finished)

/-- The data of an RMA read is written from where it has got to (R136, R355). -/
def outData (p : Partition) (o : Outbound) (data : List Byte) (ls : List Nat) (s : State) (n : Nat) : State × Nat :=
  lineWrites p o.loc o.len data (fun s x bs => outWrite s x bs (fun _ => none)) ls s n

/-- OUTBOUND_COMPLETION: the peer's outcome, done, refused or access error, is written; the data of an RMA read first, for which the
event comes again where it has not all been written (R355). -/
def execOutboundCompletion (part index code : Nat) (data : List (BitVec 8)) (s : State) : Host.Outcome State Fault Refusal :=
  match s.partition part with
  | none => noMove s
  | some p =>
    match p.inFlight index with
    | none => noMove s
    | some o =>
      let reads := o.op == 3 && code == 0
      if 2 < code || !(homeReady s o.done 8) || (reads && (data.length ≠ o.len || !(homeReady s o.loc o.len))) then noMove s
      else if reads then
        let r := outData p o data (linesOf (o.loc + o.written) (o.len - o.written)) s o.written
        let set := fun (b : Bool) => { p with outbound := p.outbound.map (fun q => if q.index == index then { q with written := r.2, finished := b } else q) }
        if r.2 = o.len then .next (retireOutbound (writeDone r.1 p o.done 0) (set true))
        else if r.2 = o.written then noMove s
        else .next (r.1.setPartition (set false))
      else .next (completeOutbound s p o code)

/-- OUTBOUND_RETRY_LIMIT: an entry not acknowledged in time completes with code 4 (R355). -/
def execOutboundRetryLimit (part index : Nat) (s : State) : Host.Outcome State Fault Refusal :=
  match s.partition part with
  | none => noMove s
  | some p =>
    match p.inFlight index with
    | none => noMove s
    | some o => if homeReady s o.done 8 then .next (completeOutbound s p o 4) else noMove s

end Sys2Proof.Machine
end

