-- ==== Sys2Proof/Machine/HomeEvents.lean ====
section
/-! DEFINITION. The moves of the slices and the home directory: requests, answers, evictions, timeouts and error invalidates
(R111 to R113, R155). -/
namespace Sys2Proof.Machine

/-! ## Who needs a line -/

/-- An entry of a thread waits for a line, for a write or for a read. -/
def entryNeeds (s : State) (loc : Nat) (t : Thread) (line : Nat) (write : Bool) : Bool :=
  t.replay.any (fun e => e.flight == .waiting && e.state == .pending && e.mark.isNone &&
    (match e.instr with | some i => (write && i.isAtomic) || (!write && (i.isLoad || i.isWait)) | none => false) &&
    (entryLocs s loc t e).any (fun x => (bankOf x == 0 || bankOf x == 9) && lineOf x == line))

/-- A buffered store of a thread waits to be drained at a line. -/
def storeNeeds (t : Thread) (line : Nat) : Bool :=
  (t.sb ++ t.nt).any (fun e => e.cacheable && e.cells.any (fun c => (bankOf c.1 == 0 || bankOf c.1 == 9) && lineOf c.1 == line))

/-- The first address by which an entry's accesses reach a line, with its page's attributes. -/
def entryReach (s : State) (loc : Nat) (t : Thread) (line : Nat) (e : ReplayEntry) : Option (Nat × Attrs) :=
  (entryAccesses e).findSome? (fun p =>
    match checkedBytes s loc t e p.1 p.2.1 p.2.2 with
    | .ok xs as => (List.range xs.length).findSome? (fun j =>
        let x := xs.getD j 0
        if inLine x && lineOf x == line then some (p.1.addr + j, attrAt as j) else none)
    | _ => none)

/-- The address by which a thread reaches a line it needs, with its page's attributes. -/
def needAddr (s : State) (loc : Nat) (t : Thread) (line : Nat) : Nat × Attrs :=
  let waits := t.replay.filter (fun e => e.flight == .waiting && e.state == .pending)
  match waits.findSome? (entryReach s loc t line), (t.sb ++ t.nt).find? (fun e => e.cells.any (fun c => lineOf c.1 == line)) with
  | some p, _ => p
  | none, some e => (e.va, match xlate s (dieOf loc) t.part t.asid e.va with | .page _ a => a | _ => tableAttrs)
  | none, none => (64 * line, tableAttrs)

/-- A thread of a die that needs a line for reading (write false) or writing, with its locator. -/
def dieNeeds (s : State) (die line : Nat) (write : Bool) : Option (Nat × Thread) :=
  s.threads.find? (fun e => dieOf e.1 == die && (entryNeeds s e.1 e.2 line write || (write && storeNeeds e.2 line)))

/-! ## For whom a line is asked for (R110, R111) -/

/-- The address, ASID and page attributes by which a line is reached. -/
abbrev Reach := Nat × Nat × Attrs

/-- How an access of a die by an address reaches a line: as the line of its cacheable page, or, where it is a read, as a line of the tables that
the walk of its page reads (R102, R105, R110, R146). -/
def reachBy (s : State) (die part asid va line : Nat) (write : Bool) : Option Reach :=
  let mine := match s.partition part with | some p => p.hasAddr (64 * line) | none => false
  let data := match xlate s die part asid va with | .page pa at' => if at'.c && pa / 64 == line && mine then some at' else none | _ => none
  if 2 ^ 48 ≤ va then none
  else
    match data with
    | some at' => some (va, asid, at')
    | none => if !write && (walkLines s die part asid va 1).contains line then some (64 * line, 0, tableAttrs) else none

/-- How the access for which a die's slice asks for a line reaches it; none where no such access stands behind the message. -/
def askReach (s : State) (die line : Nat) (write : Bool) : Asker → Option Reach
  | .access =>
    (dieNeeds s die line write).map (fun e => let r := needAddr s e.1 e.2 line; (r.1, e.2.asid, r.2))
  | .command id va =>
    (s.cmds.find? (fun c => c.id == id && c.started && decide (c.queue < savedQueue) && queueDie c.queue == die)).bind (fun c =>
      reachBy s die c.win.part c.asid va line write)
  | .delivery id va =>
    ((s.deliveries.find? (fun d => d.id == id)).bind (fun d => d.ops.find? (fun o => o.1.die == die))).bind (fun o =>
      reachBy s die o.1.part o.1.dest.asid va line write)
  | .thread loc va => if dieOf loc == die then (s.thread loc).bind (fun t => reachBy s die t.part t.asid va line write) else none

/-! ## Serving requests -/

/-- The home timeout, and the slices' limit of twice it (R113). -/
def homeTimeout (s : State) : Nat := 2 ^ s.mon.homeK

/-- A time span has passed. -/
def passed (s : State) (since : Word) (n : Nat) : Bool := decide (n ≤ (s.time - since).toNat)

/-- The loads, stores and atomics of a die's threads at a line have the outcome of an error reply: loads and atomics will be poisoned, stores
are dropped and counted (R113, R114). -/
def refuseAccesses (s : State) (die line : Nat) : State :=
  s.threads.foldl (fun st p =>
    if dieOf p.1 != die then st
    else
      let t := p.2
      let hit := fun (e : ReplayEntry) => e.flight == .waiting && e.state == .pending && e.mark.isNone &&
        (entryLocs s p.1 t e).any (fun x => (bankOf x == 0 || bankOf x == 9) && lineOf x == line)
      let addr := fun (e : ReplayEntry) => match entryReach s p.1 t line e with | some r => r.1 / 64 * 64 | none => 0
      let lost := fun (e : StoreEntry) => e.cacheable && e.cells.any (fun c => (bankOf c.1 == 0 || bankOf c.1 == 9) && lineOf c.1 == line)
      let t' := { t with
        replay := t.replay.map (fun e => if hit e then { e with flight := .poisoning, fault := wd (addr e), value := 0 } else e)
        sb := t.sb.filter (fun e => !(lost e))
        nt := t.nt.filter (fun e => !(lost e)) }
      let gone := (t.sb ++ t.nt).filter lost
      let counts := fun (e : StoreEntry) => !e.counted && !(gone.any (fun x => decide (x.id < e.id) && sameDrop e x))
      let st := gone.foldl (fun r e => commandsSee (if counts e then countDropped r (64 * line) else r) p.1 e.id []) st
      st.setThread p.1 t') s

/-- The addresses that a thread fetches past its core's L1 instruction cache for its next instruction. -/
def fetchesFrom (s : State) (loc : Nat) (t : Thread) : List Nat :=
  if t.blocked s.time then []
  else ((t.pc.toNat :: (match (nextCode s loc t).2 with
    | .ok w => (match decode w with | .ok (.rpt ..) => [(t.pc + 4).toNat] | _ => [])
    | .error _ => [])).filter (fun va => (l1iFind s (coreOf loc) t.asid va).isNone))

/-- The instruction that a thread's access belongs to, apart from its fetch: the one whose check is outstanding, else its next. -/
def accessInstr (s : State) (loc : Nat) (t : Thread) : Option Instr :=
  match t.check with
  | some w => (match decode w with | .ok i => some i | .error _ => none)
  | none =>
    if t.blocked s.time then none
    else match (nextCode s loc t).2 with | .ok w => (match decode w with | .ok i => some i | .error _ => none) | .error _ => none

/-- A thread's fetch, frame, or read of a frame or of a scale byte, near an address has the outcome of an error reply: the poison trap of the
fetch or the read, subcause 2 for a line of the tables, the held thread of a frame's stores, the dropped store of a scale byte (R82, R84, R85,
R113, R114, R146, R280, R382). -/
def refuseThread (s : State) (loc : Nat) (t : Thread) (line va : Nat) (table : Bool) : State :=
  let near := fun (a n : Nat) => if table then a / 65536 == va / 65536 else decide (va / 64 * 64 < a + n) && decide (a < va / 64 * 64 + 64)
  let frame := bits t.tfp 0 48
  let sub := if table then 2 else 0
  match t.trapReq with
  | some r => if entersHandler s loc t && near frame 512 then holdThread s loc { t with trapReq := none } 8 r else s
  | none =>
    match (fetchesFrom s loc t).find? (fun a => near a 4) with
    | some a => takeTrap s loc t ⟨11, sub, 4, wd a⟩
    | none =>
      match accessInstr s loc t with
      | some .tret => if near frame 512 then takeTrap s loc t ⟨11, sub, 1, wd (if table then frame else va / 64 * 64)⟩ else s
      | some (.stx p v a b u w) =>
        match storeReq (.stx p v a b u w) t with
        | .ok (some q) =>
          (match q.elem with
           | some e =>
             let sc := e.2.2.2
             if !(sc.space == 0 && near sc.addr 1) then s
             else if table then (if t.check.isSome then s else takeTrap s loc t ⟨11, 2, 1, wd sc.addr⟩)
             else (if q.acc.space = 0 then countDropped s (64 * line) else s).setThread loc (t.advance s.time 1)
           | none => s)
        | _ => s
      | _ => s

/-- What stands behind a slice's request that gets an error reply has the outcome of one (R113, R114): the loads, stores and atomics at its
line; the access of the command, delivery or thread that it was sent for; and where that access's walk was to read the line, every miss on the
page walked. -/
def errorReply (s : State) (m : SliceMsg) : State :=
  let s := refuseAccesses s m.die m.line
  match m.asker with
  | .access => s
  | .command id _ => { s with cmds := s.cmds.map (fun c => if c.id == id then { c with refused := c.refused ++ [m.line] } else c) }
  | .delivery id _ => { s with deliveries := s.deliveries.map (fun d => if d.id == id then { d with refused := d.refused ++ [m.line] } else d) }
  | .thread loc va =>
    let table := m.attrs == tableAttrs
    match s.thread loc with
    | none => s
    | some t =>
      let s := if table then shareWalk s m.die t.part t.asid va (some .poisoned) else s
      match s.thread loc with
      | some u => if u.check == t.check then refuseThread s loc u m.line va table else s
      | none => s

/-- A message of a die about a line is answered: the answer is on its way to the slice (R113). -/
def answerMsg (s : State) (die line : Nat) : State :=
  { s with sliceMsgs := s.sliceMsgs.map (fun m => if m.die == die && m.line == line && m.stage == .home then { m with stage := .answered } else m) }

/-- A die's message about a line is over. -/
def endMsg (s : State) (die line : Nat) : State :=
  { s with sliceMsgs := s.sliceMsgs.filter (fun m => !(m.die == die && m.line == line)) }

/-- The message of a die about a line. -/
def msgOf (s : State) (die line : Nat) : Option SliceMsg := s.sliceMsgs.find? (fun m => m.die == die && m.line == line)

/-- A request at its home gets an error reply, which is discarded where its slice has given it up (R113). -/
def refuseRequest (s : State) (die line : Nat) : State :=
  match msgOf s die line with
  | some m => errorReply (endMsg s die line) m
  | none => s

/-- A line is owner-lost, and every requester that waits for it has an error reply (R113). -/
def ownerLost (s : State) (line : Nat) (owner : Option Nat) : State :=
  (s.sliceMsgs.filter (fun m => m.line == line && m.stage == .home)).foldl errorReply (loseOwner s line owner)

/-- A request has been granted: the directory changes and the answer goes to the slice (R111); of a line that has been poisoned meanwhile it is
an error reply (R113, R114). -/
def grant (s : State) (q : HomeTx) : State :=
  let e := s.dirEntry q.line
  if e.poison then refuseRequest s q.die q.line
  else
  match q.kind with
  | .read => answerMsg (s.setDir q.line (e.shared q.die)) q.die q.line
  | .upgrade => answerMsg (s.setDir q.line (e.modifiedBy q.die)) q.die q.line
  | _ => s.setDir q.line { e with holders := 0, state := 0 }

/-- The home begins a request: a fenced sender or a poisoned line gets an error reply, an inconsistent entry makes the line
owner-lost, copies are recalled or invalidated, or the request is granted at once (R111, R113, R154). -/
def serve (s : State) (q : HomeTx) : State :=
  let e := s.dirEntry q.line
  let drop := { s with homeTx := s.homeTx.filter (fun x => !(x.line == q.line && x.die == q.die && x.kind == q.kind)) }
  if decide (q.die < 8) && e.isFenced q.die then refuseRequest (errorInvalidate drop q.die q.line) q.die q.line
  else if e.poison then refuseRequest drop q.die q.line
  else if !e.agrees then ownerLost s q.line none
  else
    let owner := e.state == 2
    let targets := match q.kind with
      | .read => if owner then e.holderList else []
      | .upgrade => e.holderList.filter (· != q.die)
      | _ => e.holderList
    if targets.isEmpty then grant { s with homeTx := s.homeTx.filter (fun x => !(x.line == q.line && x.die == q.die && x.kind == q.kind)) } q
    else { s with homeTx := s.homeTx.map (fun x =>
      if x.line == q.line && x.die == q.die && x.kind == q.kind then { x with served := true, waits := targets.map (fun d => (d, owner, s.time)) } else x) }

/-- The next waiting request for a line is served (R155). -/
def serveNext (s : State) (line : Nat) : State :=
  if s.homeTx.any (fun q => q.line == line && q.served) then s
  else
    match s.homeTx.find? (fun q => q.line == line) with
    | some q => serve s q
    | none => s

/-- Serving until a request has to wait: at most one pass for each request of the line. -/
def serveAll (s : State) (line : Nat) : Nat → State
  | 0 => s
  | n + 1 => serveAll (serveNext s line) line n

/-- A request reaches the home of a line (R155). -/
def request (s : State) (die line : Nat) (kind : HomeKind) : State :=
  let q : HomeTx := ⟨line, die, kind, false, s.time, []⟩
  serveNext ({ s with homeTx := s.homeTx ++ [q] }.ranked 0 line die) line

/-- A message's stage set. -/
def setStage (s : State) (m : SliceMsg) (st : MsgStage) : State :=
  { s with sliceMsgs := s.sliceMsgs.map (fun x => if x.die == m.die && x.line == m.line then { x with stage := st } else x) }

/-- An answered request reaches its slice, which takes its copy, with the address, ASID and attributes it is reached by (R110); an answer about
a line that has been poisoned or lost, or from which the die has been fenced, meanwhile is an error reply (R113, R114). -/
def deliverGrant (s : State) (m : SliceMsg) : State :=
  let e := s.dirEntry m.line
  let s := endMsg s m.die m.line
  if e.poison || e.isFenced m.die || !(e.holds m.die) then errorReply s m else s.addCopy m.die m.line m.va m.asid m.attrs (m.kind == .upgrade)

/-- A slice's request in three moves, between which it may stay unanswered as long as R113 times it: it is sent when an access of the die needs
it and no message about the line is under way, it reaches the home, after the requests of lower dies of its cycle, and the answer
reaches the slice (R111, R113, R155). -/
def requestMove (s : State) (die : Nat) (ask : LineAsk) (kind : HomeKind) (reach : Option Reach) : Host.Outcome State Fault Refusal :=
  let line := ask.line
  match msgOf s die line with
  | none =>
    (match (if decide (64 * line < Config.hbmBytes) then reach else none) with
     | some r => .next { s with sliceMsgs := s.sliceMsgs ++ [⟨die, line, kind, s.time, .sent, r.1, r.2.1, r.2.2, ask.asker⟩] }
     | none => noMove s)
  | some m =>
    if m.kind != kind then noMove s
    else
      match m.stage with
      | .sent => if s.overtaken 0 line die then noMove s else .next (request (setStage s m .home) die line kind)
      | .home => noMove s
      | .answered => .next (deliverGrant s m)

/-- A writeback or an eviction notice at the home: a fenced die's is discarded and answered with an error invalidate; at an entry whose holders
disagree with its state the line is owner-lost (R154); after a writeback that keeps the copy the die is a sharer (R111, R113, R285). -/
def evictionArrives (s : State) (m : SliceMsg) : State :=
  let e := s.dirEntry m.line
  if e.isFenced m.die then errorInvalidate (endMsg s m.die m.line) m.die m.line
  else if !e.agrees then ownerLost (setStage s m .answered) m.line none
  else if m.kind == .cleaned then (setStage s m .answered).setDir m.line (if e.state == 2 && e.holds m.die then { e with state := 1 } else e)
  else (setStage s m .answered).setDir m.line (e.without m.die)

/-- An answer of a die to a recall or invalidation has arrived, or is taken as arrived: with none outstanding the request is
granted and the next one served. -/
def answered (s : State) (die line : Nat) : State :=
  match s.homeTx.find? (fun q => q.line == line && q.served) with
  | none => s
  | some q =>
    let q' := { q with waits := q.waits.filter (fun w => w.1 != die) }
    if q'.waits.isEmpty then
      let n := s.homeTx.length
      serveAll (grant { s with homeTx := s.homeTx.filter (fun x => !(x.line == line && x.served)) } q') line n
    else { s with homeTx := s.homeTx.map (fun x => if x.line == line && x.served then q' else x) }

/-- The outstanding wait of a die for a line. -/
def waitOf (s : State) (die line : Nat) : Option (HomeTx × Bool × Word) :=
  match s.homeTx.find? (fun q => q.line == line && q.served) with
  | none => none
  | some q => (q.waits.find? (fun w => w.1 == die)).map (fun w => (q, w.2))

/-- A slice answers a recall or invalidation: an owner writes back, a shared copy stays only under a read's recall; a die
that does not hold the line answers empty, which loses a line still recorded as modified there (R111, R113). -/
def answer (s : State) (die line : Nat) (q : HomeTx) (recalled : Bool) : State :=
  if !(s.held die line) then
    if recalled && (s.dirEntry line).holds die then ownerLost s line none else answered (s.setDir line ((s.dirEntry line).without die)) die line
  else if q.kind == .read then answered ((s.downgrade die line).setDir line { s.dirEntry line with state := 1 }) die line
  else answered ((dropCopy s die line).setDir line ((s.dirEntry line).without die)) die line

/-- An atomic of a die is in progress at a line its slice owns (R112). -/
def atomicAt (s : State) (die line : Nat) : Bool :=
  s.owns die line && s.threads.any (fun p => dieOf p.1 == die && entryNeeds s p.1 p.2 line true)

/-! ## The moves -/

/-- A die's read miss: sent, at the home, answered (R111, R155). -/
def execHomeReadMiss (die : Nat) (line : LineAsk) (s : State) : Host.Outcome State Fault Refusal :=
  requestMove s die line .read (if s.held die line.line then none else askReach s die line.line false line.asker)

/-- A die's first write asks the home for the line modified: sent, at the home, answered (R111, R155). -/
def execHomeUpgrade (die : Nat) (line : LineAsk) (s : State) : Host.Outcome State Fault Refusal :=
  requestMove s die line .upgrade (if s.owns die line.line then none else askReach s die line.line true line.asker)

/-- A slice evicts a line and tells the home, writing it back where it is modified: sent, at the home, answered (R111, R113). -/
def execHomeEviction (die line : Nat) (s : State) : Host.Outcome State Fault Refusal :=
  match msgOf s die line with
  | none => if s.held die line then .next (evict s die line) else noMove s
  | some m =>
    if !m.kind.tells then noMove s
    else
      match m.stage with
      | .sent => .next (evictionArrives s m)
      | _ => .next (endMsg s die line)

/-- A non-cacheable or peer access at the home recalls or invalidates every copy first (R111). -/
def execHomeNoncacheableAccess (line : Nat) (s : State) : Host.Outcome State Fault Refusal :=
  let e := s.dirEntry line
  if e.unheld || s.homeTx.any (fun q => q.line == line) then noMove s
  else .next (request s 8 line .noncacheable)

/-- An answer can come no more, its timeout having passed, or not yet: messages between a slice and a home arrive in the order
sent, so the grant before a recall is taken first, and a writeback or notice before an answer arrives first (R113). -/
def answerBarred (s : State) (die line : Nat) (since : Word) : Bool :=
  passed s since (homeTimeout s) ||
  s.sliceMsgs.any (fun m => m.die == die && m.line == line &&
    (m.stage == .answered && (m.kind == .read || m.kind == .upgrade) || m.stage == .sent && m.kind.tells))

/-- A slice answers a recall or an invalidation; an answer waits for an atomic in progress at its line (R111, R112). -/
def execHomeAcknowledgement (die line : Nat) (s : State) : Host.Outcome State Fault Refusal :=
  match waitOf s die line with
  | none => noMove s
  | some (q, recalled, since) =>
    if answerBarred s die line since || (recalled && atomicAt s die line) then noMove s else .next (answer s die line q recalled)

/-- After 40 cycles a recall is answered without the atomic it waited for (R112). -/
def execAtomicRecallWaitExpiry (die line : Nat) (s : State) : Host.Outcome State Fault Refusal :=
  match waitOf s die line with
  | none => noMove s
  | some (q, recalled, since) =>
    if !(answerBarred s die line since) && recalled && atomicAt s die line && passed s since 40 then .next (answer s die line q recalled) else noMove s

/-- A silent sharer is treated as having acknowledged and is fenced for the line (R113). -/
def execSharerTimeout (die line : Nat) (s : State) : Host.Outcome State Fault Refusal :=
  match waitOf s die line with
  | none => noMove s
  | some (_, recalled, since) =>
    if !recalled && passed s since (homeTimeout s) then
      let e := (s.dirEntry line).without die
      .next (answered (errorInvalidate (s.setDir line { e with fenced := e.fenced ||| dieBit die }) die line) die line)
    else noMove s

/-- A silent owner makes the line owner-lost and is fenced (R113, R193). -/
def execRecallTimeout (die line : Nat) (s : State) : Host.Outcome State Fault Refusal :=
  match waitOf s die line with
  | none => noMove s
  | some (_, recalled, since) => if recalled && passed s since (homeTimeout s) then .next (ownerLost s line (some die)) else noMove s

/-- An error invalidate not yet acknowledged is sent again after a home timeout (R113). -/
def execErrorInvalidateResend (die line : Nat) (s : State) : Host.Outcome State Fault Refusal :=
  if s.errInv.any (fun e => e.die == die && e.line == line && passed s e.sentAt (homeTimeout s)) then
    .next { s with errInv := s.errInv.map (fun e => if e.die == die && e.line == line then { e with sentAt := s.time } else e) }
  else noMove s

/-- The slice drops its copy without writing it back and acknowledges (R113, R193). -/
def execErrorInvalidateReceipt (die line : Nat) (s : State) : Host.Outcome State Fault Refusal :=
  if s.errInv.any (fun e => e.die == die && e.line == line && !e.received) then
    let s := dropCopy s die line
    .next { s with errInv := s.errInv.map (fun e => if e.die == die && e.line == line then { e with received := true } else e) }
  else noMove s

/-- The acknowledgement reaches the home, which clears the die's fence bit (R113, R154). -/
def execErrorInvalidateAck (die line : Nat) (s : State) : Host.Outcome State Fault Refusal :=
  if s.errInv.any (fun e => e.die == die && e.line == line && e.received) then
    let e := s.dirEntry line
    let s := s.setDir line { e with fenced := e.fenced &&& ~~~ dieBit die }
    .next { s with errInv := s.errInv.filter (fun e => !(e.die == die && e.line == line)) }
  else noMove s

/-- The limit of a slice's message has passed; one that stands at its home, behind others, never times out itself (R113, R155). -/
def givenUp (s : State) (m : SliceMsg) : Bool := m.stage != .home && passed s m.sentAt (2 * homeTimeout s)

/-- A slice gives up a message unanswered: it drops its copy, the accesses behind it have error replies, and the die counts it; an
answer that comes later is discarded (R113, R173, R193). -/
def execSliceRequestTimeout (die line : Nat) (s : State) : Host.Outcome State Fault Refusal :=
  match msgOf s die line with
  | none => noMove s
  | some m =>
    if givenUp s m then
      let s := endMsg s die line
      let s := if m.kind == .read || m.kind == .upgrade then errorReply s m else s
      .next (countDie (dropCopy s die line) die (fun d => { d with unanswered := satInc d.unanswered }))
    else noMove s

/-- A timeout of the homes or the slices has come: a recall or invalidation is unanswered, a message is to be given up, an error
invalidate is to be sent again (R113, R155). -/
def homeDue (s : State) : Bool :=
  s.homeTx.any (fun q => q.served && q.waits.any (fun w => passed s w.2.2 (homeTimeout s))) ||
  s.sliceMsgs.any (givenUp s) || s.errInv.any (fun e => passed s e.sentAt (homeTimeout s))

end Sys2Proof.Machine
end

