-- ==== Sys2Proof/Machine/Integer.lean ====
section
/-! DEFINITION. Integer, bit, immediate, compare, predicate and pointer instructions (R225 to R233), with `rtag`'s draw
among them (R236). -/
namespace Sys2Proof.Machine

/-! ## Shared operations -/

/-- A two-operand operation of INT64 (w = 0) or INT32 (w = 1), whose 32-bit result is sign-extended (R205, R227). -/
def intBin (w : Bool) (f : (n : Nat) → BitVec n → BitVec n → BitVec n) (x y : Word) : Word :=
  if w then (f 32 (x.setWidth 32) (y.setWidth 32)).signExtend 64 else f 64 x y

/-- A one-operand operation of INT64 or INT32. -/
def intUn (w : Bool) (f : (n : Nat) → BitVec n → BitVec n) (x : Word) : Word :=
  if w then (f 32 (x.setWidth 32)).signExtend 64 else f 64 x

/-- The high half of the signed product. -/
def mulHigh (n : Nat) (x y : BitVec n) : BitVec n := ((x.signExtend (2 * n) * y.signExtend (2 * n)) >>> n).setWidth n
/-- The high half of the unsigned product. -/
def mulHighN (n : Nat) (x y : BitVec n) : BitVec n := ((x.setWidth (2 * n) * y.setWidth (2 * n)) >>> n).setWidth n
/-- Signed quotient toward zero; all ones for divisor 0 (R44). -/
def divS (n : Nat) (x y : BitVec n) : BitVec n := if y = 0#n then BitVec.allOnes n else x.sdiv y
/-- Unsigned quotient; all ones for divisor 0 (R44). -/
def divU (n : Nat) (x y : BitVec n) : BitVec n := if y = 0#n then BitVec.allOnes n else x / y
/-- Signed remainder with the dividend's sign; the dividend for divisor 0 (R44). -/
def remS (n : Nat) (x y : BitVec n) : BitVec n := if y = 0#n then x else x.srem y
/-- Unsigned remainder; the dividend for divisor 0 (R44). -/
def remU (n : Nat) (x y : BitVec n) : BitVec n := if y = 0#n then x else x % y
/-- Shifts and rotation by y mod N (R227). -/
def shl (n : Nat) (x y : BitVec n) : BitVec n := x <<< (y.toNat % n)
def shr (n : Nat) (x y : BitVec n) : BitVec n := x >>> (y.toNat % n)
def sra (n : Nat) (x y : BitVec n) : BitVec n := x.sshiftRight (y.toNat % n)
def rot (n : Nat) (x y : BitVec n) : BitVec n := x.rotateLeft (y.toNat % n)
/-- Smaller and larger, signed and unsigned. -/
def minS (n : Nat) (x y : BitVec n) : BitVec n := if x.slt y then x else y
def minU (n : Nat) (x y : BitVec n) : BitVec n := if x.ult y then x else y
def maxS (n : Nat) (x y : BitVec n) : BitVec n := if x.slt y then y else x
def maxU (n : Nat) (x y : BitVec n) : BitVec n := if x.ult y then y else x
/-- Leading zero bits: N for zero. -/
def clz (n : Nat) (x : BitVec n) : BitVec n := BitVec.ofNat n (if x = 0#n then n else n - 1 - x.toNat.log2)
/-- Trailing zero bits: N for zero. -/
def ctz (n : Nat) (x : BitVec n) : BitVec n :=
  BitVec.ofNat n (((List.range n).find? (fun i => x.toNat.testBit i)).getD n)
/-- One bits. -/
def popc (n : Nat) (x : BitVec n) : BitVec n := BitVec.ofNat n ((List.range n).filter (fun i => x.toNat.testBit i)).length
/-- Bits in reverse order. -/
def brev (n : Nat) (x : BitVec n) : BitVec n := x.reverse
/-- Bytes in reverse order. -/
def bswap (n : Nat) (x : BitVec n) : BitVec n := BitVec.ofNat n (ofBytes (toBytes (n / 8) x.toNat).reverse)

/-- SignExtend of an immediate (R198). -/
def immS {n : Nat} (i : BitVec n) : Word := i.signExtend 64

/-- An integer register instruction. -/
def intInstr (s : State) (i : Instr) (lat : Nat) (d : Reg) (f : Thread → Word) : Host.Outcome State Fault Refusal :=
  issueLocal s i lat (fun th => th.setG d (f th))

/-- The cycles of a division: 8 in INT32, 16 in INT64 (R225). -/
def divLat (w : Bool) : Nat := if w then 8 else 16

/-! ## Register forms (R227) -/

/-- `add`: (x + y) mod 2^N (R227). -/
def execAdd (w : Bool) (d a b : BitVec 6) (t u : Bool) (s : State) : Host.Outcome State Fault Refusal :=
  intInstr s (.add w d a b t u) 1 d (fun th => intBin w (fun _ x y => x + y) (th.gpr a) (th.gpr b))

/-- `sub`: (x - y) mod 2^N (R227). -/
def execSub (w : Bool) (d a b : BitVec 6) (t u : Bool) (s : State) : Host.Outcome State Fault Refusal :=
  intInstr s (.sub w d a b t u) 1 d (fun th => intBin w (fun _ x y => x - y) (th.gpr a) (th.gpr b))

/-- `mul`: (x * y) mod 2^N (R227). -/
def execMul (w : Bool) (d a b : BitVec 6) (t u : Bool) (s : State) : Host.Outcome State Fault Refusal :=
  intInstr s (.mul w d a b t u) 1 d (fun th => intBin w (fun _ x y => x * y) (th.gpr a) (th.gpr b))

/-- `mulh`: the high half of the signed product (R227). -/
def execMulh (w : Bool) (d a b : BitVec 6) (t u : Bool) (s : State) : Host.Outcome State Fault Refusal :=
  intInstr s (.mulh w d a b t u) 1 d (fun th => intBin w mulHigh (th.gpr a) (th.gpr b))

/-- `mulhn`: the high half of the unsigned product (R227). -/
def execMulhn (w : Bool) (d a b : BitVec 6) (t u : Bool) (s : State) : Host.Outcome State Fault Refusal :=
  intInstr s (.mulhn w d a b t u) 1 d (fun th => intBin w mulHighN (th.gpr a) (th.gpr b))

/-- `div`: the signed quotient (R227). -/
def execDiv (w : Bool) (d a b : BitVec 6) (t u : Bool) (s : State) : Host.Outcome State Fault Refusal :=
  intInstr s (.div w d a b t u) (divLat w) d (fun th => intBin w divS (th.gpr a) (th.gpr b))

/-- `divn`: the unsigned quotient (R227). -/
def execDivn (w : Bool) (d a b : BitVec 6) (t u : Bool) (s : State) : Host.Outcome State Fault Refusal :=
  intInstr s (.divn w d a b t u) (divLat w) d (fun th => intBin w divU (th.gpr a) (th.gpr b))

/-- `rem`: the signed remainder (R227). -/
def execRem (w : Bool) (d a b : BitVec 6) (t u : Bool) (s : State) : Host.Outcome State Fault Refusal :=
  intInstr s (.rem w d a b t u) (divLat w) d (fun th => intBin w remS (th.gpr a) (th.gpr b))

/-- `remn`: the unsigned remainder (R227). -/
def execRemn (w : Bool) (d a b : BitVec 6) (t u : Bool) (s : State) : Host.Outcome State Fault Refusal :=
  intInstr s (.remn w d a b t u) (divLat w) d (fun th => intBin w remU (th.gpr a) (th.gpr b))

/-- `and`: x & y (R227). -/
def execAnd (w : Bool) (d a b : BitVec 6) (t u : Bool) (s : State) : Host.Outcome State Fault Refusal :=
  intInstr s (.and w d a b t u) 1 d (fun th => intBin w (fun _ x y => x &&& y) (th.gpr a) (th.gpr b))

/-- `or`: x or y, bit by bit (R227). -/
def execOr (w : Bool) (d a b : BitVec 6) (t u : Bool) (s : State) : Host.Outcome State Fault Refusal :=
  intInstr s (.or w d a b t u) 1 d (fun th => intBin w (fun _ x y => x ||| y) (th.gpr a) (th.gpr b))

/-- `xor`: x ^ y (R227). -/
def execXor (w : Bool) (d a b : BitVec 6) (t u : Bool) (s : State) : Host.Outcome State Fault Refusal :=
  intInstr s (.xor w d a b t u) 1 d (fun th => intBin w (fun _ x y => x ^^^ y) (th.gpr a) (th.gpr b))

/-- `andn`: x & ~y (R227). -/
def execAndn (w : Bool) (d a b : BitVec 6) (t u : Bool) (s : State) : Host.Outcome State Fault Refusal :=
  intInstr s (.andn w d a b t u) 1 d (fun th => intBin w (fun _ x y => x &&& ~~~ y) (th.gpr a) (th.gpr b))

/-- `orn`: x or ~y, bit by bit (R227). -/
def execOrn (w : Bool) (d a b : BitVec 6) (t u : Bool) (s : State) : Host.Outcome State Fault Refusal :=
  intInstr s (.orn w d a b t u) 1 d (fun th => intBin w (fun _ x y => x ||| ~~~ y) (th.gpr a) (th.gpr b))

/-- `shl`: x shifted left by y mod N (R227). -/
def execShl (w : Bool) (d a b : BitVec 6) (t u : Bool) (s : State) : Host.Outcome State Fault Refusal :=
  intInstr s (.shl w d a b t u) 1 d (fun th => intBin w shl (th.gpr a) (th.gpr b))

/-- `shr`: x shifted right by y mod N (R227). -/
def execShr (w : Bool) (d a b : BitVec 6) (t u : Bool) (s : State) : Host.Outcome State Fault Refusal :=
  intInstr s (.shr w d a b t u) 1 d (fun th => intBin w shr (th.gpr a) (th.gpr b))

/-- `sra`: x shifted right arithmetically by y mod N (R227). -/
def execSra (w : Bool) (d a b : BitVec 6) (t u : Bool) (s : State) : Host.Outcome State Fault Refusal :=
  intInstr s (.sra w d a b t u) 1 d (fun th => intBin w sra (th.gpr a) (th.gpr b))

/-- `rot`: x rotated left by y mod N (R227). -/
def execRot (w : Bool) (d a b : BitVec 6) (t u : Bool) (s : State) : Host.Outcome State Fault Refusal :=
  intInstr s (.rot w d a b t u) 1 d (fun th => intBin w rot (th.gpr a) (th.gpr b))

/-- `min`: the smaller, signed (R227). -/
def execMin (w : Bool) (d a b : BitVec 6) (t u : Bool) (s : State) : Host.Outcome State Fault Refusal :=
  intInstr s (.min w d a b t u) 1 d (fun th => intBin w minS (th.gpr a) (th.gpr b))

/-- `minn`: the smaller, unsigned (R227). -/
def execMinn (w : Bool) (d a b : BitVec 6) (t u : Bool) (s : State) : Host.Outcome State Fault Refusal :=
  intInstr s (.minn w d a b t u) 1 d (fun th => intBin w minU (th.gpr a) (th.gpr b))

/-- `max`: the larger, signed (R227). -/
def execMax (w : Bool) (d a b : BitVec 6) (t u : Bool) (s : State) : Host.Outcome State Fault Refusal :=
  intInstr s (.max w d a b t u) 1 d (fun th => intBin w maxS (th.gpr a) (th.gpr b))

/-- `maxn`: the larger, unsigned (R227). -/
def execMaxn (w : Bool) (d a b : BitVec 6) (t u : Bool) (s : State) : Host.Outcome State Fault Refusal :=
  intInstr s (.maxn w d a b t u) 1 d (fun th => intBin w maxU (th.gpr a) (th.gpr b))

/-- `clz`: leading zero bits (R227). -/
def execClz (w : Bool) (d a : BitVec 6) (t : Bool) (s : State) : Host.Outcome State Fault Refusal :=
  intInstr s (.clz w d a t) 1 d (fun th => intUn w clz (th.gpr a))

/-- `ctz`: trailing zero bits (R227). -/
def execCtz (w : Bool) (d a : BitVec 6) (t : Bool) (s : State) : Host.Outcome State Fault Refusal :=
  intInstr s (.ctz w d a t) 1 d (fun th => intUn w ctz (th.gpr a))

/-- `popc`: one bits (R227). -/
def execPopc (w : Bool) (d a : BitVec 6) (t : Bool) (s : State) : Host.Outcome State Fault Refusal :=
  intInstr s (.popc w d a t) 1 d (fun th => intUn w popc (th.gpr a))

/-- `brev`: bits reversed (R227). -/
def execBrev (w : Bool) (d a : BitVec 6) (t : Bool) (s : State) : Host.Outcome State Fault Refusal :=
  intInstr s (.brev w d a t) 1 d (fun th => intUn w brev (th.gpr a))

/-- `bswap`: bytes reversed (R227). -/
def execBswap (w : Bool) (d a : BitVec 6) (t : Bool) (s : State) : Host.Outcome State Fault Refusal :=
  intInstr s (.bswap w d a t) 1 d (fun th => intUn w bswap (th.gpr a))

/-- `sext`: the low 8 x 2^w bits, sign-extended (R227). -/
def execSext (d a : BitVec 6) (z : BitVec 2) (t : Bool) (s : State) : Host.Outcome State Fault Refusal :=
  intInstr s (.sext d a z t) 1 d (fun th => signExt (8 * 2 ^ z.toNat) (th.gpr a).toNat)

/-- `zext`: the low 8 x 2^w bits, zero-extended (R227). -/
def execZext (d a : BitVec 6) (z : BitVec 2) (t : Bool) (s : State) : Host.Outcome State Fault Refusal :=
  intInstr s (.zext d a z t) 1 d (fun th => wd (bits (th.gpr a) 0 (8 * 2 ^ z.toNat)))

/-! ## Immediate forms (R228 to R230) -/

/-- `add` immediate: Gpr(a) + SignExtend(imm12) (R228). -/
def execAddImm (d a : BitVec 6) (t : Bool) (i : BitVec 12) (s : State) : Host.Outcome State Fault Refusal :=
  intInstr s (.addImm d a t i) 1 d (fun th => th.gpr a + immS i)

/-- `and` immediate: Gpr(a) & SignExtend(imm12) (R228). -/
def execAndImm (d a : BitVec 6) (t : Bool) (i : BitVec 12) (s : State) : Host.Outcome State Fault Refusal :=
  intInstr s (.andImm d a t i) 1 d (fun th => th.gpr a &&& immS i)

/-- `or` immediate: Gpr(a) or SignExtend(imm12), bit by bit (R228). -/
def execOrImm (d a : BitVec 6) (t : Bool) (i : BitVec 12) (s : State) : Host.Outcome State Fault Refusal :=
  intInstr s (.orImm d a t i) 1 d (fun th => th.gpr a ||| immS i)

/-- `xor` immediate: Gpr(a) ^ SignExtend(imm12) (R228). -/
def execXorImm (d a : BitVec 6) (t : Bool) (i : BitVec 12) (s : State) : Host.Outcome State Fault Refusal :=
  intInstr s (.xorImm d a t i) 1 d (fun th => th.gpr a ^^^ immS i)

/-- `shl` immediate: shift left by k (R228). -/
def execShlImm (d a : BitVec 6) (t : Bool) (k : BitVec 6) (s : State) : Host.Outcome State Fault Refusal :=
  intInstr s (.shlImm d a t k) 1 d (fun th => th.gpr a <<< k.toNat)

/-- `shr` immediate: shift right by k (R228). -/
def execShrImm (d a : BitVec 6) (t : Bool) (k : BitVec 6) (s : State) : Host.Outcome State Fault Refusal :=
  intInstr s (.shrImm d a t k) 1 d (fun th => th.gpr a >>> k.toNat)

/-- `sra` immediate: arithmetic shift right by k (R228). -/
def execSraImm (d a : BitVec 6) (t : Bool) (k : BitVec 6) (s : State) : Host.Outcome State Fault Refusal :=
  intInstr s (.sraImm d a t k) 1 d (fun th => (th.gpr a).sshiftRight k.toNat)

/-- `rot` immediate: rotate left by k (R228). -/
def execRotImm (d a : BitVec 6) (t : Bool) (k : BitVec 6) (s : State) : Host.Outcome State Fault Refusal :=
  intInstr s (.rotImm d a t k) 1 d (fun th => (th.gpr a).rotateLeft k.toNat)

/-- The mask of a bit field: len ones from pos (R229). -/
def fieldMask (pos len : Nat) : Word := wd ((2 ^ len - 1) * 2 ^ pos)

/-- `bfx`: the field of len bits at pos, zero-extended (R229). -/
def execBfx (d a : BitVec 6) (t : Bool) (p l : BitVec 6) (s : State) : Host.Outcome State Fault Refusal :=
  intInstr s (.bfx d a t p l) 1 d (fun th => wd (bits (th.gpr a) p.toNat (l.toNat + 1)))

/-- `bfi`: the low len bits of Gpr(a) replace the field at pos of Gpr(d) (R229). -/
def execBfi (d a : BitVec 6) (t : Bool) (p l : BitVec 6) (s : State) : Host.Outcome State Fault Refusal :=
  intInstr s (.bfi d a t p l) 1 d (fun th =>
    let m := fieldMask p.toNat (l.toNat + 1)
    (th.gpr d &&& ~~~ m) ||| ((th.gpr a <<< p.toNat) &&& m))

/-- `li`: SignExtend(imm19) (R230). -/
def execLi (d : BitVec 6) (i : BitVec 19) (s : State) : Host.Outcome State Fault Refusal :=
  intInstr s (.li d i) 1 d (fun _ => immS i)

/-- `lic`: Gpr(d) shifted left by 19 with imm19 below (R230). -/
def execLic (d : BitVec 6) (i : BitVec 19) (s : State) : Host.Outcome State Fault Refusal :=
  intInstr s (.lic d i) 1 d (fun th => (th.gpr d <<< 19) ||| i.setWidth 64)

/-! ## Compares and predicates (R231, R232) -/

/-- The condition of a compare (R203, R231). -/
def holds {n : Nat} (c : BitVec 3) (x y : BitVec n) : Bool :=
  match c.toNat with
  | 0 => x == y
  | 1 => x != y
  | 2 => x.slt y
  | 3 => x.sle y
  | 4 => x.ult y
  | _ => x.ule y

/-- An instruction that writes one predicate. -/
def predInstr (s : State) (i : Instr) (k : BitVec 3) (f : Thread → Bool) : Host.Outcome State Fault Refusal :=
  issueLocal s i 1 (fun th => th.setP k (f th))

/-- `cmp`: 64-bit compare into a predicate (R231). -/
def execCmp (c p : BitVec 3) (a b : BitVec 6) (t u : Bool) (s : State) : Host.Outcome State Fault Refusal :=
  predInstr s (.cmp c p a b t u) p (fun th => holds c (th.gpr a) (th.gpr b))

/-- `cmp.w`: compare of bits [31:0] (R231). -/
def execCmpW (c p : BitVec 3) (a b : BitVec 6) (t u : Bool) (s : State) : Host.Outcome State Fault Refusal :=
  predInstr s (.cmpW c p a b t u) p (fun th => holds c ((th.gpr a).setWidth 32) ((th.gpr b).setWidth 32))

/-- `cmpi`: compare with SignExtend(imm12) (R231). -/
def execCmpi (c p : BitVec 3) (a : BitVec 6) (t : Bool) (i : BitVec 12) (s : State) : Host.Outcome State Fault Refusal :=
  predInstr s (.cmpi c p a t i) p (fun th => holds c (th.gpr a) (immS i))

/-- `pand` (R232). -/
def execPand (d a b : BitVec 3) (s : State) : Host.Outcome State Fault Refusal :=
  predInstr s (.pand d a b) d (fun th => th.pred a && th.pred b)

/-- `por` (R232). -/
def execPor (d a b : BitVec 3) (s : State) : Host.Outcome State Fault Refusal :=
  predInstr s (.por d a b) d (fun th => th.pred a || th.pred b)

/-- `pxor` (R232). -/
def execPxor (d a b : BitVec 3) (s : State) : Host.Outcome State Fault Refusal :=
  predInstr s (.pxor d a b) d (fun th => th.pred a != th.pred b)

/-- `pnot` (R232). -/
def execPnot (d a : BitVec 3) (s : State) : Host.Outcome State Fault Refusal :=
  predInstr s (.pnot d a) d (fun th => !(th.pred a))

/-- `movp pd, ga`: 1 when Gpr(a) is not 0 (R232). -/
def execMovpToPred (d : BitVec 3) (a : BitVec 6) (t : Bool) (s : State) : Host.Outcome State Fault Refusal :=
  predInstr s (.movpToPred d a t) d (fun th => th.gpr a != 0)

/-- `movp gd, pa` (R232). -/
def execMovpToGpr (d : BitVec 6) (a : BitVec 3) (s : State) : Host.Outcome State Fault Refusal :=
  intInstr s (.movpToGpr d a) 1 d (fun th => boolWord (th.pred a))

/-- `sel`: Gpr(a) when pk is 1, else Gpr(b) (R232). -/
def execSel (d a b : BitVec 6) (t u : Bool) (k : BitVec 3) (s : State) : Host.Outcome State Fault Refusal :=
  intInstr s (.sel d a b t u k) 1 d (fun th => if th.pred k then th.gpr a else th.gpr b)

/-! ## Pointers (R97, R233, R236) -/

/-- A pointer with its tag field [59:56] replaced. -/
def withTag (p : Word) (t : Nat) : Word := setBits p 56 4 t

/-- `addp`: the stepped pointer, none where the address would leave the space (R233). -/
def stepPointer (p : Word) (y : Int) : Option Word :=
  let v := (bits p 0 48 : Int) + y
  if v < 0 ∨ (2 ^ 48 : Nat) ≤ v then none else some (setBits p 0 48 v.toNat)

/-- The effect shared by both forms of `addp`. -/
def addpEffect (s : State) (i : Instr) (d a : Reg) (y : Thread → Word) : Host.Outcome State Fault Refusal :=
  issue s i (fun th =>
    match stepPointer (th.gpr a) (y th).toInt with
    | none => .next (s.trap th ⟨5, 1, th.gpr a, 0⟩)
    | some v => .next (s.put ((th.setG d v).advance s.time 1)))

/-- `addp gd, ga, gb` (R233). -/
def execAddp (d a b : BitVec 6) (t u : Bool) (s : State) : Host.Outcome State Fault Refusal :=
  addpEffect s (.addp d a b t u) d a (fun th => th.gpr b)

/-- `addp gd, ga, imm` (R233). -/
def execAddpImm (d a : BitVec 6) (t : Bool) (i : BitVec 12) (s : State) : Host.Outcome State Fault Refusal :=
  addpEffect s (.addpImm d a t i) d a (fun _ => immS i)

/-- `setf`: [55:48] := Gpr(b)[7:0] (R233). -/
def execSetf (d a b : BitVec 6) (t u : Bool) (s : State) : Host.Outcome State Fault Refusal :=
  intInstr s (.setf d a b t u) 1 d (fun th => setBits (th.gpr a) 48 8 (bits (th.gpr b) 0 8))

/-- `getf`: bits [55:48] (R233). -/
def execGetf (d a : BitVec 6) (t : Bool) (s : State) : Host.Outcome State Fault Refusal :=
  intInstr s (.getf d a t) 1 d (fun th => wd (bits (th.gpr a) 48 8))

/-- `settag`: [59:56] := Gpr(b)[3:0] (R233). -/
def execSettag (d a b : BitVec 6) (t u : Bool) (s : State) : Host.Outcome State Fault Refusal :=
  intInstr s (.settag d a b t u) 1 d (fun th => withTag (th.gpr a) (bits (th.gpr b) 0 4))

/-- `gettag`: bits [59:56] (R233). -/
def execGettag (d a : BitVec 6) (t : Bool) (s : State) : Host.Outcome State Fault Refusal :=
  intInstr s (.gettag d a t) 1 d (fun th => wd (bits (th.gpr a) 56 4))

/-- The state with one more free value drawn. -/
def State.nextDraw (s : State) : State := { s with draws := s.draws + 1 }

/-- The tag `rtag` receives: one of the tags not masked, chosen by a free draw; 0 when all are masked (R236). -/
def drawTag (draw : Nat) (mask : Word) : Nat :=
  let free := (List.range 16).filter (fun t => !(bit mask t))
  if free.isEmpty then 0 else free.getD ((Config.rtagDraw draw).toNat % free.length) 0

/-- `rtag`: Gpr(a) with a drawn tag (R236). The draw is a free value. -/
def execRtag (d a b : BitVec 6) (t u : Bool) (s : State) : Host.Outcome State Fault Refusal :=
  issue s (.rtag d a b t u) (fun th =>
    .next (((s.put ((th.setG d (withTag (th.gpr a) (drawTag s.draws (th.gpr b)))).advance s.time 1)) : State).nextDraw))

end Sys2Proof.Machine
end

