-- ==== Sys2Proof/Machine/Hash.lean ====
section
/-! DEFINITION. SHA2-384 (R358): the hash that R358 names is that of FIPS 180-4, from which its constants, functions, padding and rounds are
taken (PRESUMED, log entry 67). -/
namespace Sys2Proof.Machine

/-- The round constants, sixteen at a time: the first 64 bits of the fractional parts of the cube roots of the first eighty primes. -/
def sha0Constants : List Word :=
  [0x428a2f98d728ae22, 0x7137449123ef65cd, 0xb5c0fbcfec4d3b2f, 0xe9b5dba58189dbbc,
   0x3956c25bf348b538, 0x59f111f1b605d019, 0x923f82a4af194f9b, 0xab1c5ed5da6d8118,
   0xd807aa98a3030242, 0x12835b0145706fbe, 0x243185be4ee4b28c, 0x550c7dc3d5ffb4e2,
   0x72be5d74f27b896f, 0x80deb1fe3b1696b1, 0x9bdc06a725c71235, 0xc19bf174cf692694]

/-- Constants that follow. -/
def sha1Constants : List Word :=
  [0xe49b69c19ef14ad2, 0xefbe4786384f25e3, 0x0fc19dc68b8cd5b5, 0x240ca1cc77ac9c65,
   0x2de92c6f592b0275, 0x4a7484aa6ea6e483, 0x5cb0a9dcbd41fbd4, 0x76f988da831153b5,
   0x983e5152ee66dfab, 0xa831c66d2db43210, 0xb00327c898fb213f, 0xbf597fc7beef0ee4,
   0xc6e00bf33da88fc2, 0xd5a79147930aa725, 0x06ca6351e003826f, 0x142929670a0e6e70]

/-- Constants that follow. -/
def sha2Constants : List Word :=
  [0x27b70a8546d22ffc, 0x2e1b21385c26c926, 0x4d2c6dfc5ac42aed, 0x53380d139d95b3df,
   0x650a73548baf63de, 0x766a0abb3c77b2a8, 0x81c2c92e47edaee6, 0x92722c851482353b,
   0xa2bfe8a14cf10364, 0xa81a664bbc423001, 0xc24b8b70d0f89791, 0xc76c51a30654be30,
   0xd192e819d6ef5218, 0xd69906245565a910, 0xf40e35855771202a, 0x106aa07032bbd1b8]

/-- Constants that follow. -/
def sha3Constants : List Word :=
  [0x19a4c116b8d2d0c8, 0x1e376c085141ab53, 0x2748774cdf8eeb99, 0x34b0bcb5e19b48a8,
   0x391c0cb3c5c95a63, 0x4ed8aa4ae3418acb, 0x5b9cca4f7763e373, 0x682e6ff3d6b2b8a3,
   0x748f82ee5defb2fc, 0x78a5636f43172f60, 0x84c87814a1f0ab72, 0x8cc702081a6439ec,
   0x90befffa23631e28, 0xa4506cebde82bde9, 0xbef9a3f7b2c67915, 0xc67178f2e372532b]

/-- Constants that follow. -/
def sha4Constants : List Word :=
  [0xca273eceea26619c, 0xd186b8c721c0c207, 0xeada7dd6cde0eb1e, 0xf57d4f7fee6ed178,
   0x06f067aa72176fba, 0x0a637dc5a2c898a6, 0x113f9804bef90dae, 0x1b710b35131c471b,
   0x28db77f523047d84, 0x32caab7b40c72493, 0x3c9ebe0a15c9bebc, 0x431d67c49c100d4c,
   0x4cc5d4becb3e42b6, 0x597f299cfc657e2a, 0x5fcb6fab3ad6faec, 0x6c44198c4a475817]

/-- The eighty round constants. -/
def shaConstants : List Word := sha0Constants ++ sha1Constants ++ sha2Constants ++ sha3Constants ++ sha4Constants

/-- The working variables a to h, and the hash value between blocks. -/
structure ShaState where
  a : Word
  b : Word
  c : Word
  d : Word
  e : Word
  f : Word
  g : Word
  h : Word
  deriving DecidableEq, Repr

/-- The initial hash value of SHA2-384: the first 64 bits of the fractional parts of the square roots of the ninth to the sixteenth prime. -/
def shaInit : ShaState :=
  ⟨0xcbbb9d5dc1059ed8, 0x629a292a367cd507, 0x9159015a3070dd17, 0x152fecd8f70e5939,
   0x67332667ffc00b31, 0x8eb44a8768581511, 0xdb0c2e0d64f98fa7, 0x47b5481dbefa4fa4⟩

/-- A word rotated right. -/
def rotateRight (x : Word) (n : Nat) : Word := (x >>> n) ||| (x <<< (64 - n))

/-- The functions of a round and of the message schedule. -/
def shaSum0 (x : Word) : Word := rotateRight x 28 ^^^ rotateRight x 34 ^^^ rotateRight x 39
def shaSum1 (x : Word) : Word := rotateRight x 14 ^^^ rotateRight x 18 ^^^ rotateRight x 41
def shaMix0 (x : Word) : Word := rotateRight x 1 ^^^ rotateRight x 8 ^^^ (x >>> 7)
def shaMix1 (x : Word) : Word := rotateRight x 19 ^^^ rotateRight x 61 ^^^ (x >>> 6)
def shaChoose (x y z : Word) : Word := (x &&& y) ^^^ (~~~ x &&& z)
def shaMajority (x y z : Word) : Word := (x &&& y) ^^^ (x &&& z) ^^^ (y &&& z)

/-- One round with its constant and its word of the schedule. -/
def shaRound (s : ShaState) (k w : Word) : ShaState :=
  let t1 := s.h + shaSum1 s.e + shaChoose s.e s.f s.g + k + w
  let t2 := shaSum0 s.a + shaMajority s.a s.b s.c
  ⟨t1 + t2, s.a, s.b, s.c, s.d + t1, s.e, s.f, s.g⟩

/-- The rounds of some constants from sixteen words of the schedule, each of which is followed by the word sixteen places on. -/
def shaRounds : List Word → List Word → ShaState → ShaState
  | [], _, s => s
  | _ :: _, [], s => s
  | k :: ks, w :: ws, s => shaRounds ks (ws ++ [shaMix1 (ws.getD 13 0) + ws.getD 8 0 + shaMix0 (ws.getD 0 0) + w]) (shaRound s k w)

/-- The big-endian 64-bit words of some bytes, n of them. -/
def bigWords (bs : List Byte) : Nat → List Word
  | 0 => []
  | n + 1 => wd (ofBytes (bs.take 8).reverse) :: bigWords (bs.drop 8) n

/-- The hash value after n blocks of 128 bytes. -/
def shaBlocks : Nat → List Byte → ShaState → ShaState
  | 0, _, s => s
  | n + 1, bs, s =>
    let r := shaRounds shaConstants (bigWords bs 16) s
    shaBlocks n (bs.drop 128) ⟨s.a + r.a, s.b + r.b, s.c + r.c, s.d + r.d, s.e + r.e, s.f + r.f, s.g + r.g, s.h + r.h⟩

/-- A message padded to whole blocks: a one bit, zeros, its length in bits as a big-endian 128-bit number. -/
def shaPadded (bs : List Byte) : List Byte :=
  bs ++ 0x80#8 :: List.replicate ((239 - bs.length % 128) % 128) 0 ++ (toBytes 16 (8 * bs.length)).reverse

/-- The 48 bytes of the SHA2-384 hash of a message. -/
def sha384 (bs : List Byte) : List Byte :=
  let s := shaBlocks ((bs.length + 144) / 128) (shaPadded bs) shaInit
  [s.a, s.b, s.c, s.d, s.e, s.f].flatMap (fun w => (toBytes 8 w.toNat).reverse)

end Sys2Proof.Machine
end

