-- ==== Sys2Proof/Machine/Picks.lean ====
section
/-! DEFINITION. The issue picker (R20 to R26, R86, R120), lingering (R28), and the entry of a trap that waited (R82). -/
namespace Sys2Proof.Machine

/-! ## Readiness (R20, R22, R222) -/

/-- The port of a word that is no instruction: that of its primary opcode's group, A where that is unassigned (R222). -/
def opcodePortM (w : Code) : Bool :=
  let op := bits w 25 7
  (decide (0x38 ≤ op) && decide (op ≤ 0x3E)) || (decide (0x40 ≤ op) && decide (op < 0x70) && decide (op % 8 ≤ 4)) || decide (0x70 ≤ op)

/-- The word a thread issues next and its address: a repeat prefix that passes its checks and has repetitions left stands for the
repetition it would issue, at its body's address (R219 to R221); none where the fetch faults. A prefix with none left takes a pick of its
own on port A (DESIGN CHOICE, log entry 64: R221 does not say whether, or on which port, it takes one). -/
def nextWord (s : State) (loc : Nat) (t : Thread) : Option (Code × BitVec 48) :=
  match (nextCode s loc t).2 with
  | .error _ => none
  | .ok w =>
    match decode w with
    | .ok (.rpt c d a b) =>
      match (fetchCode s loc t (t.pc + 4).toNat).2 with
      | .error _ => none
      | .ok v =>
        match (if t.reps ≤ c.toNat && bodyOk v (c.toNat + 1) d a b then stepWord v t.reps d a b else none) with
        | some v => some (v, t.pc + 4)
        | none => some (w, t.pc)
    | _ => some (w, t.pc)

/-- The instruction a thread issues next, where its next word is one. -/
def nextInstr (s : State) (loc : Nat) (t : Thread) : Option Instr :=
  (nextWord s loc t).bind (fun e => match decode e.1 with | .ok i => some i | .error _ => none)

/-- A thread's next instruction as the picker sees it: ready, on port M, the instruction where its word is one, its address. -/
structure NextIssue where
  ready : Bool
  portM : Bool
  instr : Option Instr
  addr  : BitVec 48
  deriving DecidableEq, Repr

/-- The meaning of an instruction that can wait at its issue for something other than its operands (R22, R180, R181, R241, R246, R250, R280, R281,
R283 to R285, R288, R289, R291, R296 to R299, R328). -/
def waitingMeaning (i : Instr) (s : State) : Option (Host.Outcome State Fault Refusal) :=
  match i with
  | .fence o => some (execFence o s)
  | .qfence m => some (execQfence m s)
  | .cwb a b t u => some (execCwb a b t u s)
  | .cinv a b t u => some (execCinv a b t u s)
  | .drain => some (execDrain s)
  | .ret => some (execRet s)
  | .stx p v a b t u => some (execStx p v a b t u s)
  | .arrive p a b t u => some (execArrive p a b t u s)
  | .bar => some (execBar s)
  | .barc a t => some (execBarc a t s)
  | .disband => some (execDisband s)
  | .ordSt .. => some (issueStore s i)
  | .spawn d a b t u => some (execSpawn d a b t u s)
  | .spawnCl d a b t u => some (execSpawnCl d a b t u s)
  | .tagf a b t u => some (execTagf a b t u s)
  | .reclaim a b t u => some (execReclaim a b t u s)
  | .cinvT a b t u => some (execCinvT a b t u s)
  | .lsub d a t => some (execLsub d a t s)
  | .tret => some (execTret s)
  | .kill a t => some (execKill a t s)
  | i => if i.isAtomic then some (issueAtomic s i) else none

/-- An instruction would not issue though its operands let it: its meaning leaves the thread as it is, or standing at its barrier
(R22, R289). -/
def waitsAtIssue (s : State) (loc : Nat) (t : Thread) (i : Instr) : Bool :=
  match waitingMeaning i { s.setThread loc t with cur := loc } with
  | some (.next s') => (match s'.thread loc with | some u => u == { t with rep := none } || (u.atBar && !u.released) | none => false)
  | _ => false

/-- An engine command finds its queue full (R22, R120). -/
def queueHolds (s : State) (loc : Nat) (t : Thread) (i : Instr) : Bool :=
  (match i with | .tclm .. | .trel .. | .aclr .. => true | _ => decide (0 < blockSize i)) && queueFull s loc t (queueCode i)

/-- A word's readiness for a thread. -/
def wordIssue (s : State) (loc : Nat) (t : Thread) (w : Code) (addr : BitVec 48) : NextIssue :=
  match decode w with
  | .error _ => ⟨true, opcodePortM w, none, addr⟩
  | .ok i =>
    let s := { s with ir := w }
    ⟨(match gate s t i with | .stall => false | .trap _ => true | .go => !(queueHolds s loc t i) && !(waitsAtIssue s loc t i)), i.portM, some i, addr⟩

/-- A thread's fetch has to wait: of its next word or, behind a repeat prefix, of its body (R109, R111). -/
def issueWaits (s : State) (loc : Nat) (t : Thread) : Bool :=
  fetchWaits s loc t t.pc.toNat ||
  (match (nextCode s loc t).2 with
   | .ok w => (match decode w with | .ok (.rpt ..) => fetchWaits s loc t (t.pc + 4).toNat | _ => false)
   | .error _ => false)

/-- The next instruction of a thread, which is not ready while it is stopped (R21, R301), once its group's deadline has passed (R39), or while
its fetch has to wait (R22). -/
def nextIssue (s : State) (loc : Nat) (t : Thread) : NextIssue :=
  if t.blocked s.time || t.stop || pastDeadline s t.grp || issueWaits s loc t then ⟨false, false, none, t.pc⟩
  else
    match nextWord s loc t with
    | none => ⟨true, false, none, t.pc⟩
    | some e => wordIssue s loc t e.1 e.2

/-- The slots of a core in ring order from a slot. -/
def ringFrom (core x : Nat) : List Nat := (List.range 128).map (fun i => 128 * core + (x + i) % 128)

/-- The threads that are not ready as a cycle begins, lingering apart: what frees one of them in the cycle makes it ready in the next
(R22). -/
def lateThreads (s : State) : List Nat := (s.threads.filter (fun e => !(nextIssue s e.1 { e.2 with linger := none }).ready)).map (·.1)

/-- The threads of a core ready for a port, in ring order from a slot. -/
def readyRing (s : State) (core : Nat) (portM : Bool) (x : Nat) : List (Nat × Thread × NextIssue) :=
  (ringFrom core x).filterMap (fun loc => (if s.late.contains loc then none else s.thread loc).bind (fun t =>
    let n := nextIssue s loc t
    if n.ready && n.portM == portM then some (loc, t, n) else none))

/-- Two threads share a code space (R23). -/
def sameSpace (a b : Thread) : Bool := a.asid == b.asid && a.super == b.super && a.part == b.part

/-- Two ready threads issue at one address of one code space (R23); a repetition stands at its body's address (R219). -/
def sameCode (a b : Nat × Thread × NextIssue) : Bool := a.2.2.addr == b.2.2.addr && sameSpace a.2.1 b.2.1

/-- A set of one code cut to the free entries of the core queue its members issue into: the others are not ready (R120). -/
def cutCohort (s : State) (core : Nat) (c : List (Nat × Thread × NextIssue)) : List (Nat × Thread × NextIssue) :=
  match c with
  | [] => []
  | h :: _ =>
    match h.2.2.instr with
    | some i =>
      if i.portM && decide (0 < blockSize i) && queueCode i != 4 then
        c.take (queueDepth (queueCode i) - (s.cmds.filter (fun x => x.queue == 8 * core + queueCode i)).length)
      else c
    | none => c

/-- The ready threads of a leader's code, itself first. -/
def codeSet (lead : Nat × Thread × NextIssue) (ring : List (Nat × Thread × NextIssue)) : List (Nat × Thread × NextIssue) :=
  lead :: (ring.filter (fun e => e.1 != lead.1 && sameCode lead e))

/-- The cohort that a leader gathers among the ready threads that follow it in ring order: at most 32 (R23). -/
def cohortOf (s : State) (core : Nat) (lead : Nat × Thread × NextIssue) (ring : List (Nat × Thread × NextIssue)) :
    List (Nat × Thread × NextIssue) :=
  (cutCohort s core (codeSet lead ring)).take 32

/-- The largest set of ready threads of one code, the earliest in ring order among equals (R24). -/
def largestSet (s : State) (core : Nat) (ring : List (Nat × Thread × NextIssue)) : List (Nat × Thread × NextIssue) :=
  let size := fun (e : Nat × Thread × NextIssue) => (cutCohort s core (ring.filter (sameCode e))).length
  match ring.foldl (fun (b : Option (Nat × Thread × NextIssue)) e =>
      match b with | none => some e | some x => if size x < size e then some e else b) none with
  | none => []
  | some lead => cohortOf s core lead ring

/-- The registers of whose value or full/empty bit an instruction's issue reads: its sources, its destination, and g1 to g4 for a
`spawn` (R64, R86, R246). -/
def Instr.looksAt (i : Instr) : List Nat :=
  i.srcs.map (·.1.toNat) ++ (i.dst.toList.map (·.toNat)) ++ (if i.isSpawn then [1, 2, 3, 4] else [])

/-! ## Lingering (R28) -/

/-- The gate of all the registers that an instruction's issue reads: its operands, and g1 to g4 for a `spawn` (R64, R246). -/
def readGate (t : Thread) (i : Instr) : Gate := firstGate [operandGate t i, if i.isSpawn then argsGate t else .go]

/-- A thread is parked (R21): stopped, held, at a wait that has faulted, or stalled at its next instruction on a register that a
faulted entry owes; a thread that lingers is not at that instruction yet (R28, R138). -/
def parked (s : State) (loc : Nat) (t : Thread) : Bool :=
  let faulted := fun (e : ReplayEntry) => e.state == .faulted && e.mark.isNone
  t.stop || t.held.isSome || t.replay.any (fun e => faulted e && (match e.instr with | some i => i.isWait | none => false)) ||
  (t.linger.isNone && (match nextInstr s loc t with
   | some i => readGate t i == .stall && (Instr.looksAt i).any (fun n => let r := BitVec.ofNat 6 n
      t.regState r == .owed && (match t.ower r with | some e => faulted e | none => false))
   | none => false))

/-- Another thread of a lingering thread's core and code space is ready, stalled or lingering at its next instruction, a
repetition at its body's address among them (R28). -/
def lingerMet (s : State) (loc : Nat) (t : Thread) : Bool :=
  s.threads.any (fun e => e.1 != loc && coreOf e.1 == coreOf loc && sameSpace t e.2 &&
    (e.2.pc == t.pc || (nextWord s e.1 e.2).any (fun w => w.2 == t.pc)) && !(parked s e.1 e.2))

/-- A lingering thread whose limit has passed. -/
def lingerOver (s : State) (t : Thread) : Bool := match t.linger with | some e => decide (e.toNat < s.time.toNat) | none => false

/-- LINGER_TIMEOUT: the n-th cycle after the `rejoin` has ended (R28). -/
def execLingerTimeout (loc : Nat) (s : State) : Host.Outcome State Fault Refusal :=
  match s.thread loc with
  | none => noMove s
  | some t => if lingerOver s t then .next ((s.setThread loc { t with linger := none }).count (coreOf loc) 8 1) else noMove s

/-- LINGER_MEET: a lingering thread has been met; two that linger at one address release each other (R28). -/
def execLingerMeet (loc : Nat) (s : State) : Host.Outcome State Fault Refusal :=
  match s.thread loc with
  | none => noMove s
  | some t =>
    if t.linger.isNone || !(lingerMet s loc t) then noMove s
    else .next ((s.setThread loc { t with linger := none }).count (coreOf loc) 7 1)

/-! ## Picks (R23 to R25) -/

/-- The passed count of a thread for a port. -/
def Thread.passed (t : Thread) (portM : Bool) : Nat := if portM then t.passedM else t.passedA
/-- A thread's passed count set. -/
def Thread.setPassed (t : Thread) (portM : Bool) (n : Nat) : Thread := if portM then { t with passedM := n } else { t with passedA := n }
/-- The ring pointer of a port. -/
def Core.ptr (c : Core) (portM : Bool) : Nat := if portM then c.ptrM else c.ptrA
/-- A core's mode is wide merge. -/
def Core.wide (c : Core) : Bool := bit c.merge 0
/-- W of a core. -/
def Core.waitLimit (c : Core) : Nat := bits c.merge 8 8

/-- A lingering thread of a core has been met, or its limit has passed: it is released before the core picks in that cycle (R28). -/
def releaseDue (s : State) (core : Nat) : Bool :=
  s.threads.any (fun e => coreOf e.1 == core && e.2.linger.isSome && (lingerMet s e.1 e.2 || lingerOver s e.2))

/-- A port may pick in this cycle: it has not yet, and port A is not held. -/
def mayPick (s : State) (core : Nat) (portM : Bool) : Bool :=
  let c := s.core core
  if portM then decide (c.pickM.toNat ≤ s.time.toNat)
  else decide (c.pickA.toNat ≤ s.time.toNat) && decide (c.heldA.toNat ≤ s.time.toNat)

/-- Wide-merge mode is to take a ring pick: some ready thread has been passed over W times (R24). -/
def mustRing (s : State) (core : Nat) (portM : Bool) (ring : List (Nat × Thread × NextIssue)) : Bool :=
  ring.any (fun e => decide ((s.core core).waitLimit ≤ e.2.1.passed portM))

/-- The newest value of a register in the operand log (R86). -/
def Thread.logged (t : Thread) (n : Nat) : Option Word := (t.oplog.reverse.find? (fun e => e.1.toNat == n)).map (·.2)

/-- A parity error in a register that a cohort member reads: repaired from its operand log, else the poison trap (R86). -/
def parityError (s : State) (loc n : Nat) : State × Bool :=
  match s.thread loc with
  | none => (s, false)
  | some t =>
    if n = 0 ∨ 64 ≤ n then (s, false)
    else
      match t.logged n with
      | some v => ((s.setThread loc { t with g := t.g.setIfInBounds n v }).mapCore (coreOf loc) (fun c => { c with errRegfile := satInc c.errRegfile }), false)
      | none => (takeTrap s loc { t with gs := t.gs.setIfInBounds n .unowed } ⟨11, 1, wd n, 0⟩, true)

/-- The current cycle is the deadline of a thread's group. -/
def atDeadline (s : State) (loc : Nat) : Bool :=
  match (s.thread loc).bind (fun t => t.grp.bind s.group) with
  | some g => g.deadline == some s.time
  | none => false

/-- The parity errors met by a cohort; its members that do not issue: one that traps, and one whose deadline ends this cycle, which
issues after its restore (R86, R87). -/
def parityErrors (s : State) (cohort : List (Nat × Thread × NextIssue)) (parity : List (Nat × Nat)) : State × List Nat :=
  parity.foldl (fun acc e =>
    let reads := cohort.any (fun m => m.1 == e.1 && (match m.2.2.instr with | some i => (Instr.looksAt i).contains e.2 | none => false))
    if !reads || acc.2.contains e.1 then acc
    else
      let r := parityError acc.1 e.1 e.2
      (r.1, if r.2 || atDeadline s e.1 then acc.2 ++ [e.1] else acc.2)) (s, [])

/-- A pick: the cohort issues, counts and pointer move (R23, R24, R171, R172). A ready thread that is passed over counts it; one that its
cohort's queue has no entry for is not ready (R120). -/
def pick (s : State) (core : Nat) (portM : Bool) (ring cohort : List (Nat × Thread × NextIssue)) (ptr : Nat) (forced : Bool)
    (parity : List (Nat × Nat)) : State :=
  let inC := fun (loc : Nat) => cohort.any (fun m => m.1 == loc)
  let cut : List Nat := match cohort with
    | [] => []
    | h :: _ => ((codeSet h ring).drop (cutCohort s core (codeSet h ring)).length).map (·.1)
  let s := ring.foldl (fun st e =>
    if cut.contains e.1 then st else st.mapThread e.1 (fun t => t.setPassed portM (if inC e.1 then 0 else t.passed portM + 1))) s
  let two := cohort.any (fun m => match m.2.2.instr with | some i => i.holdsTwo | none => false)
  let s := s.mapCore core (fun c =>
    let c := if portM then { c with ptrM := ptr, pickM := s.time + 1 } else { c with ptrA := ptr, pickA := s.time + 1 }
    if two then { c with heldA := s.time + 2 } else c)
  let n := cohort.length
  let s := ((s.count core (if portM then 3 else 2) 1).count core (if portM then 5 else 4) n).count core 6 (if n = 1 then 1 else 0)
  let s := s.count core 20 (if forced then 1 else 0)
  let r := parityErrors s cohort parity
  { r.1 with issue := (cohort.map (·.1)).filter (fun l => !(r.2.contains l)) }

/-- The first ready thread in ring order leads (R23); none where no thread is ready. -/
def ringPick (s : State) (core : Nat) (portM : Bool) (forced : Bool) (parity : List (Nat × Nat)) : Option State :=
  let ring := readyRing s core portM ((s.core core).ptr portM)
  match ring with
  | [] => none
  | lead :: _ => some (pick s core portM ring (cohortOf s core lead ring) ((lead.1 % 128 + 1) % 128) forced parity)

/-- A ring pick of a port, in ring mode or forced in wide-merge mode (R23, R24). -/
def issuePick (s : State) (core : Nat) (portM : Bool) (parity : List (Nat × Nat)) : Option State :=
  let c := s.core core
  if !(mayPick s core portM) || releaseDue s core then none
  else if c.wide then
    if mustRing s core portM (readyRing s core portM (c.ptr portM)) then ringPick s core portM true parity else none
  else ringPick s core portM false parity

/-- A pick of the largest set of ready threads of one code; the pointer stays (R24). -/
def wideMergePick (s : State) (core : Nat) (portM : Bool) (parity : List (Nat × Nat)) : Option State :=
  let c := s.core core
  let ring := readyRing s core portM (c.ptr portM)
  if !c.wide || !(mayPick s core portM) || releaseDue s core || ring.isEmpty || mustRing s core portM ring then none
  else some (pick s core portM ring (largestSet s core ring) (c.ptr portM) false parity)

/-! ## What the instruction caches meet (R109, R116) -/

/-- One more error of a core's L1 caches. -/
def countL1 (s : State) (core : Nat) : State := s.mapCore core (fun c => { c with errL1 := satInc c.errL1 })

/-- A soft error of a line of code: with parity of its L1 instruction line the line is dropped, to be fetched again; any other is met
where the line is stored (R116). -/
def codeSoft (s : State) (loc : Nat) (t : Thread) (va code : Nat) : State :=
  let core := coreOf loc
  if code = 1 then
    match l1iFind s core t.asid va with
    | some l => countL1 { s with l1i := s.l1i.filter (· != l) } core
    | none => s
  else
    match xlate s (dieOf loc) t.part t.asid va with
    | .page pa _ => if code = 0 then s else softError s core pa code
    | _ => s

/-- A line some lines ahead of a thread's next instruction is fetched, or for none that of the instruction itself, with a soft error it
meets. A fault or an uncorrectable error of a line fetched ahead is counted and not reported, and the line not kept (R109). It is counted
at the fetch ahead itself, whether or not the line comes to be issued (DESIGN CHOICE, log entry 64: R109 does not say when). -/
def fetchAhead (s : State) (loc ahead soft : Nat) : State :=
  match s.thread loc with
  | none => s
  | some t =>
    let va := if ahead = 0 then t.here.toNat else (t.here.toNat / 64 + ahead) * 64 % 2 ^ 48
    let s := codeSoft s loc t va soft
    if ahead = 0 then s
    else
      let r := fetchCode s loc t va
      match r.2 with | .ok _ => r.1 | .error _ => countL1 r.1 (coreOf loc)

/-- The fetches of a core that a pick comes with: a locator, and 16 times the lines ahead with a soft error's code. -/
def fetchAll (s : State) (core : Nat) (fetches : List (Nat × Nat)) : State :=
  fetches.foldl (fun st e => if coreOf e.1 == core then fetchAhead st e.1 (e.2 / 16) (e.2 % 16) else st) s

/-! ## The moves (R23, R24, R109, R116, R176) -/

/-- What a pick comes with: lines fetched, soft errors that the accesses made at issue meet, and the candidates that their reads take. -/
def withMeets (s : State) (core : Nat) (meets : PickMeets) : State := { softErrors (fetchAll s core meets.fetches) core meets.softs with picks := meets.reads }

/-- ISSUE_PICK: a ring pick of a port (R23, R24). -/
def execIssuePick (core : Nat) (portM : Bool) (meets : PickMeets) (s : State) : Host.Outcome State Fault Refusal :=
  match issuePick (withMeets s core meets) core portM meets.parity with | some s' => .next s' | none => noMove s

/-- WIDE_MERGE_PICK: the largest set of ready threads of one code issues (R24). -/
def execWideMergePick (core : Nat) (portM : Bool) (meets : PickMeets) (s : State) : Host.Outcome State Fault Refusal :=
  match wideMergePick (withMeets s core meets) core portM meets.parity with | some s' => .next s' | none => noMove s

/-! ## Trap entry (R82) -/

/-- TRAP_ENTRY: the trap a thread waits with is taken, its frame's stores with the soft errors they meet (R82, R85, R116). -/
def execTrapEntry (loc : DrainMeets) (s : State) : Host.Outcome State Fault Refusal :=
  match s.thread loc.id with
  | none => noMove s
  | some t =>
    match t.trapReq with
    | none => noMove s
    | some r => if !(trapWaits s loc.id t) then .next (trapNow (softErrors s (coreOf loc.id) loc.softs) loc.id { t with trapReq := none } r) else noMove s

/-! ## Gang formation (R36) -/

/-- A port of a core has a thread to pick and has not picked in this cycle. -/
def portOwed (s : State) (core : Nat) (portM : Bool) : Bool := mayPick s core portM && !(readyRing s core portM 0).isEmpty

/-- A gang can form on a row: its would-be members and the number it takes. -/
def gangDue (s : State) (row : Nat) : Option (List (Nat × Thread × MusterWait) × Nat) :=
  match nextGang s row, freeGang s row with
  | some ms, some n => some (ms, n)
  | _, _ => none

/-- Four mustering threads of one launch, one on each core of the row, form a gang (R36, R290), once every `muster` of the cycle
has issued, so that would-be gangs of one cycle share the free numbers by their order. -/
def execGangFormation (row : Nat) (s : State) : Host.Outcome State Fault Refusal :=
  match gangDue s row with
  | some (ms, n) => if !s.mon.throttled && (span (4 * row) 4).any (portOwed s · true) then noMove s else .next (formGang s row n ms)
  | none => noMove s

end Sys2Proof.Machine
end

