-- ==== Sys2Proof/Machine/Preempt.lean ====
section
/-! DEFINITION. Pre-emption and restore (R39 to R42, R94, R124, R129, R168, R191): deadlines, the cooperative save of a
thread, the save of a group, and its restoration. A saved thread or gang is held as plain state; its banks stay its own. -/
namespace Sys2Proof.Machine

/-! ## Deadlines (R39, R168) -/

/-- A thread of a group that its deadline forces: neither forced already nor ending cooperatively; a `yield` of a gang member is no
cooperative end where another member is forced (R39, R41, R243). -/
def forcible (s : State) (loc : Nat) (t : Thread) (g : Group) : Bool :=
  t.grp == some g.id && !t.forced && !t.quitting && (!t.yielding || gangForced s loc t)

/-- The end of a group's deadline cycle has passed and some thread is still to be forced; from then on none of them issues (R39,
R168). -/
def forceDue (s : State) (g : Group) : Bool := g.pastDeadline s.time && s.threads.any (fun e => forcible s e.1 e.2 g)

/-- A group has work of its own left, so that it is to be saved and not to retire: a thread, or a queued message (R34, R168). -/
def groupLives (s : State) (g : Group) : Bool :=
  s.threads.any (fun e => e.2.grp == some g.id) || s.saved.any (fun x => x.group == g.id) ||
  s.cores.any (fun c => c.2.inbox.any (fun m => m.grp == some g.id))

/-- DEADLINE_EXPIRY: the group's remaining threads are stopped and forced (R39, R87). -/
def execDeadlineExpiry (group : Nat) (s : State) : Host.Outcome State Fault Refusal :=
  match s.group group with
  | none => noMove s
  | some g =>
    if forceDue s g then
      .next { s with threads := s.threads.map (fun e => if forcible s e.1 e.2 g then (e.1, { e.2 with forced := true }) else e) }
    else noMove s

/-! ## Saving (R40, R41, R94, R124, R129) -/

/-- Bytes of a larder slot with its scale bytes (R94). -/
def slotBytes : Nat := 34816

/-- n bytes moved, with their poison, to fresh storage. -/
def moveBytes (s : State) (lo n dst : Nat) : State :=
  let inside := fun (x : Nat) => decide (lo ≤ x) && decide (x < lo + n)
  let cells := s.mem.filter (fun c => inside c.1)
  let marks := s.poison.filter (fun k => inside (8 * k))
  let s := zeroRange s lo (lo + n)
  { s with mem := cells.foldl (fun m c => memSet m (dst + (c.1 - lo)) c.2) s.mem
           poison := s.poison.filter (fun k => !(inside (8 * k))) ++ marks.map (fun k => dst / 8 + (k - lo / 8)) }

/-- A thread's private copy as it is saved: a stalled instruction is issued anew after the restore. -/
def savedThread (t : Thread) (forced : Bool) : Thread :=
  { t with rep := none, check := none, guard := none, gangCmd := none, muster := none, oplog := [], forced := false, yielding := false
           gs := if forced then t.gs else Vector.replicate 64 .full }

/-- A thread leaves its context for the saved state; its queued engine entries go with it (R41, R124). -/
def saveThread (s : State) (loc group : Nat) (t : Thread) (forced : Bool) : State :=
  let s := { s with
    saved := s.saved ++ [SavedThread.mk loc group (savedThread t forced) forced]
    cmds := s.cmds.map (fun (c : Command) => if c.owner == loc && c.queue < 8192 then { c with queue := c.queue + savedQueue } else c) }
  s.dropThread loc

/-- A member that has not left its gang has been saved. -/
def memberSaved (s : State) (g : Gang) (m : Nat) : Bool :=
  g.left.contains m || s.saved.any (fun x => x.loc == m && x.thread.part == g.part && x.thread.launchNum == g.launch && x.thread.gang == some g.num)

/-- A gang whose members have all been saved is saved as one unit: accumulators, slots, claims, commands (R41, R95). -/
def saveGang (s : State) (g : Gang) : State :=
  let b := s.newBanks 1
  let s := b.2
  let slots := s.slots.filter (fun x => x.row == g.row && x.gang == g.num)
  let claims := s.claims.filter (fun c => c.1 / 32 == g.row && c.2 == g.num)
  let poison := (List.range 2).filter (fun a => s.accPoison.contains (accKey g.row g.num a))
  let sg : SavedGang := ⟨g, slots, claims.map (fun c => c.1 % 32), poison, b.1⟩
  let s := moveBytes s (accAt g.row g.num 0) 131072 (dynBase b.1)
  let s := slots.foldl (fun st x => moveBytes st (slotBase g.row x.num) slotBytes (dynBase b.1 + 131072 + slotBytes * x.num)) s
  { s with sgangs := s.sgangs ++ [sg]
           gangs := s.gangs.filter (fun h => !(h.row == g.row && h.num == g.num))
           slots := s.slots.filter (fun x => !(x.row == g.row && x.gang == g.num))
           claims := s.claims.filter (fun c => !(c.1 / 32 == g.row && c.2 == g.num))
           accPoison := s.accPoison.filter (fun k => k / 2 != g.row * 4 + g.num)
           cmds := s.cmds.map (fun c => if c.queue == mxQueue g.row g.num then { c with queue := c.queue + savedQueue } else c) }

/-- The gangs that a save completes are saved. -/
def saveGangs (s : State) : State :=
  (s.gangs.filter (fun g => !(g.members.all g.left.contains) && g.members.all (memberSaved s g))).foldl saveGang s

/-- A yielding thread that is not to be forced with its gang may be saved: its replay queue, every engine queue it has used and its buffers are empty (R40, R191). -/
def yieldDrained (s : State) (loc : Nat) (t : Thread) : Bool :=
  t.yielding && !(t.stopped s loc) && t.trapReq.isNone && t.replay.isEmpty && !(queuesBusy s loc t) && t.sb.isEmpty && t.nt.isEmpty

/-- YIELD_SAVE: a yielding thread's small state is saved; it will resume after its `yield` (R40, R42). -/
def execYieldSave (loc : Nat) (s : State) : Host.Outcome State Fault Refusal :=
  match s.thread loc with
  | none => noMove s
  | some t =>
    match t.grp with
    | none => noMove s
    | some g => if yieldDrained s loc t then .next (saveThread s loc g (t.advance s.time 1) false) else noMove s

/-- A command is work of a group: its own, or of a gang with a member in it. -/
def ofGroup (s : State) (g : Group) (c : Command) : Bool :=
  c.grp == some g.id ||
  (decide (8192 ≤ c.queue) && decide (c.queue < savedQueue) &&
    (match s.gangOf (rowOfQueue c.queue) (gangOfQueue c.queue) with
     | some h => h.members.any (fun m => match s.thread m with | some t => t.grp == some g.id | none => false)
     | none => false))

/-- A started `mma` between two of its K-groups: it is saved where it stands (R41). -/
def Command.betweenGroups (c : Command) : Bool := match c.instr with | some (.mma ..) => true | _ => false

/-- A group may be saved: a request whose deadline has passed, work of its own left, every live thread forced with its traps taken and its buffers drained, no spawn
message in flight or still to be sent (R248), and every started entry performed, but for a `slsend` whose operand is in the sluice (R39, R87, R160,
R191). -/
def groupSavable (s : State) (g : Group) (l : Launch) : Bool :=
  l.request && !g.saved && g.pastDeadline s.time && groupLives s g &&
  s.threads.all (fun e => e.2.grp != some g.id ||
    (e.2.forced && e.2.trapReq.isNone && e.2.sb.isEmpty && e.2.nt.isEmpty && !(e.2.replay.any (·.unsent)))) &&
  !(s.spawns.any (fun m => m.grp == some g.id)) &&
  !(s.cmds.any (fun c => ofGroup s g c && c.started && decide (c.queue < savedQueue) && !c.betweenGroups && !c.sent))

/-- The queued messages of a group leave their inboxes, in order (R129). -/
def saveMessages (s : State) (g : Group) (l : Launch) : State :=
  let mine := s.cores.flatMap (fun c => (c.2.inbox.filter (fun m => m.grp == some g.id)).map (fun m => (c.1, m)))
  let s := { s with cores := s.cores.map (fun (c : Nat × Core) => (c.1, { c.2 with inbox := c.2.inbox.filter (fun m => m.grp != some g.id) })) }
  s.setLaunch { l with savedMsgs := l.savedMsgs ++ mine }

/-- The 48 bytes of a saved message (R126). -/
def messageBytes (s : State) (m : SpawnMsg) : List Byte :=
  let index := match m.grp.bind s.group with | some g => g.index | none => 0
  toBytes 8 (m.handler.toNat / 4 * 4) ++
  toBytes 8 (m.parent + m.super.toNat * 2 ^ 17 + m.part * 2 ^ 18 + index * 2 ^ 22 + m.launchNum * 2 ^ 48) ++
  m.args.toList.flatMap (fun w => toBytes 8 w.toNat)

/-- The saved messages of a launch with their places in its context: 64 bytes for each, from a slot that the spec leaves to the
device. -/
def placeMessages (l : Launch) (draw : Nat) : List (Nat × SpawnMsg) :=
  let n := l.savedMsgs.length
  l.savedMsgs.zipIdx.map (fun e => (e.1.1, { e.1.2 with slot := l.ctx + 64 * (Config.messageSlot draw % (l.ctxsize / 64 - n + 1) + e.2) }))

/-- The byte of a launch context that a save wrote: a layout of the device's own (R149), but for the messages (R126). -/
def Launch.contextByte (l : Launch) (x : Nat) : Byte := (alGet l.ctxMsgs x).getD (Config.internalByte x l.ctxDraw)

/-- The launch context takes the saved state (R39, R149). -/
def writeContext (s : State) (l : Launch) : State :=
  let ms := placeMessages l s.draws
  let l := { l with savedMsgs := ms, ctxDraw := s.draws, ctxMsgs := ms.flatMap (fun e => (span e.2.slot 48).zip (messageBytes s e.2)) }
  (devWrite { s with draws := s.draws + 1 } l.ctx ((span l.ctx l.ctxsize).map l.contextByte) none).setLaunch l

/-- A group is saved whole (R39, R41). -/
def saveGroup (s : State) (g : Group) (l : Launch) : State :=
  let s := (s.threads.filter (fun e => e.2.grp == some g.id)).foldl (fun st e => saveThread st e.1 g.id e.2 true) s
  let s := saveMessages (saveGangs s) g l
  let s := s.mapGroup g.id (fun h => { h with saved := true, deadline := none })
  checkSaved (match s.launchOf l.part l.num with | some l => writeContext s l | none => s) l.part l.num

/-- GROUP_SAVE: a group is saved whole into its launch context; the launch-saved record follows the last (R39). -/
def execGroupSave (group : Nat) (s : State) : Host.Outcome State Fault Refusal :=
  match s.group group with
  | none => noMove s
  | some g =>
    match s.launchOf g.part g.launch with
    | none => noMove s
    | some l => if groupSavable s g l then .next (saveGroup s g l) else noMove s

/-! ## Restoration (R42, R129) -/

/-- Pantry bytes of a core in use now, holds aside. -/
def pantryInUse (s : State) (core : Nat) : Nat :=
  ((s.threads.filter (fun e => coreOf e.1 == core)).map (fun e => units256 (bits e.2.alcove 16 16))).sum +
  ((s.groups.filter (fun g => g.cluster == core / 8 && !g.saved)).map (fun g => units256 g.share)).sum

/-- The saved threads of a group. -/
def savedOf (s : State) (g : Group) : List SavedThread := s.saved.filter (fun x => x.group == g.id)

/-- The saved gangs with a member among some saved threads. -/
def gangsOf (s : State) (g : Group) : List SavedGang :=
  s.sgangs.filter (fun h => h.gang.part == g.part && h.gang.launch == g.launch && (savedOf s g).any (fun x => h.gang.members.contains x.loc && x.thread.gang == some h.gang.num))

/-- A saved gang's number, slots and claims are free. -/
def gangRoom (s : State) (h : SavedGang) : Bool :=
  (s.gangOf h.gang.row h.gang.num).isNone &&
  !(s.slots.any (fun x => x.row == h.gang.row && (h.slots.any (fun y => y.num == x.num) || h.claims.contains x.num))) &&
  !(s.claims.any (fun c => c.1 / 32 == h.gang.row && (h.slots.any (fun y => y.num == c.1 % 32) || h.claims.contains (c.1 % 32))))

/-- The cores a group needs room on: those of its cluster and of its saved threads. -/
def coresOf (s : State) (g : Group) : List Nat := (span (8 * g.cluster) 8 ++ (savedOf s g).map (fun x => coreOf x.loc)).eraseDups

/-- A group may be restored: contexts, pantry room, inbox room and gangs (R42, R129). Two of its threads saved from one context,
which the first had left when the second started there (R128), cannot both be back in it, and keep the group waiting (log entry 47). -/
def restorable (s : State) (g : Group) (l : Launch) : Bool :=
  let xs := savedOf s g
  l.restoring && g.saved && (xs.map (·.loc)).eraseDups.length == xs.length && xs.all (fun x => (s.thread x.loc).isNone) &&
  (coresOf s g).all (fun c =>
    let need := ((xs.filter (fun x => coreOf x.loc == c)).map (fun x => units256 (bits x.thread.alcove 16 16))).sum +
      (if g.cluster == c / 8 then units256 g.share else 0)
    decide (pantryInUse s c + need ≤ Config.pantryBytes)) &&
  ((l.savedMsgs.filter (fun m => m.2.grp == some g.id)).map (·.1)).all (fun c =>
    decide ((s.core c).inbox.length + (l.savedMsgs.filter (fun m => m.1 == c && m.2.grp == some g.id)).length ≤ Config.inboxDepth)) &&
  (gangsOf s g).all (gangRoom s)

/-- A replay entry re-injected: one that is not done is issued again (R42, R81), and shares the outcome of a walk outstanding (R105); one
whose instruction had failed a check makes that check once more (R248; log entry 64). An `ldb` uses the descriptor it captured (log
entry 20). -/
def reinject (s : State) (loc : Nat) (t : Thread) (e : ReplayEntry) : ReplayEntry :=
  let e' := e.again s.time
  if e.state == .done then e
  else
    match (if e.mark.isSome then reissueTrap s loc t e' else none) with
    | some r => { e' with mark := some r }
    | none => joinMiss s loc t e'

/-- A context area holds something other than the device wrote there (R149). -/
def contextChanged (s : State) (l : Launch) : Bool := (span l.ctx l.ctxsize).any (fun x => memGet s.mem x != l.contextByte x)

/-- What a thread is restored to from a context area that software has written: its own registers are whatever the area holds,
and nothing beyond its launch is affected (R149). What it waits for and is marked with stays as it is held (log entry 9). -/
def Thread.fromArea (t : Thread) (draw : Nat) : Thread :=
  let w := fun (k : Nat) => Config.imageWord draw k
  { t with g := Vector.ofFn (fun i : Fin 64 => w i.val)
           p := (w 64).setWidth 8
           b := Vector.ofFn (fun i : Fin 8 => setBits (w (65 + i.val)) 48 15 0)
           d := Vector.ofFn (fun i : Fin 16 => w (80 + 2 * i.val) ++ w (81 + 2 * i.val))
           e := Vector.ofFn (fun i : Fin 16 => w (112 + i.val))
           pc := BitVec.ofNat 48 (bits (w 73) 2 46 * 4)
           pix := wd (bits (w 74) 0 16)
           fcsr := fcsrWord (w 75)
           cause := keepBits (w 76) 0 16
           info := w 77
           faddr := w 78
           save0 := w 79
           save1 := w 128
           watch0 := watchWord (w 129)
           watch1 := watchWord (w 130)
           tfp := setBits (w 131) 0 9 0
           alcove := alcoveAfter t.alcove (w 132)
           replay := []
           gs := t.gs.map (fun g => if g == .owed then .unowed else g) }

/-- n bytes of storage become what a written context area holds for them (R149). -/
def bytesFromArea (s : State) (x n draw : Nat) : State :=
  (span x n).foldl (fun st y => initByte st y (Config.internalByte y draw)) s

/-- A saved command as a written area holds it: its instruction, where the area holds one of its queue, its operands, its block and its count;
the thread, the queue and the privilege it was issued with stay its own (R124, R149). One whose operand is in the sluice is not in the
area (R160). -/
def Command.fromArea (c : Command) (draw : Nat) : Command :=
  let w := fun (k : Nat) => Config.imageWord draw (1024 + 64 * c.id + k)
  let served := fun (v : Code) => match decode v with
    | .ok i => (match i with | .tclm .. | .trel .. | .aclr .. => true | _ => decide (0 < blockSize i)) && queueCode i == codeOfQueue (c.queue % savedQueue)
    | .error _ => false
  let v := (w 0).setWidth 32
  let word := if served v then v else c.word
  if c.sent then c
  else { c with word := word, a := w 1, b := w 2, count := (w 3).toNat
                block := (List.range (match decode word with | .ok i => blockSize i | .error _ => 0)).map (fun k => w (4 + k))
                kg := if codeOfQueue (c.queue % savedQueue) = 4 then bits (w 16) 0 16 else c.kg }

/-- A saved larder slot as a written area holds it (R149): its format and whether it is ready; which slot it is stays. -/
def Slot.fromArea (x : Slot) (draw : Nat) : Slot :=
  let w := Config.imageWord draw (65536 + 32 * x.row + x.num)
  { x with ready := bit w 0, fmt := bits w 1 5, blen := bits w 6 3 }

/-- A saved gang's accumulators and larder slots as a written area holds them (R149). -/
def gangFromArea (s : State) (h : SavedGang) (draw : Nat) : State :=
  let s := bytesFromArea s (dynBase h.bank) 131072 draw
  h.slots.foldl (fun st x => bytesFromArea st (dynBase h.bank + 131072 + slotBytes * x.num) slotBytes draw) s

/-- What a restore of a group finds where software has written the context area: its threads' alcoves, its shares, its gangs' storage
and its saved commands are whatever the area holds (R149). -/
def groupFromArea (s : State) (g : Group) (xs : List SavedThread) (hs : List SavedGang) (mine : Command → Bool) (draw : Nat) : State :=
  let s := xs.foldl (fun st x => bytesFromArea st (dynBase x.thread.alcBank) (bits x.thread.alcove 16 16) draw) s
  let s := (span g.shares 8).foldl (fun st b => bytesFromArea st (dynBase b) g.share draw) s
  let s := hs.foldl (fun st h => gangFromArea st h draw) s
  { s with cmds := s.cmds.map (fun c => if mine c then c.fromArea draw else c) }

/-- A saved message as the context now holds it (R126, R149). -/
def messageFrom (s : State) (m : SpawnMsg) : SpawnMsg :=
  let w := peek s (m.slot + 8) 8
  { m with handler := wd (peek s m.slot 8 / 4 * 4)
           parent := w % 2 ^ 17
           super := w.testBit 17
           args := Vector.ofFn (fun i : Fin 4 => wd (peek s (m.slot + 16 + 8 * i.val) 8)) }

/-- A saved thread is back in its context, an acquire at package scope, its replay entries issued again, `spawn`s sent where they can be
(R42, R172, R191, R246). -/
def restoreThread (s : State) (x : SavedThread) : State :=
  let t := { x.thread with issueAt := s.time }
  let s := countAgain s x.loc t (fun e => e.state != .done)
  sendWaiting (bumpGen s (coreOf x.loc) 4) x.loc { t with replay := t.replay.map (reinject s x.loc t) }

/-- A saved gang is back on its row with its number, accumulators, slots and claims. -/
def restoreGang (s : State) (h : SavedGang) : State :=
  let row := h.gang.row
  let s := moveBytes s (dynBase h.bank) 131072 (accAt row h.gang.num 0)
  let s := h.slots.foldl (fun st x => moveBytes st (dynBase h.bank + 131072 + slotBytes * x.num) slotBytes (slotBase row x.num)) s
  gangCleanup ({ s with
    sgangs := s.sgangs.filter (·.bank != h.bank)
    gangs := s.gangs ++ [h.gang]
    slots := s.slots ++ h.slots
    claims := s.claims ++ h.claims.map (fun n => (row * 32 + n, h.gang.num))
    accPoison := s.accPoison ++ h.poison.map (accKey row h.gang.num) }.freeBanks h.bank 1) row h.gang.num

/-- The queued commands of restored threads and gangs are back at the tails of their queues, in their order; a started `mma`
starts again at its K-group, and a `slsend` that has sent its operand still waits for its outcome. They enter whatever the queue holds, so
that it can hold more than its depth until some are performed (DESIGN CHOICE, log entry 64: R124 does not say that a restore waits for
room). -/
def restoreCommands (s : State) (mine : Command → Bool) : State :=
  { s with cmds := s.cmds.filter (fun c => !(mine c)) ++
      (s.cmds.filter mine).map (fun c => { c with queue := c.queue - savedQueue, started := c.sent }) }

/-- A group is restored whole to its former contexts (R42, R129). -/
def restoreGroup (s : State) (g : Group) (l : Launch) : State :=
  let xs := savedOf s g
  let hs := gangsOf s g
  let mine := fun (c : Command) => decide (savedQueue ≤ c.queue) &&
    (if c.queue < savedQueue + 8192 then c.grp == some g.id && xs.any (fun x => x.loc == c.owner)
     else hs.any (fun h => c.queue == savedQueue + mxQueue h.gang.row h.gang.num && c.win.part == g.part))
  let changed := contextChanged s l
  let draw := s.draws
  let read := fun (x : SavedThread) => if changed then { x with thread := x.thread.fromArea (s.draws + x.loc) } else x
  let back := (l.savedMsgs.filter (fun m => m.2.grp == some g.id)).map (fun m => (m.1, messageFrom s m.2))
  let s := { s with saved := s.saved.filter (fun x => !(xs.contains x)), draws := s.draws + 131072 }
  let s := if changed then groupFromArea s g xs hs mine draw else s
  let hs := if changed then hs.map (fun h => { h with slots := h.slots.map (·.fromArea draw) }) else hs
  let s := restoreCommands s mine
  let s := hs.foldl restoreGang s
  let s := (xs.map read).foldl restoreThread s
  let s := back.foldl (fun st m => st.mapCore m.1 (fun c => { c with inbox := c.inbox ++ [m.2] })) s
  let s := s.mapGroup g.id (fun h => { h with saved := false })
  let more := s.groups.any (fun h => h.part == l.part && h.launch == l.num && h.saved)
  s.setLaunch { l with savedMsgs := l.savedMsgs.filter (fun m => m.2.grp != some g.id), restoring := more }

/-- GROUP_RESTORE: a saved group, with its gangs, is restored whole once its places are free (R42). -/
def execGroupRestore (group : Nat) (s : State) : Host.Outcome State Fault Refusal :=
  match s.group group with
  | none => noMove s
  | some g =>
    match s.launchOf g.part g.launch with
    | none => noMove s
    | some l => if restorable s g l then .next (restoreGroup s g l) else noMove s

end Sys2Proof.Machine
end

