-- ==== Sys2Proof/Machine/Monitor.lean ====
section
/-! DEFINITION. The monitor firmware and the device clock: the mailbox and its quotes (R93, R356, R358), bring-up and
partitions (R349 to R353, R357), power (R360), and the tick of the device clock (R169 to R172). -/
namespace Sys2Proof.Machine

/-! ## The mailbox (R356) -/

/-- The request that stands in a mailbox, other than the last answered and the last answered busy. -/
def mailOf (s : State) (p : Partition) : Option Mail :=
  let m : Mail := ⟨wd (peek s p.mbox 8), peek s (p.mbox + 8) 8, peek s (p.mbox + 16) 8, peek s (p.mbox + 24) 8⟩
  if m.seq = p.answered || p.busied == some m.seq || s.poisoned p.mbox then none else some m

/-- The monitor writes an answer: the status, then the sequence, a release at package scope with all it has written before. -/
def writeAnswer (s : State) (p : Partition) (seq : Word) (status : Nat) : State :=
  devRelease (devWrite s (p.mbox + 72) (toBytes 8 status) none) (p.mbox + 64) (toBytes 8 seq.toNat) 4 []

/-- The request in service is answered with a status. -/
def answerMail (s : State) (p : Partition) (m : Mail) (status : Nat) : State :=
  (writeAnswer s p m.seq status).setPartition { p with answered := m.seq, serving := none }

/-- A request is taken into service: offset 0 is read with acquire. -/
def takeMail (s : State) (p : Partition) (m : Mail) : State :=
  (devAcquire s p.mbox 8).setPartition { p with serving := some m, busied := none }

/-- A sequence written while a request is in service is answered busy, and its request is not served (log entry 53). -/
def refuseMail (s : State) (p : Partition) (m : Mail) : State := (writeAnswer s p m.seq 4).setPartition { p with busied := some m.seq }

/-- The shares granted on a die. -/
def sharesOn (s : State) (d : Nat) : List CellarShare := s.parts.filterMap (fun p => p.shareOn d)

/-- The lowest place of n MiB free of shares in a carve-out. -/
def cellarRoom (shares : List CellarShare) (carve n : Nat) : Option Nat :=
  (List.range (carve + 1)).find? (fun b => decide (b + n ≤ carve) && shares.all (fun e => decide (b + n ≤ e.place) || decide (e.place + e.mib ≤ b)))

/-- The bytes of a share become zero, their poison gone (R93). -/
def zeroShare (s : State) (c : CellarShare) : State :=
  { zeroRange s c.base (c.base + c.bytes) with
    poison := s.poison.filter (fun k => !(decide (c.base ≤ 8 * k) && decide (8 * k < c.base + c.bytes))) }

/-- A zeroed share of n MiB at a place of a die, under a grant number of its own. -/
def grantShare (s : State) (p : Partition) (d place n : Nat) : State × Partition :=
  let c : CellarShare := ⟨d, place, n, s.fresh⟩
  (zeroShare { s with fresh := s.fresh + 1 } c, { p with cellar := p.cellar ++ [c] })

/-- A launch of the partition has resident or saved threads on the die (R93). -/
def launchOn (s : State) (p : Partition) (d : Nat) : Bool :=
  s.threads.any (fun e => dieOf e.1 == d && e.2.part == p.num && !e.2.boot) || s.saved.any (fun x => dieOf x.loc == d && x.thread.part == p.num)

/-- The arguments of a request do not make sense (R356, R358). -/
def Mail.bad (m : Mail) (p : Partition) : Bool :=
  match m.code with
  | 1 => !(p.dies.contains m.a) || m.b == 0 || decide (p.cellarMax m.a < m.b)
  | 2 => (p.shareOn m.a).map (·.mib) != some m.b
  | 3 => !(p.dies.contains m.a) || decide (64 < m.b) || m.b % 8 != 0
  | 4 => m.a % 64 != 0 || m.b != 0 || !(p.hasBytes m.a 16432)
  | _ => true

/-- A mailbox event: a request of its kind is taken into service, and by a later event served, once a sequence written meanwhile has
been answered busy (R356). -/
def mailbox (s : State) (part : Nat) (mine : Partition → Mail → Bool) (f : Partition → Mail → State) : Host.Outcome State Fault Refusal :=
  match s.partition part with
  | none => noMove s
  | some p =>
    match p.serving, mailOf s p with
    | none, none => noMove s
    | none, some m => if mine p m then .next (takeMail s p m) else noMove s
    | some m, none => if mine p m then .next (f p m) else noMove s
    | some m, some n => if !(mine p m) then noMove s else if n.seq = m.seq then .next (f p m) else .next (refuseMail s p n)

/-- A request of a code with good arguments. -/
def asks (code : Nat) (p : Partition) (m : Mail) : Bool := m.code == code && !(m.bad p)

/-- MAILBOX_GRANT_CELLAR: a zeroed share on a die (R93, R356). -/
def execMailboxGrantCellar (part : Nat) (s : State) : Host.Outcome State Fault Refusal :=
  mailbox s part (asks 1) (fun p m =>
    if (p.shareOn m.a).isSome || launchOn s p m.a then answerMail s p m 1
    else
      match cellarRoom (sharesOn s m.a) (carveOf s m.a) m.b with
      | none => answerMail s p m 2
      | some b =>
        let r := grantShare s p m.a b m.b
        answerMail r.1 r.2 m 0)

/-- MAILBOX_WITHDRAW_CELLAR: a share is withdrawn, its contents lost (R93, R356). -/
def execMailboxWithdrawCellar (part : Nat) (s : State) : Host.Outcome State Fault Refusal :=
  mailbox s part (asks 2) (fun p m =>
    if launchOn s p m.a then answerMail s p m 1
    else
      answerMail (match p.shareOn m.a with | some c => zeroShare s c | none => s) { p with cellar := p.cellar.filter (fun e => e.die != m.a) } m 0)

/-- The lines of a die's L2 that have no message under way. -/
def quietLines (s : State) (die : Nat) : List Nat := ((s.l2.filter (fun l => l.die == die && !(lineMsg s die l.pa))).map (·.pa)).eraseDups

/-- MAILBOX_SET_CARVE_OUT: every line of the die's L2 is written back and invalidated; once the homes have answered, or their limit has
passed, the carve-out is changed (R93, R113, R356). -/
def execMailboxSetCarveOut (part : Nat) (s : State) : Host.Outcome State Fault Refusal :=
  mailbox s part (asks 3) (fun p m =>
    if !(sharesOn s m.a).isEmpty then answerMail s p m 1
    else if s.l2.any (fun l => l.die == m.a) then (quietLines s m.a).foldl (fun st l => evict st m.a l) s
    else if s.sliceMsgs.any (fun x => x.die == m.a && x.kind.tells) then s
    else answerMail { s with carve := s.carve.setIfInBounds m.a m.b } p m 0)

/-- The first 208 bytes of a quote (R358). -/
def quoteHead (s : State) (p : Partition) : List Byte :=
  toBytes 8 0x54515A53 ++ toBytes 8 s.mon.sequence.toNat ++ peekBytes s (p.mbox + 32) 32 ++ sha384 s.flash.image ++ sha384 s.flash.record ++
  sha384 (p.desc.toList.flatMap (fun w => toBytes 8 w.toNat)) ++ toBytes 8 s.time.toNat ++ toBytes 8 p.num

/-- MAILBOX_QUOTE: a signed quote is written to the buffer (R358). -/
def execMailboxQuote (part : Nat) (s : State) : Host.Outcome State Fault Refusal :=
  mailbox s part (asks 4) (fun p m =>
    let h := quoteHead s p
    answerMail (devWrite s m.a (h ++ (List.range 16224).map (Config.slhSign h)) none) p m 0)

/-- MAILBOX_BAD_REQUEST: another code, or bad arguments: status 3 (R356). -/
def execMailboxBadRequest (part : Nat) (s : State) : Host.Outcome State Fault Refusal :=
  mailbox s part (fun p m => m.bad p) (fun p m => answerMail s p m 3)

/-! ## The configuration record (R353, R357) -/

/-- The 8-byte word at an offset of the record. -/
def recWord (r : List Byte) (o : Nat) : Nat := wordAt r o

/-- The descriptor of partition p in a record. -/
def recDesc (r : List Byte) (p : Nat) : Vector Word 32 := Vector.ofFn (fun i : Fin 32 => wd (recWord r (2080 + 256 * p + 8 * i.val)))

/-- A partition as its descriptor makes it, before its creation: its first group is placed on the ring of clusters from the lowest one
(log entry 12). -/
def newPartition (num : Nat) (desc : Vector Word 32) (now : Word) : Partition :=
  let p : Partition := ⟨num, desc, 0xFFFE, 0, 127, 0, [], none, none, [], 0, 0, 0, []⟩
  { p with snapAt := now + wd (2 ^ p.ctrK) }

/-- The partition exists. -/
def Partition.exists (p : Partition) : Bool := !(p.clusters.isEmpty)

/-- A bit of the descriptor outside its fields is set (R353). -/
def Partition.reserved (p : Partition) : Bool :=
  let w := fun (k : Nat) => p.word k
  let keep := fun (k : Nat) (fs : List (Nat × Nat)) => (fs.foldl (fun (v : Word) f => setBits v f.1 f.2 0) (w k)) != 0
  (List.range 8).any (fun j => keep (2 + j) [(26, 14), (50, 14)]) || keep 10 [(12, 28), (48, 5)] || keep 11 [(8, 32)] ||
  keep 12 [(16, 24)] || keep 13 [(16, 24)] || keep 14 [(0, 40)] || keep 15 [(7, 33), (56, 5)] || keep 16 [(7, 33)] || keep 17 [(6, 34)] ||
  keep 18 [(9, 31)] || keep 19 [(11, 29)] || keep 22 [(0, 32)] || keep 23 [(8, 32)] || (List.range 8).any (fun j => w (24 + j) != 0)

/-- The HBM ranges a descriptor uses (R353). -/
def Partition.used (p : Partition) : List (Nat × Nat) := ((List.range 8).map p.range).filter (fun r => r.2 != 0)

/-- The descriptor breaks a limit of R353. A cellar share on a die in which the partition has no cluster is such a break (DESIGN CHOICE, log
entry 64). -/
def Partition.invalid (p : Partition) : Bool :=
  (p.range 0).2 == 0 || p.used.any (fun r => decide (Config.hbmBytes < r.1 + r.2)) ||
  decide (16 < p.asidK) || !(p.hasBytes p.asidBase (8 * 2 ^ p.asidK)) || !(p.hasBytes p.qblock 256) || !(p.hasBytes p.tagtab 65536) ||
  decide (p.ovfSize < 8256) || !(p.hasBytes p.ovfBase p.ovfSize) || decide (p.ctrK < 12) || decide (24 < p.ctrK) ||
  !(p.hasBytes p.ctrBase (128 * p.cores.length)) || !(p.hasBytes p.mbox 128) || !(p.hasBytes p.outq 64) || !(p.hasBytes p.wintab 512) ||
  !(p.hasBytes p.peertab 2048) || p.bootEntry % 4 != 0 || !(p.hasBytes p.watchtab 256) ||
  (List.range 8).any (fun d => decide (64 < p.cellarMax d) || (p.cellarMax d != 0 && !(p.dies.contains d)))

/-- Two partitions share a cluster, an HBM byte, or a port under one jobid (R353, R357). -/
def Partition.collides (p q : Partition) : Bool :=
  p.clusters.any q.hasCluster ||
  p.used.any (fun a => q.used.any (fun b => decide (a.1 < b.1 + b.2) && decide (b.1 < a.1 + a.2))) ||
  (p.jobid == q.jobid && (List.range 8).any (fun n => p.ports.testBit n && q.ports.testBit n))

/-- The partitions of a record. -/
def recParts (r : List Byte) : List Partition := ((List.range 16).map (fun n => newPartition n (recDesc r n) 0)).filter (·.exists)

/-- Every pair of a list is free of collisions. -/
def pairsFree : List Partition → Bool
  | [] => true
  | p :: l => !(l.any p.collides) && pairsFree l

/-- The carve-out of a die in a record, in MiB. -/
def recCarve (r : List Byte) (d : Nat) : Nat := 8 * nbits (recWord r 24) (8 * d) 8

/-- The record passes the checks of R357 but that of its signature. -/
def recordValid (r : List Byte) : Bool :=
  let ps := recParts r
  let k := nbits (recWord r 16) 0 5
  let cap := nbits (recWord r 16) 48 16
  r.length == 22400 && nbits (recWord r 0) 0 32 == 0x52435A53 && nbits (recWord r 0) 32 32 == 0 && nbits (recWord r 16) 5 27 == 0 &&
  decide (10 ≤ k) && decide (k ≤ 26) && nbits (recWord r 16) 32 16 == 1250 && decide (2000 ≤ cap) && decide (cap ≤ 4200) &&
  (List.range 8).all (fun d => decide (recCarve r d ≤ 64) && decide ((ps.map (fun p => p.cellarMax d)).sum ≤ recCarve r d)) &&
  (List.range 16).all (fun n => !((newPartition n (recDesc r n) 0).reserved)) && ps.all (fun p => !p.invalid) && pairsFree ps

/-- Length of an SLH-DSA-SHA2-192s signature. -/
def sigBytes : Nat := 16224

/-- Where bring-up ends with what flash holds: recovery, no partitions for a reason, or running (R357). -/
def bringUpPhase (f : Flash) : Phase × Nat :=
  if !(Config.slhVerify Config.vendorKey f.image f.imageSig) then (.recovery, 0)
  else if !(Config.slhVerify Config.vendorKey f.operator f.operatorSig) then (.noPartitions, 1)
  else if !(Config.slhVerify (f.operator.take 48) (f.record.take 6176) ((f.record.drop 6176).take sigBytes)) then (.noPartitions, 2)
  else if !(recordValid f.record) then (.noPartitions, 3)
  else (.running, 0)

/-! ## Partitions (R351, R352) -/

/-- The shares a new partition is granted on its dies, zeroed. -/
def grantShares (s : State) (p : Partition) : State × Partition :=
  (List.range 8).foldl (fun (acc : State × Partition) d =>
    if p.cellarMax d = 0 then acc
    else
      match cellarRoom (sharesOn acc.1 d) (carveOf acc.1 d) (p.cellarMax d) with
      | none => acc
      | some b => grantShare acc.1 acc.2 d b (p.cellarMax d)) (s, p)

/-- A partition is created: its descriptor written, its shares zeroed, its first supervisor thread started, which has seen what the
monitor has written (R351, R352; log entry 53). -/
def createPartition (s : State) (p : Partition) : State :=
  let s := devWrite s (p.range 0).1 (p.desc.toList.flatMap (fun w => toBytes 8 w.toNat)) none
  let r := grantShares s { p with snapAt := s.time + wd (2 ^ p.ctrK) }
  let s := { r.1 with parts := r.1.parts ++ [r.2] }
  let loc := (p.clusters.headD 0) * 1024
  startThread s loc p.bootEntry true 0 (wd (65535 * 2 ^ 48)) p.num p.bootAsid
    (Vector.ofFn (fun j : Fin 4 => if j.val = 0 then wd (p.range 0).1 else 0)) 0 4096 none s.dev

/-- A range of HBM becomes zero, with tag 0, no poison and no fence (R351). -/
def scrub (s : State) (lo n : Nat) : State :=
  let s := zeroRange (zeroRange s lo (lo + n)) (tagLoc lo) (tagLoc (lo + n))
  let inside := fun (line : Nat) => decide (lo ≤ 64 * line) && decide (64 * line < lo + n)
  { s with dir := s.dir.filter (fun e => !(inside e.1))
           homeTx := s.homeTx.filter (fun q => !(inside q.line))
           errInv := s.errInv.filter (fun e => !(inside e.line))
           sliceMsgs := s.sliceMsgs.filter (fun m => !(inside m.line))
           detached := s.detached.filter (fun e => !(inside e.2.1)) }

/-- Every thread of a partition is killed (R296, R351). -/
def killAll (s : State) (part : Nat) : State :=
  let s := (s.threads.filter (fun e => e.2.part == part)).foldl (fun st e =>
    match st.thread e.1 with | some t => killLive st e.1 t | none => st) s
  (s.saved.filter (fun x => x.thread.part == part)).foldl killSaved s

/-- What a partition had in hand is gone with it: launches, groups, messages, commands, operands, records. -/
def forget (s : State) (part : Nat) : State :=
  { s with launches := s.launches.filter (fun l => l.part != part)
           groups := s.groups.filter (fun g => g.part != part)
           sgangs := s.sgangs.filter (fun g => g.gang.part != part)
           gangs := s.gangs.filter (fun g => g.part != part)
           spawns := s.spawns.filter (fun m => m.part != part)
           cores := s.cores.map (fun (c : Nat × Core) => (c.1, { c.2 with inbox := c.2.inbox.filter (fun m => m.part != part) }))
           cmds := s.cmds.filter (fun c => c.win.part != part)
           operands := s.operands.filter (fun o => o.part != part)
           deliveries := s.deliveries.filter (fun d => d.ops.all (fun o => o.1.part != part))
           markers := s.markers.filter (fun m => m.2.1 != part)
           appends := s.appends.filter (fun a => a.part != part)
           halted := s.halted.filter (fun h => h.1 != part)
           peers := s.peers.filter (fun e => e.1 / 64 != part)
           rmas := s.rmas.filter (fun r => r.part != part) }

/-- PARTITION_DESTROY: endpoints closed, threads killed, translations and lines dropped, HBM zeroed, shares withdrawn (R351). -/
def execPartitionDestroy (part : Nat) (s : State) : Host.Outcome State Fault Refusal :=
  match s.partition part with
  | none => noMove s
  | some p =>
    let s := removeTranslations (forget (killAll s part) part) p ⟨0, 2 ^ 48, 0, true, true⟩
    let s := { s with tlb := s.tlb.filter (fun e => e.part != part)
                      l1d := s.l1d.filter (fun l => !(p.hasCluster (l.core / 8)))
                      l1i := s.l1i.filter (fun l => !(p.hasCluster (l.core / 8)))
                      l2 := s.l2.filter (fun l => !(p.hasAddr (64 * l.pa))) }
    let s := (List.range 8).foldl (fun st j => scrub st (p.range j).1 (p.range j).2) s
    let s := p.cellar.foldl zeroShare s
    .next { s with parts := s.parts.filter (fun q => q.num != part) }

/-! ## Reset and bring-up (R357) -/

/-- The machine right after module reset: all but flash and the model's own fields at reset. -/
def afterReset (s : State) : State :=
  { State.reset with flash := s.flash, moves := s.moves, fresh := s.fresh, draws := s.draws }

/-- The answer code of a report through port 0's management endpoint (R357). -/
def ackReport : Nat := 3

/-- MODULE_RESET: memory die 0 verifies what flash holds, sets the carve-outs and creates the partitions, or reports through port 0 why
there are none (R101, R357). Partitions are created here only: one that has been destroyed comes back with the next module reset (DESIGN
CHOICE, log entry 64). -/
def execModuleReset (s : State) : Host.Outcome State Fault Refusal :=
  let s := afterReset s
  let r := s.flash.record
  match bringUpPhase s.flash with
  | (.running, _) =>
    let s := { s with
      mon := { s.mon with phase := .running, homeK := nbits (recWord r 16) 0 5, powerCap := nbits (recWord r 16) 48 16, sequence := wd (recWord r 8) }
      carve := Vector.ofFn (fun i : Fin 8 => recCarve r i.val) }
    .next ((recParts r).foldl createPartition s)
  | (.noPartitions, why) => .next (sendReply { s with mon := { s.mon with phase := .noPartitions, reason := why } } 0 ackReport [BitVec.ofNat 8 why])
  | (ph, why) => .next { s with mon := { s.mon with phase := ph, reason := why } }

/-- SIGNED_FIRMWARE_UPDATE: in recovery, port 0 accepts an image with its signature, and bring-up starts again (R357). -/
def execSignedFirmwareUpdate (port : Nat) (image : List (BitVec 8)) (s : State) : Host.Outcome State Fault Refusal :=
  let n := image.length - sigBytes
  if s.mon.phase = .recovery && port = 0 && Config.slhVerify Config.vendorKey (image.take n) (image.drop n) then
    .next { afterReset s with flash := { s.flash with image := image.take n, imageSig := image.drop n } }
  else noMove s

/-! ## Power and cooling (R360) -/

/-- THERMAL_THROTTLE: picks and array starts are withheld in a duty cycle. -/
def execThermalThrottle (s : State) : Host.Outcome State Fault Refusal := .next { s with mon := { s.mon with throttled := true } }

/-- THERMAL_CONDITION_CLEARS: they are withheld no longer. -/
def execThermalConditionClears (s : State) : Host.Outcome State Fault Refusal := .next { s with mon := { s.mon with throttled := false } }

/-- OVERTEMP_RESET: the module is reset; every partition is lost, and bring-up starts again. -/
def execOvertempReset (s : State) : Host.Outcome State Fault Refusal := .next (afterReset s)

/-! ## The device clock (R23, R28, R39, R169 to R172) -/

/-- A core has a pick to make in this cycle. -/
def pickOwed (s : State) (core : Nat) : Bool := [false, true].any (portOwed s core)

/-- The cores that hold threads. -/
def busyCores (s : State) : List Nat := (s.threads.map (fun e => coreOf e.1)).eraseDups

/-- A waiting operand's timeout has come and it can be returned now (R159, R367). -/
def orphanDue (s : State) (o : Operand) : Bool :=
  o.waits && o.due s && !(s.overtaken 2 (tagPlace o.part o.tag) 0)

/-- A barrier generation that can complete, a gang that can form (R36, R289). -/
def meetingDue (s : State) : Bool :=
  s.groups.any (barrierDue s) ||
  ((s.threads.filter (fun e => e.2.muster.isSome)).map (fun e => rowOf e.1)).eraseDups.any (fun r => (gangDue s r).isSome)

/-- What a cycle has to do before it ends is done: picks (unless withheld), lingers, meetings, deadlines, snapshots, orphans, the
timeouts of homes and slices. -/
def cycleDone (s : State) : Bool :=
  (s.mon.throttled || !((busyCores s).any (pickOwed s))) &&
  !(s.threads.any (fun e => e.2.linger.isSome && (lingerOver s e.2 || lingerMet s e.1 e.2))) &&
  !(meetingDue s) && !(s.groups.any (forceDue s)) && !(s.parts.any (fun p => (snapshotDue s p).isSome)) &&
  !(s.operands.any (orphanDue s)) && !(homeDue s)

/-- A thread stalled on an empty register, and not parked: its next instruction's registers are its only obstacle (R21, R172). -/
def emptyStall (s : State) (loc : Nat) (t : Thread) : Bool :=
  !(t.blocked s.time) && !(parked s loc t) && (match nextInstr s loc t with | some i => readGate t i == .stall | none => false)

/-- A thread stalled on a full engine queue: its next instruction is a command of that queue (R172). -/
def queueStall (s : State) (loc : Nat) (t : Thread) : Bool :=
  !(t.blocked s.time) && !t.stop &&
  (match nextInstr s loc t with | some i => readGate t i == .go && i.portM && queueHolds s loc t i | none => false)

/-- The cycle's counts of a core that counts anything: cycles and stalled thread-cycles (R171, R172). -/
def countCycle (s : State) (core : Nat) : State :=
  let ts := s.threads.filter (fun e => coreOf e.1 == core)
  ((s.count core 1 1).count core 11 (ts.filter (fun e => emptyStall s e.1 e.2)).length).count core 12
    (ts.filter (fun e => queueStall s e.1 e.2)).length

/-- A core in its next cycle: the register values and the select word that were to take effect from it (R171, R292). -/
def Core.nextCycle (c : Core) : Core :=
  let c := { c with tvec := c.tvecNext.getD c.tvec, tfbase := c.tfbaseNext.getD c.tfbase, tvecNext := none, tfbaseNext := none }
  match c.selectNext with
  | some w => { c.applySelect w with selectNext := none }
  | none => c

/-- The threads whose next instruction is `bar` or `barc` come to stand at their barriers, the lowest locator first (R289; log
entry 30). -/
def standAll (s : State) : State :=
  s.threads.foldl (fun st e =>
    match st.thread e.1 with
    | none => st
    | some t =>
      let n := nextIssue st e.1 t
      match (if n.ready then none else n.instr) with
      | some .bar => stands st e.1 (execBar { st with cur := e.1 })
      | some (.barc a u) => stands st e.1 (execBarc a u { st with cur := e.1 })
      | _ => st) s
where
  stands (st : State) (loc : Nat) (o : Host.Outcome State Fault Refusal) : State :=
    match o with
    | .next s' => if (match s'.thread loc with | some u => u.atBar | none => false) then { s' with cur := st.cur } else st
    | _ => st

/-- A cycle begins: the threads that are not ready now are not picked in it (R22). -/
def beginCycle (s : State) : State := { s with late := lateThreads s }

/-- DEVICE_CLOCK_TICK: the cycle ends; `s.time` and the `s.cyc` of every thread in a context gain 1, and what takes effect from the
next cycle does (R22, R169 to R171, R289, R292). -/
def execDeviceClockTick (s : State) : Host.Outcome State Fault Refusal :=
  if !(cycleDone s) then noMove s
  else
    let s := (s.cores.filter (fun c => c.2.select != 0)).foldl (fun st c => countCycle st c.1) s
    .next (beginCycle <| standAll { s with
      time := s.time + 1
      ranks := []
      picks := []
      cores := s.cores.map (fun (c : Nat × Core) => (c.1, c.2.nextCycle))
      threads := s.threads.map (fun (e : Nat × Thread) => (e.1, { e.2 with cyc := e.2.cyc + 1 })) })

end Sys2Proof.Machine
end

