-- ==== Sys2Proof/Machine/Packed.lean ====
section
/-! DEFINITION. Packed integer, packed float, shuffles, packing, and narrow formats in registers (R264 to R271). -/
namespace Sys2Proof.Machine

/-! ## Lanes (R264) -/

/-- Lane i of width w of a register. -/
def lane (w : Nat) (v : Word) (i : Nat) : Nat := bits v (w * i) w

/-- A register from its lanes of width w, lane 0 first. -/
def ofLanes (w : Nat) (l : List Nat) : Word :=
  wd (l.foldr (fun x acc => x % 2 ^ w + 2 ^ w * acc) 0)

/-- The lane width of a packed integer code (R265). -/
def laneWidth (l : BitVec 2) : Nat := 8 * 2 ^ l.toNat

/-- A packed integer operation on lanes as signed numbers. -/
def packedInt (l : BitVec 2) (f : Int → Int → Int) (x y : Word) : Word :=
  let w := laneWidth l
  ofLanes w ((List.range (64 / w)).map (fun i => ofInt w (f (toSigned w (lane w x i)) (toSigned w (lane w y i)))))

/-- An integer packed instruction. -/
def packed (s : State) (i : Instr) (lat : Nat) (d : Reg) (f : Thread → Word) : Host.Outcome State Fault Refusal :=
  issueLocal s i lat (fun th => th.setG d (f th))

/-- The format of a packed float lane code (R266). -/
def laneFmt (l : BitVec 2) : Fmt := if l = 0 then f32 else if l = 1 then f16 else bf16

/-- The OR of all lanes' flags. -/
def orFlags (l : List (Nat × Nat)) : Nat := l.foldl (fun a r => Nat.lor a r.2) 0

/-- A packed float instruction: each lane rounded once in the dynamic mode, one delivery (R57, R266). -/
def packedFloat (s : State) (i : Instr) (d : Reg) (f : Fmt) (op : Nat → Thread → Nat → Nat × Nat) :
    Host.Outcome State Fault Refusal :=
  issue s i (fun th =>
    match effMode 7#3 th with
    | none => floatTrap s th 4 modeTrap
    | some mode =>
      let rs := (List.range (64 / f.size)).map (op mode th)
      deliver s th (orFlags rs) 4 (fun u => u.setG d (ofLanes f.size (rs.map (·.1)))))

/-- Saturation to the signed range of w bits (R43). -/
def saturate (w : Nat) (x : Int) : Nat :=
  let hi : Int := 2 ^ (w - 1) - 1
  let lo : Int := -(2 ^ (w - 1) : Int)
  ofInt w (if x > hi then hi else if x < lo then lo else x)

/-- The exact sum of four signed byte products (R265). -/
def dot4 (x y : Word) (j : Nat) : Int :=
  ((List.range 4).map (fun k => toSigned 8 (lane 8 x (4 * j + k)) * toSigned 8 (lane 8 y (4 * j + k)))).foldl (· + ·) 0

/-- `padd`: (x + y) mod 2^w (R265). -/
def execPadd (d a b : BitVec 6) (t u : Bool) (l : BitVec 2) (s : State) : Host.Outcome State Fault Refusal :=
  packed s (.padd d a b t u l) 2 d (fun th => packedInt l (fun x y => x + y) (th.gpr a) (th.gpr b))

/-- `psub`: (x - y) mod 2^w (R265). -/
def execPsub (d a b : BitVec 6) (t u : Bool) (l : BitVec 2) (s : State) : Host.Outcome State Fault Refusal :=
  packed s (.psub d a b t u l) 2 d (fun th => packedInt l (fun x y => x - y) (th.gpr a) (th.gpr b))

/-- `pmul`: (x y) mod 2^w (R265). -/
def execPmul (d a b : BitVec 6) (t u : Bool) (l : BitVec 2) (s : State) : Host.Outcome State Fault Refusal :=
  packed s (.pmul d a b t u l) 4 d (fun th => packedInt l (fun x y => x * y) (th.gpr a) (th.gpr b))

/-- `pmin`: the smaller lane, signed (R265). -/
def execPmin (d a b : BitVec 6) (t u : Bool) (l : BitVec 2) (s : State) : Host.Outcome State Fault Refusal :=
  packed s (.pmin d a b t u l) 2 d (fun th => packedInt l (fun x y => if x < y then x else y) (th.gpr a) (th.gpr b))

/-- `pmax`: the larger lane, signed (R265). -/
def execPmax (d a b : BitVec 6) (t u : Bool) (l : BitVec 2) (s : State) : Host.Outcome State Fault Refusal :=
  packed s (.pmax d a b t u l) 2 d (fun th => packedInt l (fun x y => if x < y then y else x) (th.gpr a) (th.gpr b))

/-- `pdot4`: two 32-bit sums of four byte products (R265). -/
def execPdot4 (d a b : BitVec 6) (t u : Bool) (s : State) : Host.Outcome State Fault Refusal :=
  packed s (.pdot4 d a b t u) 4 d (fun th => ofLanes 32 ((List.range 2).map (fun j => ofInt 32 (dot4 (th.gpr a) (th.gpr b) j))))

/-- `pfadd` (R266). -/
def execPfadd (d a b : BitVec 6) (t u : Bool) (l : BitVec 2) (s : State) : Host.Outcome State Fault Refusal :=
  packedFloat s (.pfadd d a b t u l) d (laneFmt l) (fun mode th i =>
    (laneFmt l).add mode ((laneFmt l).decode (lane (laneFmt l).size (th.gpr a) i)) ((laneFmt l).decode (lane (laneFmt l).size (th.gpr b) i)))

/-- `pfmul` (R266). -/
def execPfmul (d a b : BitVec 6) (t u : Bool) (l : BitVec 2) (s : State) : Host.Outcome State Fault Refusal :=
  packedFloat s (.pfmul d a b t u l) d (laneFmt l) (fun mode th i =>
    (laneFmt l).mul mode ((laneFmt l).decode (lane (laneFmt l).size (th.gpr a) i)) ((laneFmt l).decode (lane (laneFmt l).size (th.gpr b) i)))

/-- `pfma`: x y + z with z the lane of the destination before the write (R266). -/
def execPfma (d a b : BitVec 6) (t u : Bool) (l : BitVec 2) (s : State) : Host.Outcome State Fault Refusal :=
  packedFloat s (.pfma d a b t u l) d (laneFmt l) (fun mode th i =>
    (laneFmt l).fma mode false false ((laneFmt l).decode (lane (laneFmt l).size (th.gpr a) i)) ((laneFmt l).decode (lane (laneFmt l).size (th.gpr b) i))
      ((laneFmt l).decode (lane (laneFmt l).size (th.gpr d) i)))

/-- The result of `pshuf` (R267). -/
def shuffle (halves : Bool) (x sel : Word) : Word :=
  if halves then
    ofLanes 16 ((List.range 4).map (fun i => let k := lane 4 sel i; if 8 ≤ k then 0 else lane 16 x (k % 4)))
  else
    ofLanes 8 ((List.range 8).map (fun i => let k := lane 8 sel i; if 128 ≤ k then 0 else lane 8 x (k % 8)))

/-- The result of `ppack` from lanes of twice the result width (R268). -/
def pack (v : BitVec 2) (x y : Word) : Word :=
  let w := if v = 0 then 8 else if v = 1 then 16 else 4
  let n := 32 / w
  ofLanes w ((List.range (2 * n)).map (fun i =>
    saturate w (toSigned (2 * w) (if i < n then lane (2 * w) x i else lane (2 * w) y (i - n)))))

/-- The result of `punpk` (R269). -/
def unpack (v : BitVec 2) (x : Word) : Word :=
  let w := if v.toNat < 2 then 8 else 16
  let n := 32 / w
  let off := if v.toNat % 2 = 1 then n else 0
  ofLanes (2 * w) ((List.range n).map (fun i => ofInt (2 * w) (toSigned w (lane w x (off + i)))))

/-- `pshuf`: lanes picked by selectors; v set for halfwords (R267). -/
def execPshuf (d a b : BitVec 6) (t u v : Bool) (s : State) : Host.Outcome State Fault Refusal :=
  packed s (.pshuf d a b t u v) 2 d (fun th => shuffle v (th.gpr a) (th.gpr b))

/-- `ppack`: two registers packed into narrower saturated lanes (R268). -/
def execPpack (d a b : BitVec 6) (t u : Bool) (v : BitVec 2) (s : State) : Host.Outcome State Fault Refusal :=
  packed s (.ppack d a b t u v) 2 d (fun th => pack v (th.gpr a) (th.gpr b))

/-- `punpk`: half a register widened by sign extension (R269). -/
def execPunpk (d a : BitVec 6) (t : Bool) (v : BitVec 2) (s : State) : Host.Outcome State Fault Refusal :=
  packed s (.punpk d a t v) 2 d (fun th => unpack v (th.gpr a))

/-- Formats `pfcvt` accepts (R270). -/
def cvtFmt (f : Nat) : Option Fmt := if f ∈ [6, 7, 8, 10, 11, 12, 13] then fmtFloat f else none

/-- Bits of an element in a register (R270). -/
def cvtWidth (f : Fmt) : Nat := if f.size = 6 then 8 else f.size

/-- The lanes of `pfcvt`: count, first source lane, first result lane; none where k is out of range (R270). -/
def cvtLanes (ws wd' k : Nat) : Option (Nat × Nat × Nat) :=
  let n := 64 / max ws wd'
  if 64 < (k + 1) * n * min ws wd' ∨ (wd' = ws ∧ k ≠ 0) then none
  else if ws < wd' then some (n, k * n, 0)
  else if wd' < ws then some (n, 0, k * n)
  else some (n, 0, 0)

/-- `pfcvt`: lanes converted between formats (R270). -/
def execPfcvt (d a b : BitVec 6) (t u : Bool) (k : BitVec 2) (s : State) : Host.Outcome State Fault Refusal :=
  issue s (.pfcvt d a b t u k) (fun th =>
    let y := th.gpr b
    let bad := illegal 0 (0x500 + k.toNat)
    match cvtFmt (bits y 0 5), cvtFmt (bits y 8 5) with
    | some f, some g =>
      match cvtLanes (cvtWidth f) (cvtWidth g) k.toNat with
      | none => floatTrap s th 3 bad
      | some (n, ip, op) =>
        match effMode 7#3 th with
        | none => floatTrap s th 3 modeTrap
        | some mode =>
          let rs := (List.range n).map (fun i => g.round mode (f.decode (lane (cvtWidth f) (th.gpr a) (ip + i) % 2 ^ f.size)))
          deliver s th (orFlags rs) 3 (fun u => u.setG d (ofLanes (cvtWidth g) (List.replicate op 0 ++ rs.map (·.1))))
    | _, _ => floatTrap s th 3 bad)

/-- `bxd`: four codes of a typed 4-bit block as BF16 lanes; no flag (R271). -/
def execBxd (d a b : BitVec 6) (t u : Bool) (k : BitVec 2) (s : State) : Host.Outcome State Fault Refusal :=
  packed s (.bxd d a b t u k) 3 d (fun th =>
    ofLanes 16 ((List.range 4).map (fun i =>
      (bf16.round 0 (typedDecode (bits (th.gpr b) 0 8) (lane 4 (th.gpr a) (4 * k.toNat + i)))).1)))

end Sys2Proof.Machine
end

