-- ==== Sys2Proof/Machine/Dispatch.lean ====
section
/-! DEFINITION. The dispatch: one arm per constructor of Instr, each one call of that instruction's meaning. -/
namespace Sys2Proof.Machine

def exec (i : Instr) (s : State) : Host.Outcome State Fault Refusal :=
  match i with
  | .add w d a b t u => Sys2Proof.Machine.execAdd w d a b t u s
  | .sub w d a b t u => Sys2Proof.Machine.execSub w d a b t u s
  | .mul w d a b t u => Sys2Proof.Machine.execMul w d a b t u s
  | .mulh w d a b t u => Sys2Proof.Machine.execMulh w d a b t u s
  | .mulhn w d a b t u => Sys2Proof.Machine.execMulhn w d a b t u s
  | .div w d a b t u => Sys2Proof.Machine.execDiv w d a b t u s
  | .divn w d a b t u => Sys2Proof.Machine.execDivn w d a b t u s
  | .rem w d a b t u => Sys2Proof.Machine.execRem w d a b t u s
  | .remn w d a b t u => Sys2Proof.Machine.execRemn w d a b t u s
  | .and w d a b t u => Sys2Proof.Machine.execAnd w d a b t u s
  | .or w d a b t u => Sys2Proof.Machine.execOr w d a b t u s
  | .xor w d a b t u => Sys2Proof.Machine.execXor w d a b t u s
  | .andn w d a b t u => Sys2Proof.Machine.execAndn w d a b t u s
  | .orn w d a b t u => Sys2Proof.Machine.execOrn w d a b t u s
  | .shl w d a b t u => Sys2Proof.Machine.execShl w d a b t u s
  | .shr w d a b t u => Sys2Proof.Machine.execShr w d a b t u s
  | .sra w d a b t u => Sys2Proof.Machine.execSra w d a b t u s
  | .rot w d a b t u => Sys2Proof.Machine.execRot w d a b t u s
  | .min w d a b t u => Sys2Proof.Machine.execMin w d a b t u s
  | .minn w d a b t u => Sys2Proof.Machine.execMinn w d a b t u s
  | .max w d a b t u => Sys2Proof.Machine.execMax w d a b t u s
  | .maxn w d a b t u => Sys2Proof.Machine.execMaxn w d a b t u s
  | .clz w d a t => Sys2Proof.Machine.execClz w d a t s
  | .ctz w d a t => Sys2Proof.Machine.execCtz w d a t s
  | .popc w d a t => Sys2Proof.Machine.execPopc w d a t s
  | .brev w d a t => Sys2Proof.Machine.execBrev w d a t s
  | .bswap w d a t => Sys2Proof.Machine.execBswap w d a t s
  | .sext d a z t => Sys2Proof.Machine.execSext d a z t s
  | .zext d a z t => Sys2Proof.Machine.execZext d a z t s
  | .cmp c p a b t u => Sys2Proof.Machine.execCmp c p a b t u s
  | .cmpW c p a b t u => Sys2Proof.Machine.execCmpW c p a b t u s
  | .pand d a b => Sys2Proof.Machine.execPand d a b s
  | .por d a b => Sys2Proof.Machine.execPor d a b s
  | .pxor d a b => Sys2Proof.Machine.execPxor d a b s
  | .pnot d a => Sys2Proof.Machine.execPnot d a s
  | .movpToPred d a t => Sys2Proof.Machine.execMovpToPred d a t s
  | .movpToGpr d a => Sys2Proof.Machine.execMovpToGpr d a s
  | .sel d a b t u k => Sys2Proof.Machine.execSel d a b t u k s
  | .addp d a b t u => Sys2Proof.Machine.execAddp d a b t u s
  | .setf d a b t u => Sys2Proof.Machine.execSetf d a b t u s
  | .getf d a t => Sys2Proof.Machine.execGetf d a t s
  | .settag d a b t u => Sys2Proof.Machine.execSettag d a b t u s
  | .gettag d a t => Sys2Proof.Machine.execGettag d a t s
  | .addpImm d a t imm => Sys2Proof.Machine.execAddpImm d a t imm s
  | .li d imm => Sys2Proof.Machine.execLi d imm s
  | .lic d imm => Sys2Proof.Machine.execLic d imm s
  | .cmpi c p a t imm => Sys2Proof.Machine.execCmpi c p a t imm s
  | .addImm d a t imm => Sys2Proof.Machine.execAddImm d a t imm s
  | .andImm d a t imm => Sys2Proof.Machine.execAndImm d a t imm s
  | .orImm d a t imm => Sys2Proof.Machine.execOrImm d a t imm s
  | .xorImm d a t imm => Sys2Proof.Machine.execXorImm d a t imm s
  | .shlImm d a t k => Sys2Proof.Machine.execShlImm d a t k s
  | .shrImm d a t k => Sys2Proof.Machine.execShrImm d a t k s
  | .sraImm d a t k => Sys2Proof.Machine.execSraImm d a t k s
  | .rotImm d a t k => Sys2Proof.Machine.execRotImm d a t k s
  | .bfx d a t p l => Sys2Proof.Machine.execBfx d a t p l s
  | .bfi d a t p l => Sys2Proof.Machine.execBfi d a t p l s
  | .bp p n o => Sys2Proof.Machine.execBp p n o s
  | .call o => Sys2Proof.Machine.execCall o s
  | .pbr k imm => Sys2Proof.Machine.execPbr k imm s
  | .nop => Sys2Proof.Machine.execNop s
  | .jb k => Sys2Proof.Machine.execJb k s
  | .jbp n j k => Sys2Proof.Machine.execJbp n j k s
  | .callb k => Sys2Proof.Machine.execCallb k s
  | .ret => Sys2Proof.Machine.execRet s
  | .pbt k a t => Sys2Proof.Machine.execPbt k a t s
  | .quit => Sys2Proof.Machine.execQuit s
  | .yield => Sys2Proof.Machine.execYield s
  | .rejoin n => Sys2Proof.Machine.execRejoin n s
  | .trap c => Sys2Proof.Machine.execTrap c s
  | .ecall c => Sys2Proof.Machine.execEcall c s
  | .tret => Sys2Proof.Machine.execTret s
  | .rpt c d a b => Sys2Proof.Machine.execRpt c d a b s
  | .fadd d a b t u w m => Sys2Proof.Machine.execFadd d a b t u w m s
  | .fsub d a b t u w m => Sys2Proof.Machine.execFsub d a b t u w m s
  | .fmul d a b t u w m => Sys2Proof.Machine.execFmul d a b t u w m s
  | .fdiv d a b t u w m => Sys2Proof.Machine.execFdiv d a b t u w m s
  | .fma d a b t u w m => Sys2Proof.Machine.execFma d a b t u w m s
  | .fms d a b t u w m => Sys2Proof.Machine.execFms d a b t u w m s
  | .fnma d a b t u w m => Sys2Proof.Machine.execFnma d a b t u w m s
  | .fsqrt d a t w m => Sys2Proof.Machine.execFsqrt d a t w m s
  | .frcp d a t w m => Sys2Proof.Machine.execFrcp d a t w m s
  | .frsq d a t w m => Sys2Proof.Machine.execFrsq d a t w m s
  | .fex2 d a t w m => Sys2Proof.Machine.execFex2 d a t w m s
  | .flg2 d a t w m => Sys2Proof.Machine.execFlg2 d a t w m s
  | .fsin d a t w m => Sys2Proof.Machine.execFsin d a t w m s
  | .fcos d a t w m => Sys2Proof.Machine.execFcos d a t w m s
  | .fcvt d a z t w m => Sys2Proof.Machine.execFcvt d a z t w m s
  | .fcvti d a imm t w m => Sys2Proof.Machine.execFcvti d a imm t w m s
  | .ficvt d a imm t w m => Sys2Proof.Machine.execFicvt d a imm t w m s
  | .fmin d a b t u w => Sys2Proof.Machine.execFmin d a b t u w s
  | .fmax d a b t u w => Sys2Proof.Machine.execFmax d a b t u w s
  | .fneg d a t w => Sys2Proof.Machine.execFneg d a t w s
  | .fcmp c p a b t u w => Sys2Proof.Machine.execFcmp c p a b t u w s
  | .fclass d a t w => Sys2Proof.Machine.execFclass d a t w s
  | .padd d a b t u l => Sys2Proof.Machine.execPadd d a b t u l s
  | .psub d a b t u l => Sys2Proof.Machine.execPsub d a b t u l s
  | .pmul d a b t u l => Sys2Proof.Machine.execPmul d a b t u l s
  | .pmin d a b t u l => Sys2Proof.Machine.execPmin d a b t u l s
  | .pmax d a b t u l => Sys2Proof.Machine.execPmax d a b t u l s
  | .pdot4 d a b t u => Sys2Proof.Machine.execPdot4 d a b t u s
  | .pfadd d a b t u l => Sys2Proof.Machine.execPfadd d a b t u l s
  | .pfmul d a b t u l => Sys2Proof.Machine.execPfmul d a b t u l s
  | .pfma d a b t u l => Sys2Proof.Machine.execPfma d a b t u l s
  | .pshuf d a b t u v => Sys2Proof.Machine.execPshuf d a b t u v s
  | .ppack d a b t u v => Sys2Proof.Machine.execPpack d a b t u v s
  | .punpk d a t v => Sys2Proof.Machine.execPunpk d a t v s
  | .pfcvt d a b t u k => Sys2Proof.Machine.execPfcvt d a b t u k s
  | .bxd d a b t u k => Sys2Proof.Machine.execBxd d a b t u k s
  | .mfs d n => Sys2Proof.Machine.execMfs d n s
  | .mts a t n => Sys2Proof.Machine.execMts a t n s
  | .sMergeWrite v => Sys2Proof.Machine.execSMergeWrite v s
  | .sAlcoveWrite v => Sys2Proof.Machine.execSAlcoveWrite v s
  | .sStatusWrite v => Sys2Proof.Machine.execSStatusWrite v s
  | .systemRegisterWrite n v => Sys2Proof.Machine.execSystemRegisterWrite n v s
  | .fence o => Sys2Proof.Machine.execFence o s
  | .qfence m => Sys2Proof.Machine.execQfence m s
  | .cwb a b t u => Sys2Proof.Machine.execCwb a b t u s
  | .cinv a b t u => Sys2Proof.Machine.execCinv a b t u s
  | .icinv a b t u => Sys2Proof.Machine.execIcinv a b t u s
  | .ifence => Sys2Proof.Machine.execIfence s
  | .drain => Sys2Proof.Machine.execDrain s
  | .arrive z a b t u => Sys2Proof.Machine.execArrive z a b t u s
  | .bar => Sys2Proof.Machine.execBar s
  | .barc a t => Sys2Proof.Machine.execBarc a t s
  | .muster d => Sys2Proof.Machine.execMuster d s
  | .disband => Sys2Proof.Machine.execDisband s
  | .ldb d a k t y => Sys2Proof.Machine.execLdb d a k t y s
  | .stb z a k t w => Sys2Proof.Machine.execStb z a k t w s
  | .mkd k a b t u => Sys2Proof.Machine.execMkd k a b t u s
  | .dnar k a b t u => Sys2Proof.Machine.execDnar k a b t u s
  | .stn z a t f => Sys2Proof.Machine.execStn z a t f s
  | .stg a b t u => Sys2Proof.Machine.execStg a b t u s
  | .ldg d a t => Sys2Proof.Machine.execLdg d a t s
  | .rtag d a b t u => Sys2Proof.Machine.execRtag d a b t u s
  | .mfe d k => Sys2Proof.Machine.execMfe d k s
  | .mte k a t => Sys2Proof.Machine.execMte k a t s
  | .spawn d a b t u => Sys2Proof.Machine.execSpawn d a b t u s
  | .spawnCl d a b t u => Sys2Proof.Machine.execSpawnCl d a b t u s
  | .taga d a b t u => Sys2Proof.Machine.execTaga d a b t u s
  | .tagf a b t u => Sys2Proof.Machine.execTagf a b t u s
  | .qstat d q => Sys2Proof.Machine.execQstat d q s
  | .unpark d a t => Sys2Proof.Machine.execUnpark d a t s
  | .kill a t => Sys2Proof.Machine.execKill a t s
  | .reclaim a b t u => Sys2Proof.Machine.execReclaim a b t u s
  | .cinvT a b t u => Sys2Proof.Machine.execCinvT a b t u s
  | .lsub d a t => Sys2Proof.Machine.execLsub d a t s
  | .lprq d a t => Sys2Proof.Machine.execLprq d a t s
  | .stop d a t => Sys2Proof.Machine.execStop d a t s
  | .lres d a t => Sys2Proof.Machine.execLres d a t s
  | .cpy a b t u q => Sys2Proof.Machine.execCpy a b t u q s
  | .qnt a b t u q => Sys2Proof.Machine.execQnt a b t u q s
  | .gath a b t u => Sys2Proof.Machine.execGath a b t u s
  | .scat a b t u => Sys2Proof.Machine.execScat a b t u s
  | .slsend a b t u => Sys2Proof.Machine.execSlsend a b t u s
  | .tclm a t => Sys2Proof.Machine.execTclm a t s
  | .tld a b t u => Sys2Proof.Machine.execTld a b t u s
  | .trel a t => Sys2Proof.Machine.execTrel a t s
  | .aclr a t => Sys2Proof.Machine.execAclr a t s
  | .acst a b t u => Sys2Proof.Machine.execAcst a b t u s
  | .acld a b t u => Sys2Proof.Machine.execAcld a b t u s
  | .mma a b t u c x h => Sys2Proof.Machine.execMma a b t u c x h s
  | .ld p d a t w k => Sys2Proof.Machine.execLd p d a t w k s
  | .ldn p d a t w k => Sys2Proof.Machine.execLdn p d a t w k s
  | .st p z a t u w k => Sys2Proof.Machine.execSt p z a t u w k s
  | .ordLd p d a w t o => Sys2Proof.Machine.execOrdLd p d a w t o s
  | .ordLdn p d a w t o => Sys2Proof.Machine.execOrdLdn p d a w t o s
  | .ordSt p z a w t o => Sys2Proof.Machine.execOrdSt p z a w t o s
  | .amoAdd p d a w t f => Sys2Proof.Machine.execAmoAdd p d a w t f s
  | .amoMin p d a w t f => Sys2Proof.Machine.execAmoMin p d a w t f s
  | .amoMax p d a w t f => Sys2Proof.Machine.execAmoMax p d a w t f s
  | .amoMinn p d a w t f => Sys2Proof.Machine.execAmoMinn p d a w t f s
  | .amoMaxn p d a w t f => Sys2Proof.Machine.execAmoMaxn p d a w t f s
  | .amoAnd p d a w t f => Sys2Proof.Machine.execAmoAnd p d a w t f s
  | .amoOr p d a w t f => Sys2Proof.Machine.execAmoOr p d a w t f s
  | .amoXor p d a w t f => Sys2Proof.Machine.execAmoXor p d a w t f s
  | .amoXchg p d a w t f => Sys2Proof.Machine.execAmoXchg p d a w t f s
  | .amoFaddS p d a t f => Sys2Proof.Machine.execAmoFaddS p d a t f s
  | .amoFaddBf p d a t f => Sys2Proof.Machine.execAmoFaddBf p d a t f s
  | .cas p d a w t f => Sys2Proof.Machine.execCas p d a w t f s
  | .ldx p d a b t u => Sys2Proof.Machine.execLdx p d a b t u s
  | .stx p z a b t u => Sys2Proof.Machine.execStx p z a b t u s
  | .waita k d a b t u f => Sys2Proof.Machine.execWaita k d a b t u f s
  | .waitge k d a b t u f => Sys2Proof.Machine.execWaitge k d a b t u f s
  | .issuePick core portM meets => Sys2Proof.Machine.execIssuePick core portM meets s
  | .wideMergePick core portM meets => Sys2Proof.Machine.execWideMergePick core portM meets s
  | .lingerTimeout loc => Sys2Proof.Machine.execLingerTimeout loc s
  | .lingerMeet loc => Sys2Proof.Machine.execLingerMeet loc s
  | .storeCheckReturn loc => Sys2Proof.Machine.execStoreCheckReturn loc s
  | .pageWalk die part asid va => Sys2Proof.Machine.execPageWalk die part asid va s
  | .producerReply loc entry => Sys2Proof.Machine.execProducerReply loc entry s
  | .atomicPerform loc entry meets => Sys2Proof.Machine.execAtomicPerform loc entry meets s
  | .faultReply loc entry => Sys2Proof.Machine.execFaultReply loc entry s
  | .poisonReply loc entry => Sys2Proof.Machine.execPoisonReply loc entry s
  | .storeDrain loc store => Sys2Proof.Machine.execStoreDrain loc store s
  | .ntStoreDrain loc store => Sys2Proof.Machine.execNtStoreDrain loc store s
  | .loadReadMove loc entry picks soft => Sys2Proof.Machine.execLoadReadMove loc entry picks soft s
  | .waitWake loc entry picks => Sys2Proof.Machine.execWaitWake loc entry picks s
  | .waitTimeout loc entry => Sys2Proof.Machine.execWaitTimeout loc entry s
  | .guardReadReturn loc picks => Sys2Proof.Machine.execGuardReadReturn loc picks s
  | .trapEntry loc => Sys2Proof.Machine.execTrapEntry loc s
  | .gangFormation row => Sys2Proof.Machine.execGangFormation row s
  | .gangCommandEntry row gang picks => Sys2Proof.Machine.execGangCommandEntry row gang picks s
  | .barrierCompletion group => Sys2Proof.Machine.execBarrierCompletion group s
  | .engineCommandStart id => Sys2Proof.Machine.execEngineCommandStart id s
  | .engineCommandPerformed id picks meets => Sys2Proof.Machine.execEngineCommandPerformed id picks meets s
  | .tagAllocation loc entry => Sys2Proof.Machine.execTagAllocation loc entry s
  | .sluiceArrival id => Sys2Proof.Machine.execSluiceArrival id s
  | .sluiceOrphanExpiry id => Sys2Proof.Machine.execSluiceOrphanExpiry id s
  | .spawnMessageArrival id => Sys2Proof.Machine.execSpawnMessageArrival id s
  | .inboxHeadStart core => Sys2Proof.Machine.execInboxHeadStart core s
  | .groupPlacement part => Sys2Proof.Machine.execGroupPlacement part s
  | .quitComplete loc => Sys2Proof.Machine.execQuitComplete loc s
  | .quiescenceReport group => Sys2Proof.Machine.execQuiescenceReport group s
  | .queueRecordAppend part queue => Sys2Proof.Machine.execQueueRecordAppend part queue s
  | .deadlineExpiry group => Sys2Proof.Machine.execDeadlineExpiry group s
  | .groupSave group => Sys2Proof.Machine.execGroupSave group s
  | .yieldSave loc => Sys2Proof.Machine.execYieldSave loc s
  | .groupRestore group => Sys2Proof.Machine.execGroupRestore group s
  | .homeReadMiss die line => Sys2Proof.Machine.execHomeReadMiss die line s
  | .homeUpgrade die line => Sys2Proof.Machine.execHomeUpgrade die line s
  | .homeEviction die line => Sys2Proof.Machine.execHomeEviction die line s
  | .homeNoncacheableAccess line => Sys2Proof.Machine.execHomeNoncacheableAccess line s
  | .homeAcknowledgement die line => Sys2Proof.Machine.execHomeAcknowledgement die line s
  | .atomicRecallWaitExpiry die line => Sys2Proof.Machine.execAtomicRecallWaitExpiry die line s
  | .sharerTimeout die line => Sys2Proof.Machine.execSharerTimeout die line s
  | .recallTimeout die line => Sys2Proof.Machine.execRecallTimeout die line s
  | .errorInvalidateResend die line => Sys2Proof.Machine.execErrorInvalidateResend die line s
  | .errorInvalidateReceipt die line => Sys2Proof.Machine.execErrorInvalidateReceipt die line s
  | .errorInvalidateAck die line => Sys2Proof.Machine.execErrorInvalidateAck die line s
  | .sliceRequestTimeout die line => Sys2Proof.Machine.execSliceRequestTimeout die line s
  | .counterSnapshot part core => Sys2Proof.Machine.execCounterSnapshot part core s
  | .hostSend pkt => Sys2Proof.Machine.execHostSend pkt s
  | .rmaWrite pkt => Sys2Proof.Machine.execRmaWrite pkt s
  | .rmaRead read => Sys2Proof.Machine.execRmaRead read s
  | .unsupportedOperation pkt => Sys2Proof.Machine.execUnsupportedOperation pkt s
  | .packetDrop pkt => Sys2Proof.Machine.execPacketDrop pkt s
  | .outboundEntryStart part => Sys2Proof.Machine.execOutboundEntryStart part s
  | .outboundCompletion part index code data => Sys2Proof.Machine.execOutboundCompletion part index code data s
  | .outboundRetryLimit part index => Sys2Proof.Machine.execOutboundRetryLimit part index s
  | .mailboxGrantCellar part => Sys2Proof.Machine.execMailboxGrantCellar part s
  | .mailboxWithdrawCellar part => Sys2Proof.Machine.execMailboxWithdrawCellar part s
  | .mailboxSetCarveOut part => Sys2Proof.Machine.execMailboxSetCarveOut part s
  | .mailboxQuote part => Sys2Proof.Machine.execMailboxQuote part s
  | .moduleReset => Sys2Proof.Machine.execModuleReset s
  | .partitionDestroy part => Sys2Proof.Machine.execPartitionDestroy part s
  | .thermalThrottle => Sys2Proof.Machine.execThermalThrottle s
  | .overtempReset => Sys2Proof.Machine.execOvertempReset s
  | .deviceClockTick => Sys2Proof.Machine.execDeviceClockTick s
  | .thermalConditionClears => Sys2Proof.Machine.execThermalConditionClears s
  | .signedFirmwareUpdate port image => Sys2Proof.Machine.execSignedFirmwareUpdate port image s
  | .mailboxBadRequest part => Sys2Proof.Machine.execMailboxBadRequest part s

end Sys2Proof.Machine
end

