-- ==== Sys2Proof/Machine/Schedule.lean ====
section
/-! DEFINITION. The moves of the device (R174): which constructors are moves, and the default next move when the tape names
none (log entry 1). -/
namespace Sys2Proof

/-- A move of the device: an event of the opcode table. The encoded instructions and the register-write operations are
no moves: they happen where a thread executes them. -/
def Instr.isMove : Instr → Bool
  | .issuePick .. | .wideMergePick .. | .lingerTimeout .. | .lingerMeet .. | .storeCheckReturn ..
  | .pageWalk .. | .producerReply .. | .atomicPerform .. | .faultReply .. | .poisonReply .. | .storeDrain ..
  | .ntStoreDrain .. | .loadReadMove .. | .waitWake .. | .waitTimeout .. | .guardReadReturn .. | .trapEntry ..
  | .gangFormation .. | .gangCommandEntry .. | .barrierCompletion .. | .engineCommandStart ..
  | .engineCommandPerformed .. | .tagAllocation .. | .sluiceArrival .. | .sluiceOrphanExpiry ..
  | .spawnMessageArrival .. | .inboxHeadStart .. | .groupPlacement .. | .quitComplete ..
  | .quiescenceReport .. | .queueRecordAppend .. | .deadlineExpiry .. | .groupSave .. | .yieldSave ..
  | .groupRestore .. | .homeReadMiss .. | .homeUpgrade .. | .homeEviction .. | .homeNoncacheableAccess ..
  | .homeAcknowledgement .. | .atomicRecallWaitExpiry .. | .sharerTimeout .. | .recallTimeout ..
  | .errorInvalidateResend .. | .errorInvalidateReceipt .. | .errorInvalidateAck .. | .sliceRequestTimeout ..
  | .counterSnapshot .. | .hostSend .. | .rmaWrite .. | .rmaRead .. | .unsupportedOperation ..
  | .packetDrop .. | .outboundEntryStart .. | .outboundCompletion .. | .outboundRetryLimit ..
  | .mailboxGrantCellar .. | .mailboxWithdrawCellar .. | .mailboxSetCarveOut .. | .mailboxQuote ..
  | .moduleReset | .partitionDestroy .. | .thermalThrottle | .overtempReset | .deviceClockTick
  | .thermalConditionClears | .signedFirmwareUpdate .. | .mailboxBadRequest .. => true
  | _ => false

end Sys2Proof

namespace Sys2Proof.Machine

/-! ## The default next move

Candidates are listed in a fixed order; the first that changes the state is made, and the clock ticks when none does. None
of them is a choice that R174 leaves to the outside world: packets, resets, errors, evictions and peers' answers come only
from the tape. -/

/-- The HBM lines among some locations. -/
def hbmLines (xs : List Nat) : List Nat := ((xs.filter (fun x => bankOf x == 0 || bankOf x == 9)).map lineOf).eraseDups

/-- An entry's access to a line is non-cacheable. -/
def entryBypasses (s : State) (loc : Nat) (t : Thread) (line : Nat) (e : ReplayEntry) : Bool :=
  match entryReach s loc t line e with
  | some r => !r.2.c
  | none => false

/-- A wait's word satisfies its condition now. -/
def wakes (s : State) (loc : Nat) (t : Thread) (e : ReplayEntry) : Bool :=
  match e.instr with
  | some i => i.isWait && waitHolds i e.src3 (wd (ofBytes ((entryLocs s loc t e).map (memGet s.mem))))
  | none => false

/-- The moves of a replay entry. -/
def entryMoves (s : State) (loc : Nat) (t : Thread) (e : ReplayEntry) : List Instr :=
  [.producerReply loc e.id, .faultReply loc e.id, .poisonReply loc e.id, .tagAllocation loc e.id, .loadReadMove loc e.id [] ⟨[], none⟩,
   .atomicPerform loc e.id ⟨[], []⟩] ++ (if wakes s loc t e then [.waitWake loc e.id ⟨[], []⟩] else []) ++ [.waitTimeout loc ⟨e.id, [], []⟩]

/-- The moves of a thread apart from its requests at a home. -/
def threadMoves (s : State) (e : Nat × Thread) : List Instr :=
  [.trapEntry ⟨e.1, []⟩, .lingerTimeout e.1, .lingerMeet e.1] ++ e.2.replay.flatMap (entryMoves s e.1 e.2) ++ e.2.sb.map (fun x => .storeDrain e.1 ⟨x.id, []⟩) ++
  e.2.nt.map (fun x => .ntStoreDrain e.1 ⟨x.id, []⟩) ++ [.storeCheckReturn ⟨e.1, [], []⟩, .guardReadReturn e.1 ⟨[], []⟩, .yieldSave e.1, .quitComplete e.1]

/-- The requests a thread's accesses make at a home. -/
def homeRequests (s : State) (e : Nat × Thread) : List Instr :=
  let die := dieOf e.1
  (e.2.replay.filter (fun x => x.flight == .waiting && x.state == .pending)).flatMap (fun x =>
    let ls := hbmLines (entryLocs s e.1 e.2 x)
    ls.flatMap (fun l => if entryBypasses s e.1 e.2 l x then [.homeNoncacheableAccess l] else [.homeReadMiss die ⟨l, .access⟩, .homeUpgrade die ⟨l, .access⟩])) ++
  (e.2.sb ++ e.2.nt).flatMap (fun x =>
    (hbmLines (x.cells.map (·.1))).map (fun l => if x.cacheable then .homeUpgrade die ⟨l, .access⟩ else .homeNoncacheableAccess l))

/-- The moves of the directory and the slices. -/
def homeMoves (s : State) : List Instr :=
  s.homeTx.flatMap (fun q => q.waits.flatMap (fun w =>
    [.homeAcknowledgement w.1 q.line, .atomicRecallWaitExpiry w.1 q.line, .sharerTimeout w.1 q.line, .recallTimeout w.1 q.line])) ++
  s.errInv.flatMap (fun e => [.errorInvalidateReceipt e.die e.line, .errorInvalidateAck e.die e.line, .errorInvalidateResend e.die e.line]) ++
  s.sliceMsgs.flatMap (fun m => (if m.kind.tells then [.homeEviction m.die m.line] else [.homeReadMiss m.die ⟨m.line, m.asker⟩, .homeUpgrade m.die ⟨m.line, m.asker⟩]) ++ [.sliceRequestTimeout m.die m.line])

/-- The moves of engines, sluices and gangs. -/
def engineMoves (s : State) : List Instr :=
  s.cmds.flatMap (fun c => [.engineCommandPerformed c.id [] ⟨0, [], 0⟩, .engineCommandStart c.id]) ++
  s.deliveries.map (fun d => .sluiceArrival ⟨d.id, []⟩) ++
  s.operands.flatMap (fun o => [.sluiceArrival ⟨o.id, []⟩, .sluiceOrphanExpiry ⟨o.id, []⟩]) ++
  (s.gangs.map (fun g => .gangCommandEntry g.row g.num ⟨[], []⟩)) ++
  (((s.threads.filter (fun e => e.2.muster.isSome)).map (fun e => rowOf e.1)).eraseDups.map (fun r => .gangFormation r))

/-- The moves of groups, launches and partitions. -/
def launchMoves (s : State) : List Instr :=
  s.groups.flatMap (fun g => [.deadlineExpiry g.id, .groupSave g.id, .groupRestore g.id, .quiescenceReport g.id, .barrierCompletion g.id]) ++
  s.spawns.map (fun m => .spawnMessageArrival m.id) ++
  ((s.cores.filter (fun c => !c.2.inbox.isEmpty)).map (fun c => .inboxHeadStart c.1)) ++
  s.parts.flatMap (fun p => [.queueRecordAppend p.num 0, .queueRecordAppend p.num 1, .groupPlacement p.num] ++
    (match snapshotDue s p with | some c => [.counterSnapshot p.num c] | none => []) ++
    [.mailboxGrantCellar p.num, .mailboxWithdrawCellar p.num, .mailboxSetCarveOut p.num, .mailboxQuote p.num, .mailboxBadRequest p.num,
     .outboundEntryStart ⟨p.num, [], []⟩])

/-- The picks of the cores that hold threads. -/
def pickMoves (s : State) : List Instr :=
  (busyCores s).flatMap (fun c => [.issuePick c false ⟨[], [], [], []⟩, .wideMergePick c false ⟨[], [], [], []⟩, .issuePick c true ⟨[], [], [], []⟩,
    .wideMergePick c true ⟨[], [], [], []⟩])

/-- Every candidate in order. -/
def candidates (s : State) : List Instr :=
  s.threads.flatMap (threadMoves s) ++ engineMoves s ++ launchMoves s ++ homeMoves s ++ s.threads.flatMap (homeRequests s) ++ pickMoves s

/-- A move that changes the state. -/
def changes (s : State) (m : Instr) : Bool := match exec m s with | .next s' => s' != s | _ => false

/-- The default next move. -/
def nextMove (s : State) : Instr :=
  match s.mon.phase with
  | .inReset => .moduleReset
  | _ => ((candidates s).find? (changes s)).getD .deviceClockTick

end Sys2Proof.Machine
end

