-- ==== Sys2Proof/Machine/Step.lean ====
section
/-! DEFINITION. One step of the machine: the next member of the cohort being issued executes its instruction, or, with none
left to issue, the device makes its next move (R23, R174). -/
namespace Sys2Proof.Machine

/-- A thread executes its next instruction: fetched, decoded, and executed, or its trap taken (R102, R222). -/
def executeAt (s : State) (loc : Nat) (t : Thread) : Host.Outcome State Fault Refusal :=
  match nextCode s loc t with
  | (s, .error r) => .next (takeTrap s loc t r)
  | (s, .ok w) =>
    match decode w with
    | .error e => .next (takeTrap s loc t (illegalWord w e))
    | .ok i => exec i { s with ir := w }

/-- The next member of the cohort issues; one that cannot issue is passed over (R22, R23). -/
def issueNext (s : State) (loc : Nat) : Host.Outcome State Fault Refusal :=
  match s.thread loc with
  | none => .next s
  | some t => if t.blocked s.time then .next (s.put { t with rep := none }) else executeAt s loc t

/-- One step. -/
def step (s : State) : Host.Outcome State Fault Refusal :=
  match s.issue with
  | loc :: rest => issueNext { s with issue := rest, cur := loc } loc
  | [] =>
    match s.moves with
    | m :: rest => if m.isMove then exec m { s with moves := rest } else .next { s with moves := rest }
    | [] => exec (nextMove s) s

/-! ## Placing an instruction -/

/-- The thread that a placed instruction runs in: the head of the cohort being issued where that thread can issue, else a
fresh supervisor thread. -/
def hostThread (s : State) : Thread :=
  let fresh := Thread.start 0 true 0 (wd (65535 * 2 ^ 48)) 0 0 (Vector.replicate 4 0) 0 (alcoveWord 4096) 0 s.time s.fresh none []
  match s.issue with
  | loc :: _ =>
    match s.thread loc with
    | some t => if t.blocked s.time then fresh else { t with rep := none }
    | none => fresh
  | [] => fresh

/-- The line of sixteen words that holds a word at an address and zero elsewhere. -/
def lineWith (va : Nat) (code : Code) : Vector Code 16 :=
  Vector.ofFn (fun i : Fin 16 => if i.val = va / 4 % 16 then code else 0)

/-- The state with an instruction stored where the next step fetches: the issuing thread's line of its core's L1
instruction cache holds its word at the thread's pc, and that thread is the next to issue (log entry 4). -/
def State.withFetchWord (s : State) (_nbits w : Nat) : State :=
  let loc := s.issue.headD 0
  let t := hostThread s
  let va := t.pc.toNat
  let line : L1ILine := ⟨coreOf loc, va / 64, t.asid, 0, ⟨true, true, false, !t.super, true, false, false⟩, lineWith va (BitVec.ofNat 32 w)⟩
  { s.setThread loc t with
    issue := loc :: s.issue.tail
    banks := if s.banks.contains t.alcBank then s.banks else s.banks ++ [t.alcBank]
    fresh := if t.alcBank = s.fresh then s.fresh + 1 else s.fresh
    l1i := line :: s.l1i.filter (fun l => !(l.core == coreOf loc && l.va == va / 64)) }

end Sys2Proof.Machine
end

