-- ==== Sys2Proof/Safety.lean ====
section
/-! DEFINITION. What counts as a safe state and a safe run, in the terms the statements use: an instruction ready to take
its effect, the state its completion leaves, integers narrowed to a register, and the invariants. -/
namespace Sys2Proof

/-! ## The instructions that only compute (R225 to R236, R251 to R271) -/

/-- An instruction that reads and writes registers and predicates and nothing else: integer, predicate, pointer, float and packed
ones. -/
def Instr.computes : Instr → Bool
  | .add .. | .sub .. | .mul .. | .mulh .. | .mulhn .. | .div .. | .divn .. | .rem .. | .remn .. | .and .. | .or .. | .xor ..
  | .andn .. | .orn .. | .shl .. | .shr .. | .sra .. | .rot .. | .min .. | .minn .. | .max .. | .maxn .. | .clz .. | .ctz ..
  | .popc .. | .brev .. | .bswap .. | .sext .. | .zext .. | .cmp .. | .cmpW .. | .cmpi .. | .pand .. | .por .. | .pxor ..
  | .pnot .. | .movpToPred .. | .movpToGpr .. | .sel .. | .addp .. | .addpImm .. | .setf .. | .getf .. | .settag .. | .gettag ..
  | .rtag .. | .li .. | .lic .. | .addImm .. | .andImm .. | .orImm .. | .xorImm .. | .shlImm .. | .shrImm .. | .sraImm ..
  | .rotImm .. | .bfx .. | .bfi .. | .fadd .. | .fsub .. | .fmul .. | .fdiv .. | .fma .. | .fms .. | .fnma .. | .fsqrt ..
  | .frcp .. | .frsq .. | .fex2 .. | .flg2 .. | .fsin .. | .fcos .. | .fcvt .. | .fcvti .. | .ficvt .. | .fmin .. | .fmax ..
  | .fneg .. | .fcmp .. | .fclass .. | .padd .. | .psub .. | .pmul .. | .pmin .. | .pmax .. | .pdot4 .. | .pfadd .. | .pfmul ..
  | .pfma .. | .pshuf .. | .ppack .. | .punpk .. | .pfcvt .. | .bxd .. => true
  | _ => false

/-- An instruction that can raise float flags (R52, R253). -/
def Instr.raises : Instr → Bool
  | .fadd .. | .fsub .. | .fmul .. | .fdiv .. | .fma .. | .fms .. | .fnma .. | .fsqrt .. | .frcp .. | .frsq .. | .fex2 ..
  | .flg2 .. | .fsin .. | .fcos .. | .fcvt .. | .fcvti .. | .ficvt .. | .fmin .. | .fmax .. | .fcmp .. | .pfadd .. | .pfmul ..
  | .pfma .. | .pfcvt .. => true
  | _ => false

/-- The predicate that an instruction which only computes writes. -/
def Instr.predDst : Instr → Option (BitVec 3)
  | .cmp _ p .. | .cmpW _ p .. | .cmpi _ p .. | .fcmp _ p .. => some p
  | .pand d .. | .por d .. | .pxor d .. | .pnot d .. | .movpToPred d .. => some d
  | _ => none

end Sys2Proof

namespace Sys2Proof.Machine

/-! ## Words (R195) -/

/-- A word of format RR: opcode, d, a, b, the wait/trap bits of a and b, and fn. -/
def rrWord (op d a b : Nat) (t u : Bool) (fn : Nat) : Code :=
  BitVec.ofNat 32 (op * 2 ^ 25 + d * 2 ^ 19 + a * 2 ^ 13 + b * 2 ^ 7 + t.toNat * 64 + u.toNat * 32 + fn)
/-- A word of format RI: opcode, d, a, the wait/trap bit of a, and imm12. -/
def riWord (op d a : Nat) (t : Bool) (imm : Nat) : Code := BitVec.ofNat 32 (op * 2 ^ 25 + d * 2 ^ 19 + a * 2 ^ 13 + t.toNat * 4096 + imm)

/-! ## Completion -/

/-- The current thread can issue an instruction and take its effect: nothing blocks the thread, every register the
instruction reads is full, the register it writes is owed to no producer, a supervisor-only instruction runs at supervisor
level, and the stalls of its form are over (R22, R64, R217, R222). -/
structure CanIssue (s : State) (i : Instr) (t : Thread) : Prop where
  cur   : s.thread s.cur = some t
  free  : t.blocked s.time = false
  full  : ∀ p ∈ i.srcs, t.regState p.1 = .full
  dest  : ∀ d, i.dst = some d → t.regState d ≠ .owed
  level : i.supervisorOnly = true → t.super = true
  room  : formStall t i = false

/-- The state an instruction leaves that changes only its own thread, to u, and then goes past itself, its thread's next
issue being lat cycles later. -/
def ended (s : State) (u : Thread) (lat : Nat) : State := s.put (u.advance s.time lat)

/-- Where it is ready, an instruction of thread t completes with the thread changed to u. -/
def RunsTo (s : State) (i : Instr) (t u : Thread) (lat : Nat) : Prop := CanIssue s i t → exec i s = .next (ended s u lat)

/-- Where it is ready, an instruction of thread t answers a state. -/
def Answers (s : State) (i : Instr) (t : Thread) (s' : State) : Prop := CanIssue s i t → exec i s = .next s'

/-! ## Integers in registers (R43, R205) -/

/-- The bits of an integer width code: 64 (w = 0) or 32 (w = 1). -/
def widthOf (w : Bool) : Nat := if w then 32 else 64
/-- The low bits of a register as a signed number. -/
def signedOf (w : Bool) (v : Word) : Int := toSigned (widthOf w) v.toNat
/-- The low bits of a register as an unsigned number. -/
def unsignedOf (w : Bool) (v : Word) : Nat := v.toNat % 2 ^ widthOf w
/-- An integer reduced to the width's bits and sign-extended to the register. -/
def narrow (w : Bool) (z : Int) : Word := signExt (widthOf w) (ofInt (widthOf w) z)

/-- A register value reduced to the width and sign-extended: what an INT32 form writes (R43). -/
def sext (w : Bool) (v : Word) : Word := if w then signExt 32 v.toNat else v
/-- The condition of a compare code, of signed and unsigned numbers (R203). -/
def condOf (c : BitVec 3) (x y : Int) (X Y : Nat) : Bool :=
  match c.toNat with
  | 0 => decide (X = Y)
  | 1 => decide (X ≠ Y)
  | 2 => decide (x < y)
  | 3 => decide (x ≤ y)
  | 4 => decide (X < Y)
  | _ => decide (X ≤ Y)

/-! ## Floating point -/

/-- A float instruction of thread t completes with a result pattern in d and flags: the flags are ORed into `s.fcsr` and the
result written where none of them is enabled; where one is, the break trap is taken with the flags ORed in (R253), and the next issue comes as late (R252). -/
def Delivers (s : State) (i : Instr) (t : Thread) (flags : Nat) (write : Thread → Thread) (lat : Nat) : Prop :=
  let u : Thread := { t with fcsr := t.fcsr ||| wd flags }
  (Nat.land (bits u.fcsr 5 5) flags = 0 → RunsTo s i t (write u) lat) ∧
  (Nat.land (bits u.fcsr 5 5) flags ≠ 0 → Answers s i t (s.trap { u with issueAt := s.time + wd lat } ⟨13, 0, wd (0xF000000000000000 + flags), 0⟩))
/-- The same of an instruction with a rounding-mode code (R52): the mode of the code, that of `s.fcsr` for code 7, and the
illegal trap where that holds none, the next issue coming as late as after a result (R252, R253). -/
def RoundsTo (s : State) (i : Instr) (t : Thread) (m : BitVec 3) (r : Nat → Nat × Nat) (write : Nat → Thread → Thread) (lat : Nat) : Prop :=
  (m ≠ 7 → Delivers s i t (r m.toNat).2 (write (r m.toNat).1) lat) ∧
  (m = 7 → bits t.fcsr 12 3 ≤ 4 → Delivers s i t (r (bits t.fcsr 12 3)).2 (write (r (bits t.fcsr 12 3)).1) lat) ∧
  (m = 7 → 4 < bits t.fcsr 12 3 → Answers s i t (s.trap { t with issueAt := s.time + wd lat } ⟨1, 0, 7, 0⟩))

/-- What an instruction that only computes may leave of its thread: its destination register or predicate and the operand log
have changed, and float flags have been ORed into `s.fcsr` where it can raise any. -/
def Computed (i : Instr) (t u : Thread) : Prop :=
  u = { t with g := u.g, gs := u.gs, oplog := u.oplog, p := u.p, fcsr := u.fcsr } ∧
  (∀ r : Reg, i.dst ≠ some r → u.g[r.toNat] = t.g[r.toNat] ∧ u.gs[r.toNat] = t.gs[r.toNat]) ∧
  (∀ k : BitVec 3, i.predDst ≠ some k → u.pred k = t.pred k) ∧
  ∃ f, f < 32 ∧ u.fcsr = t.fcsr ||| wd f ∧ (i.raises = false → f = 0)

/-! ## Traps -/

/-- The trap conditions under which a handler is entered: not in a trap already, a vector, nothing to wait for (no atomic, `spawn`
or `taga` in transit, no earlier store before the frame's), a frame in the address space that is mapped and writable, its lines
not poisoned or refused to the die once they have come (R82, R85, R111, R113). -/
def HandlerReachable (s : State) (loc : Nat) (t : Thread) (pa : Nat) : Prop :=
  t.inTrap = false ∧ (s.core (coreOf loc)).tvec ≠ 0 ∧ trapWaits s loc t = false ∧ bits t.tfp 60 4 = 0 ∧ bits t.tfp 0 48 % 512 = 0 ∧
  (∃ as, checkGlobal s (dieOf loc) t.part t.asid true .store (some 0) (bits t.tfp 0 48) 512 (t.view s loc) = .ok (span pa 512) as ∧
    let s1 := touch (fillTlbs s (dieOf loc) t.part t.asid (bits t.tfp 0 48) 512) (dieOf loc) t.asid (bits t.tfp 0 48) (span pa 512) as true
    ∀ k < 512, s1.poisoned (pa + k) = false ∧ ((attrAt as k).c = true → lineRefused s1 (dieOf loc) ((pa + k) / 64) = false)) ∧
  pa + 512 ≤ Config.hbmBytes ∧ (∀ e ∈ s.detached, e.1 ≠ dieOf loc)

/-- A word of 8 bytes that C names lies in a local space at place x: in its window, in storage that is there, not poisoned (R165, R382,
R383). -/
def WordStands (s : State) (w : Windows) (space off x : Nat) : Prop :=
  wordPlaces s w space off = some (span x 8) ∧ ∀ y ∈ span x 8, bankOf y ≠ 0 ∧ bankOf y ≠ 9 ∧ s.live y = true ∧ s.poisoned y = false

/-! ## Invariants -/

/-- Memory is in its canonical form: addresses strictly rising, no listed byte equal to what an unlisted address reads. -/
def memoryCanonical (s : State) : Prop := Memory.wf s.mem = true

/-- The call-stack fields of a thread: floor and csp are multiples of 8, neither above size (R74). A floor above csp is
allowed: calls trap until csp is above it again. -/
def stackFieldsOk (v : Word) : Prop :=
  bits v 32 16 % 8 = 0 ∧ bits v 0 16 % 8 = 0 ∧ bits v 32 16 ≤ bits v 16 16 ∧ bits v 0 16 ≤ bits v 16 16

end Sys2Proof.Machine
end

