-- ==== Sys2Proof/Certificates/Slice0/Obligations.lean ====
section
/-! DEFINITION. The statements for the provers. Each is one or more numbered rules of spec/ said of the model; a result is
stated as the next state that `exec` answers where the instruction can issue (`RunsTo`, `Answers`), so that it says that the
instruction completes as well. -/

open Sys2Proof Sys2Proof.Machine

/-! ## The machine as a whole -/

/-- What module reset leaves: no thread in a context, directory entries 0, no line poisoned, counters and `s.time` 0, every core at
its reset values (R9, R25, R76, R154, R169). That every byte of every bank and of HBM reads 0 before the monitor has zeroed it
(R101) is the model's choice (log entries 5 and 12). -/
def Obligations.ResetLeaves : Prop :=
  (∀ loc, State.reset.thread loc = none) ∧ (∀ x, memGet State.reset.mem x = 0) ∧ (∀ l, (State.reset.dirEntry l).word = 0) ∧
  (∀ x, State.reset.poisoned x = false) ∧ State.reset.time = 0 ∧ (∀ c, (State.reset.core c).merge = 0x2000) ∧
  (∀ c, (State.reset.core c).tvec = 0 ∧ (State.reset.core c).tfbase = 0) ∧ (∀ c, (State.reset.core c).perf = Vector.replicate 8 0) ∧
  State.reset.mon.phase = .inReset ∧ memoryCanonical State.reset

/-- A step runs the decoded instruction: the head of the cohort being issued, not blocked, executes the instruction that the
word at its pc decodes to, and a word or fetch that fails traps; a blocked head is passed over (R22, R23, R102, R222). -/
def Obligations.StepRunsDecoded : Prop :=
  ∀ (s : State) (loc : Nat) (rest : List Nat) (t : Thread), s.issue = loc :: rest → s.thread loc = some t →
    let s0 : State := { s with issue := rest, cur := loc }
    (t.blocked s.time = true → step s = .next (s0.put { t with rep := none })) ∧
    (t.blocked s.time = false →
      (∀ s1 w i, nextCode s0 loc t = (s1, .ok w) → decode w = .ok i → step s = exec i { s1 with ir := w }) ∧
      (∀ s1 w e, nextCode s0 loc t = (s1, .ok w) → decode w = .error e → step s = .next (takeTrap s1 loc t (illegalWord w e))) ∧
      (∀ s1 r, nextCode s0 loc t = (s1, .error r) → step s = .next (takeTrap s1 loc t r)))

/-- With no cohort member left to issue, a step makes the next move: the tape's, passed over where it is no move of the
device, else the default one (log entry 1). -/
def Obligations.StepMakesMove : Prop :=
  ∀ (s : State), s.issue = [] →
    (∀ m rest, s.moves = m :: rest → m.isMove = true → step s = exec m { s with moves := rest }) ∧
    (∀ m rest, s.moves = m :: rest → m.isMove = false → step s = .next { s with moves := rest }) ∧
    (s.moves = [] → step s = exec (nextMove s) s)

/-- The word fetched: that of the core's L1 instruction cache line, else the four bytes of memory at the translated address, once
its walk is made (`s0`) and its line has come (`s1`). A walk that finds no page or a bad table, an address outside the partition's ranges, a page that does
not permit the fetch, and a line poisoned or refused to the die trap (R102, R103, R109, R113, R114, R146, R222). That a fetch
that misses reads the newest bytes and takes its line in its own move is log entry 16 (R117 lets it read old ones). -/
def Obligations.FetchReadsCode : Prop :=
  ∀ (s : State) (loc : Nat) (t : Thread) (va : Nat),
    (∀ l, l1iFind s (coreOf loc) t.asid va = some l →
      (permits l.attrs t.super .fetch = true → fetchCode s loc t va = (s, .ok (l.words[va / 4 % 16]'(Nat.mod_lt _ (by decide))))) ∧
      (permits l.attrs t.super .fetch = false → fetchCode s loc t va = (s, .error ⟨9, 0, 4, wd va⟩))) ∧
    (l1iFind s (coreOf loc) t.asid va = none →
      let s0 := (fillTlb s (dieOf loc) t.part t.asid va).count (coreOf loc) 10 1
      let found := xlate s0 (dieOf loc) t.part t.asid va
      (found = .absent → fetchCode s loc t va = (s0, .error ⟨8, 0, 4, wd va⟩)) ∧
      (∀ sub, found = .bad sub → fetchCode s loc t va = (s0, .error ⟨8, sub, 4, wd va⟩)) ∧
      (found = .poisoned → fetchCode s loc t va = (s0, .error ⟨11, 2, 4, wd va⟩)) ∧
      (∀ pa at' p, found = .page pa at' → s0.partition t.part = some p →
        let s1 := touch s0 (dieOf loc) t.asid va [pa] [at'] false
        let x := s1.resolve (.thread loc) pa
        let stops := s1.poisoned x || (at'.c && lineRefused s1 (dieOf loc) (pa / 64))
        (p.hasBytes pa 4 = false → (fetchCode s loc t va).2 = .error ⟨8, 1, 4, wd va⟩) ∧
        (p.hasBytes pa 4 = true → permits at' t.super .fetch = false → (fetchCode s loc t va).2 = .error ⟨9, 0, 4, wd va⟩) ∧
        (p.hasBytes pa 4 = true → permits at' t.super .fetch = true →
          (stops = true → (fetchCode s loc t va).2 = .error ⟨11, 0, 4, wd va⟩) ∧
          (stops = false → (fetchCode s loc t va).2 = .ok (BitVec.ofNat 32 (peek s1 x 4))))))

/-- Moving past an instruction: the pc gains 4 (8 at the end of an `rpt`, whose count field clears; 0 between its
repetitions, whose count gains 1), watch_skip is cleared, the next issue is lat cycles on, nothing else of the thread changes
but its marks of an issue in progress (R22, R72, R75, R221; the marks are the model's own, log entry 2). That the pc wraps at
2^48, past the last word of the space, is log entry 13. -/
def Obligations.AdvanceMoves : Prop :=
  ∀ (t : Thread) (now : Word) (lat : Nat),
    t.advance now lat = { t with
      issueAt := now + wd lat
      status := (t.advance now lat).status
      check := none
      guard := none
      rep := none
      pix := (t.advance now lat).pix
      pc := (match t.rep with | none => t.pc + 4 | some n => if n ≤ bits t.pix 0 16 + 1 then t.pc + 8 else t.pc) } ∧
    (∀ i < 64, bit (t.advance now lat).status i = (bit t.status i && i != 3)) ∧
    bits (t.advance now lat).pix 16 48 = bits t.pix 16 48 ∧
    bits (t.advance now lat).pix 0 16 = (match t.rep with
      | none => bits t.pix 0 16
      | some n => if n ≤ bits t.pix 0 16 + 1 then 0 else (bits t.pix 0 16 + 1) % 65536)

/-- Memory keeps its canonical form: every step from a state whose memory is canonical leaves it canonical. -/
def Obligations.StepKeepsMemoryCanonical : Prop :=
  ∀ s s', memoryCanonical s → step s = .next s' → memoryCanonical s'

/-! ## Encoding -/

/-- Words written out from the encoding tables decode to the instructions they stand for: `add.w g3, g1, g2`; `li g5, -1`;
`ld.w g7, [g8 - 16]` (offset -4 in units of 4 bytes); `st.d [g2 + 64], g9` in the alcove (offset 8 in units of 8 bytes, R211, R274); `bp !p1, -8`; `fma.s g1, g2, g3` toward zero; a `fence` of acquire
order at package scope; `tret`; and a word of an unassigned primary opcode is rejected by name. A word that is not an
instruction is rejected by name and traps as the rule says: an engine or `qstat` queue field of 5 to 7, a queue that does
not serve its command, and any other (R119, R222, R329). -/
def Obligations.DecodeWords : Prop :=
  (decode 0b0000001_000011_000001_000010_0_0_00000#32 = .ok (.add true 3 1 2 false false) ∧
   decode 0b0000100_000101_1111111111111111111#32 = .ok (.li 5 0x7FFFF) ∧
   decode 0b1000000_000111_001000_0_10_0_111111100#32 = .ok (.ld 0 7 8 false 2 0x1FC) ∧
   decode 0b1001001_001001_000010_0_1_11_000001000#32 = .ok (.st 1 9 2 false true 3 8) ∧
   decode 0b0011000_001_1_111111111111111111000#32 = .ok (.bp 1 true 0x1FFFF8) ∧
   decode 0b0100100_000001_000010_000011_0_0_01_001#32 = .ok (.fma 1 2 3 false false 1 1) ∧
   decode 0b0111010_0000000000000_01010_00_00000#32 = .ok (.fence 10) ∧
   decode 0b0011011_00000000000000000000_01011#32 = .ok .tret ∧
   decode 0b0011100_0000000000000000000000000#32 = .error .opcode) ∧
  (∀ (w : Code),
     (∀ q, decode w = .error (.queueCode q) → illegalWord w (.queueCode q) = ⟨1, 0, wd q, 0⟩ ∧ 5 ≤ q ∧ q ≤ 7) ∧
     (∀ q, decode w = .error (.queueMismatch q) → illegalWord w (.queueMismatch q) = ⟨1, 0, wd (0x400 + q), 0⟩ ∧ q ≤ 4) ∧
     (∀ e, decode w = .error e → e = .opcode ∨ e = .fields → illegalWord w e = ⟨1, 2, wd w.toNat, 0⟩))

/-- Decode and encode agree: the word of every well-formed encoded instruction decodes to it, whatever its operands. -/
def Obligations.DecodeEncode : Prop :=
  ∀ i w, i.wf = true → encode i = some w → decode w = .ok i

/-- Every word that decodes is the encoding of the well-formed instruction it decodes to, but for a load of width 3, whose
bit 9 is not looked at (R211, R212): there the encoding has it 0. -/
def Obligations.EncodeDecode : Prop :=
  ∀ w i, decode w = .ok i → i.wf = true ∧
    (encode i = some w ∨
      ((∃ p d a t k, i = .ld p d a t 3 k) ∨ (∃ p d a t o, i = .ordLd p d a 3 t o)) ∧ encode i = some (w &&& ~~~ 512#32))

/-! ## Integer instructions (R225 to R233) -/

/-- Sums, differences, products and their high halves, in INT64 and INT32 (R43, R227). Immediate forms: sums and bitwise
operations with the sign-extended immediate, shifts by k, `li`, `lic` (R228, R230). -/
def Obligations.IntegerArithmetic : Prop :=
  (∀ (s : State) (th : Thread) (w : Bool) (d a b : Reg) (t u : Bool),
     let x := signedOf w (th.gpr a)
     let y := signedOf w (th.gpr b)
     let X := unsignedOf w (th.gpr a)
     let Y := unsignedOf w (th.gpr b)
     RunsTo s (.add w d a b t u) th (th.setG d (narrow w (x + y))) 1 ∧
     RunsTo s (.sub w d a b t u) th (th.setG d (narrow w (x - y))) 1 ∧
     RunsTo s (.mul w d a b t u) th (th.setG d (narrow w (x * y))) 1 ∧
     RunsTo s (.mulh w d a b t u) th (th.setG d (narrow w (x * y / (2 ^ widthOf w : Nat)))) 1 ∧
     RunsTo s (.mulhn w d a b t u) th (th.setG d (narrow w ((X * Y / 2 ^ widthOf w : Nat) : Int))) 1) ∧
  (∀ (s : State) (th : Thread) (d a : Reg) (t : Bool) (i : BitVec 12) (k : BitVec 6) (j : BitVec 19),
     let v := th.gpr a
     let imm : Word := wd (ofInt 64 i.toInt)
     RunsTo s (.addImm d a t i) th (th.setG d (narrow false (v.toInt + i.toInt))) 1 ∧
     RunsTo s (.andImm d a t i) th (th.setG d (v &&& imm)) 1 ∧
     RunsTo s (.orImm d a t i) th (th.setG d (v ||| imm)) 1 ∧
     RunsTo s (.xorImm d a t i) th (th.setG d (v ^^^ imm)) 1 ∧
     RunsTo s (.shlImm d a t k) th (th.setG d (narrow false ((v.toNat * 2 ^ k.toNat : Nat) : Int))) 1 ∧
     RunsTo s (.shrImm d a t k) th (th.setG d (wd (v.toNat / 2 ^ k.toNat))) 1 ∧
     RunsTo s (.sraImm d a t k) th (th.setG d (narrow false (v.toInt / (2 ^ k.toNat : Nat)))) 1 ∧
     RunsTo s (.rotImm d a t k) th (th.setG d (narrow false ((v.toNat * 2 ^ k.toNat + v.toNat / 2 ^ (64 - k.toNat) : Nat) : Int))) 1 ∧
     RunsTo s (.li d j) th (th.setG d (narrow false j.toInt)) 1 ∧
     RunsTo s (.lic d j) th (th.setG d (narrow false (((th.gpr d).toNat * 2 ^ 19 + j.toNat : Nat) : Int))) 1)

/-- Quotients toward zero and remainders of the dividend's sign; all ones and the dividend for divisor 0 (R44, R227). -/
def Obligations.IntegerDivision : Prop :=
  ∀ (s : State) (th : Thread) (w : Bool) (d a b : Reg) (t u : Bool),
    let x := signedOf w (th.gpr a)
    let y := signedOf w (th.gpr b)
    let X := unsignedOf w (th.gpr a)
    let Y := unsignedOf w (th.gpr b)
    let lat := if w then 8 else 16
    RunsTo s (.div w d a b t u) th (th.setG d (narrow w (if y = 0 then -1 else x.tdiv y))) lat ∧
    RunsTo s (.rem w d a b t u) th (th.setG d (narrow w (if y = 0 then x else x.tmod y))) lat ∧
    RunsTo s (.divn w d a b t u) th (th.setG d (narrow w (if Y = 0 then -1 else ((X / Y : Nat) : Int)))) lat ∧
    RunsTo s (.remn w d a b t u) th (th.setG d (narrow w (((if Y = 0 then X else X % Y) : Nat) : Int))) lat

/-- Bitwise operations, shifts and rotation by the amount modulo the width (R227). The smaller and the larger, signed and
unsigned (R227). -/
def Obligations.IntegerLogic : Prop :=
  (∀ (s : State) (th : Thread) (w : Bool) (d a b : Reg) (t u : Bool),
     let v := th.gpr a
     let z := th.gpr b
     let x := signedOf w v
     let X := unsignedOf w v
     let N := widthOf w
     let k := z.toNat % N
     RunsTo s (.and w d a b t u) th (th.setG d (sext w (v &&& z))) 1 ∧
     RunsTo s (.or w d a b t u) th (th.setG d (sext w (v ||| z))) 1 ∧
     RunsTo s (.xor w d a b t u) th (th.setG d (sext w (v ^^^ z))) 1 ∧
     RunsTo s (.andn w d a b t u) th (th.setG d (sext w (v &&& ~~~ z))) 1 ∧
     RunsTo s (.orn w d a b t u) th (th.setG d (sext w (v ||| ~~~ z))) 1 ∧
     RunsTo s (.shl w d a b t u) th (th.setG d (narrow w ((X * 2 ^ k : Nat) : Int))) 1 ∧
     RunsTo s (.shr w d a b t u) th (th.setG d (narrow w ((X / 2 ^ k : Nat) : Int))) 1 ∧
     RunsTo s (.sra w d a b t u) th (th.setG d (narrow w (x / (2 ^ k : Nat)))) 1 ∧
     RunsTo s (.rot w d a b t u) th (th.setG d (narrow w ((X * 2 ^ k + X / 2 ^ (N - k) : Nat) : Int))) 1) ∧
  (∀ (s : State) (th : Thread) (w : Bool) (d a b : Reg) (t u : Bool),
     let x := signedOf w (th.gpr a)
     let y := signedOf w (th.gpr b)
     let X := unsignedOf w (th.gpr a)
     let Y := unsignedOf w (th.gpr b)
     RunsTo s (.min w d a b t u) th (th.setG d (narrow w (min x y))) 1 ∧
     RunsTo s (.max w d a b t u) th (th.setG d (narrow w (max x y))) 1 ∧
     RunsTo s (.minn w d a b t u) th (th.setG d (narrow w ((min X Y : Nat) : Int))) 1 ∧
     RunsTo s (.maxn w d a b t u) th (th.setG d (narrow w ((max X Y : Nat) : Int))) 1)

/-- Counts of bits, reversals and extensions (R227): the leading zeros n of X are those with X < 2^(N-n), and N for 0. Bit
fields of len = l + 1 bits at pos: `bfx` extracts, `bfi` replaces and leaves every other bit; a word with pos + len above
64 is no instruction (R229). -/
def Obligations.IntegerBits : Prop :=
  (∀ (s : State) (th : Thread) (w : Bool) (d a : Reg) (z : BitVec 2) (t : Bool),
     let X := unsignedOf w (th.gpr a)
     let N := widthOf w
     (∃ n, n ≤ N ∧ X < 2 ^ (N - n) ∧ (n = N ∨ 2 ^ (N - n - 1) ≤ X) ∧ RunsTo s (.clz w d a t) th (th.setG d (wd n)) 1) ∧
     (∃ n, n ≤ N ∧ X % 2 ^ n = 0 ∧ (n = N ∨ X / 2 ^ n % 2 = 1) ∧ RunsTo s (.ctz w d a t) th (th.setG d (wd n)) 1) ∧
     RunsTo s (.popc w d a t) th (th.setG d (wd ((List.range N).map (fun i => X / 2 ^ i % 2)).sum)) 1 ∧
     (∃ v, (∀ i < N, bit v i = bit (th.gpr a) (N - 1 - i)) ∧ v = sext w v ∧ RunsTo s (.brev w d a t) th (th.setG d v) 1) ∧
     (∃ v, (∀ k < N / 8, bits v (8 * k) 8 = bits (th.gpr a) (N - 8 - 8 * k) 8) ∧ v = sext w v ∧
       RunsTo s (.bswap w d a t) th (th.setG d v) 1) ∧
     RunsTo s (.sext d a z t) th (th.setG d (narrow false (toSigned (8 * 2 ^ z.toNat) (th.gpr a).toNat))) 1 ∧
     RunsTo s (.zext d a z t) th (th.setG d (wd ((th.gpr a).toNat % 2 ^ (8 * 2 ^ z.toNat)))) 1) ∧
  (∀ (d a : Reg) (t : Bool) (p l : BitVec 6),
     let word := fun (op : Nat) => riWord op d.toNat a.toNat t (p.toNat * 64 + l.toNat)
     (p.toNat + l.toNat + 1 ≤ 64 → decode (word 0x10) = .ok (.bfx d a t p l) ∧ decode (word 0x11) = .ok (.bfi d a t p l)) ∧
     (64 < p.toNat + l.toNat + 1 → decode (word 0x10) = .error .fields ∧ decode (word 0x11) = .error .fields)) ∧
  (∀ (s : State) (th : Thread) (d a : Reg) (t : Bool) (p l : BitVec 6), p.toNat + l.toNat + 1 ≤ 64 →
     RunsTo s (.bfx d a t p l) th (th.setG d (wd ((th.gpr a).toNat / 2 ^ p.toNat % 2 ^ (l.toNat + 1)))) 1 ∧
     ∃ v : Word, (∀ j < 64, bit v j = if p.toNat ≤ j ∧ j < p.toNat + l.toNat + 1 then bit (th.gpr a) (j - p.toNat) else bit (th.gpr d) j) ∧
       RunsTo s (.bfi d a t p l) th (th.setG d v) 1)

/-- Compares of 64 bits, of bits [31:0], and with an immediate write one predicate; p0 discards it (R66, R203, R231).
Predicate operations, and moves between predicates and registers (R66, R232). -/
def Obligations.ComparesAndPredicates : Prop :=
  (∀ (s : State) (th : Thread) (c p : BitVec 3) (a b : Reg) (t u : Bool) (i : BitVec 12), c.toNat ≤ 5 →
     let at' := fun (w : Bool) (r : Reg) => (signedOf w (th.gpr r), unsignedOf w (th.gpr r))
     RunsTo s (.cmp c p a b t u) th (th.setP p (condOf c (at' false a).1 (at' false b).1 (at' false a).2 (at' false b).2)) 1 ∧
     RunsTo s (.cmpW c p a b t u) th (th.setP p (condOf c (at' true a).1 (at' true b).1 (at' true a).2 (at' true b).2)) 1 ∧
     RunsTo s (.cmpi c p a t i) th (th.setP p (condOf c (at' false a).1 i.toInt (at' false a).2 (ofInt 64 i.toInt))) 1 ∧
     th.setP 0 (condOf c (at' false a).1 (at' false b).1 (at' false a).2 (at' false b).2) = th) ∧
  (∀ (c p : BitVec 3) (a b : Reg) (t u : Bool) (i : BitVec 12),
     let d := 8 * c.toNat + p.toNat
     let words := [rrWord 2 d a.toNat b.toNat t u 0, rrWord 2 d a.toNat b.toNat t u 1, riWord 6 d a.toNat t i.toNat]
     (c.toNat ≤ 5 → words.map decode = [.ok (.cmp c p a b t u), .ok (.cmpW c p a b t u), .ok (.cmpi c p a t i)]) ∧
     (5 < c.toNat → ∀ w ∈ words, decode w = .error .fields) ∧ decode 0x0C90A00A#32 = .ok (.cmpi 2 2 5 false 10)) ∧
  (∀ (s : State) (th : Thread) (d a b k : BitVec 3) (g h m : Reg) (t u : Bool),
     RunsTo s (.pand d a b) th (th.setP d (th.pred a && th.pred b)) 1 ∧
     RunsTo s (.por d a b) th (th.setP d (th.pred a || th.pred b)) 1 ∧
     RunsTo s (.pxor d a b) th (th.setP d (th.pred a ^^ th.pred b)) 1 ∧
     RunsTo s (.pnot d a) th (th.setP d (!th.pred a)) 1 ∧
     RunsTo s (.movpToPred d g t) th (th.setP d (decide ((th.gpr g).toNat ≠ 0))) 1 ∧
     RunsTo s (.movpToGpr g a) th (th.setG g (if th.pred a then 1 else 0)) 1 ∧
     RunsTo s (.sel g h m t u k) th (th.setG g (if th.pred k then th.gpr h else th.gpr m)) 1)

/-- Pointers: `addp` steps the 48-bit address and keeps bits [63:48], or traps canonical where the address would leave the
space; `setf`, `getf`, `settag`, `gettag` (R97, R233). `rtag` writes the pointer with a tag that the mask does not
exclude, 0 where it excludes all sixteen; one free value is drawn, and every tag the draw may give is covered (R236; the
draw is the model's free value, log entry 6). -/
def Obligations.Pointers : Prop :=
  (∀ (s : State) (th : Thread) (d a b : Reg) (t u : Bool) (i : BitVec 12),
     let P := (th.gpr a).toNat
     let step := fun (ins : Instr) (y : Int) =>
       let v := ((P % 2 ^ 48 : Nat) : Int) + y
       (0 ≤ v → v < (2 ^ 48 : Nat) → RunsTo s ins th (th.setG d (wd (P / 2 ^ 48 * 2 ^ 48 + v.toNat))) 1) ∧
       (v < 0 ∨ (2 ^ 48 : Nat) ≤ v → Answers s ins th (s.trap th ⟨5, 1, th.gpr a, 0⟩))
     step (.addp d a b t u) (th.gpr b).toInt ∧ step (.addpImm d a t i) i.toInt ∧
     RunsTo s (.setf d a b t u) th
       (th.setG d (wd (P / 2 ^ 56 * 2 ^ 56 + (th.gpr b).toNat % 256 * 2 ^ 48 + P % 2 ^ 48))) 1 ∧
     RunsTo s (.getf d a t) th (th.setG d (wd (P / 2 ^ 48 % 256))) 1 ∧
     RunsTo s (.settag d a b t u) th
       (th.setG d (wd (P / 2 ^ 60 * 2 ^ 60 + (th.gpr b).toNat % 16 * 2 ^ 56 + P % 2 ^ 56))) 1 ∧
     RunsTo s (.gettag d a t) th (th.setG d (wd (P / 2 ^ 56 % 16))) 1) ∧
  (∀ (s : State) (th : Thread) (d a b : Reg) (t u : Bool), CanIssue s (.rtag d a b t u) th →
     ∃ g, g < 16 ∧ ((∃ k < 16, bit (th.gpr b) k = false) → bit (th.gpr b) g = false) ∧
       ((∀ k < 16, bit (th.gpr b) k = true) → g = 0) ∧
       exec (.rtag d a b t u) s = .next { ended s (th.setG d (setBits (th.gpr a) 56 4 g)) 1 with draws := s.draws + 1 })

/-- A write of a general register makes it full and logs it, and changes no other register; g0 reads 0 and discards the
write (R14, R63, R64, R86). The frame of every instruction that only computes, whatever its form and operands: it stalls and
leaves its thread as it was, or traps, or completes with its destination register or predicate, the operand log and raised
float flags as all that has changed before its thread goes on; no other thread, no byte of memory, no core, partition,
launch or group changes in either outcome but the trap, whose frame is TrapEntersHandler's (R52, R197, R253). A draw of `rtag` is counted in
the model's own field (log entry 6). -/
def Obligations.ComputeFrame : Prop :=
  (∀ (t : Thread) (r q : Reg) (v : Word),
     (t.setG r v).gpr q = (if q = 0 then 0 else if q = r then v else t.gpr q) ∧
     (t.setG r v).regState q = (if q = r ∧ q ≠ 0 then .full else t.regState q) ∧
     (r ≠ 0 → (t.setG r v).oplog.getLast? = some (r, v)) ∧ (t.oplog.length ≤ 16 → (t.setG r v).oplog.length ≤ 16) ∧
     t.setG 0 v = t) ∧
  (∀ (s : State) (th : Thread) (ins : Instr), ins.computes = true → s.thread s.cur = some th →
     exec ins s = .next (s.put { th with rep := none }) ∨
     (∃ r f a, f < 32 ∧ (ins.raises = false → f = 0 ∧ a = th.issueAt) ∧ exec ins s = .next (s.trap { th with fcsr := th.fcsr ||| wd f, issueAt := a } r)) ∨
     ∃ u lat n, Computed ins th u ∧ (n = s.draws ∨ ∃ d a b t w, ins = .rtag d a b t w) ∧
       exec ins s = .next { ended s u lat with draws := n })
/-! ## Control (R219 to R221, R237 to R245, R249, R250) -/

/-- `bp` branches to pc + 4 x off when pred XOR neg is 1, and traps canonical where the target leaves the space; `jb` and
`jbp` go to a valid branch-target register and trap illegal through an invalid one; `pbr` and `pbt` prepare one (R67, R237 to R239). -/
def Obligations.Branches : Prop :=
  ∀ (s : State) (th : Thread) (p j k : BitVec 3) (n : Bool) (o : BitVec 21) (i : BitVec 19) (a : Reg) (t : Bool),
    let V := (th.pc.toNat : Int) + o.toInt * 4
    let W := (th.pc.toNat : Int) + i.toInt * 4
    let inside := fun (v : Int) => 0 ≤ v ∧ v < (2 ^ 48 : Nat)
    let goes := fun (ins : Instr) (v : Nat) (lat : Nat) => Answers s ins th (s.put { th.advance s.time lat with pc := BitVec.ofNat 48 v })
    let past := fun (ins : Instr) => Answers s ins th (s.put (th.advance s.time 1))
    let prepares := fun (ins : Instr) (v : Nat) =>
      RunsTo s ins th { th with b := th.b.set k.toNat (wd (2 ^ 63 + v)) } 1
    let B := th.b[k.toNat]
    (th.pred p = n → past (.bp p n o)) ∧
    (th.pred p ≠ n → inside V → goes (.bp p n o) V.toNat 3) ∧
    (th.pred p ≠ n → ¬ inside V → Answers s (.bp p n o) th (s.trap th ⟨5, 0, 0x10, 0⟩)) ∧
    (bit B 63 = true → goes (.jb k) (B.toNat / 4 % 2 ^ 46 * 4) 1) ∧
    (bit B 63 = false → Answers s (.jb k) th (s.trap th ⟨1, 0, wd (0x200 + k.toNat), 0⟩)) ∧
    (bit B 63 = true → th.pred j ≠ n → goes (.jbp n j k) (B.toNat / 4 % 2 ^ 46 * 4) 1) ∧
    (bit B 63 = true → th.pred j = n → past (.jbp n j k)) ∧
    (bit B 63 = false → Answers s (.jbp n j k) th (s.trap th ⟨1, 0, wd (0x200 + k.toNat), 0⟩)) ∧
    (th.pc.toNat % 4 = 0 → inside W → prepares (.pbr k i) W.toNat) ∧
    (¬ inside W → Answers s (.pbr k i) th (s.trap th ⟨5, 0, 0x10, 0⟩)) ∧
    ((th.gpr a).toNat % 4 = 0 → (th.gpr a).toNat < 2 ^ 48 → prepares (.pbt k a t) (th.gpr a).toNat) ∧
    ((th.gpr a).toNat % 4 ≠ 0 → Answers s (.pbt k a t) th (s.trap th ⟨4, 0, 4, th.gpr a⟩)) ∧
    ((th.gpr a).toNat % 4 = 0 → 2 ^ 48 ≤ (th.gpr a).toNat →
      Answers s (.pbt k a t) th (s.trap th ⟨5, 0, wd ((th.gpr a).toNat / 2 ^ 48), 0⟩))

/-- `call` and `callb` lower csp by 8, put the return address pc + 4 where the thread's own reads find it, go to the
target, and leave memory as it is; a full stack traps first, then an invalid register or a target out of range (R74,
R240). `ret` reads the return address at csp, raises csp by 8 and goes there; an empty stack traps, an address that is no
code address traps canonical or align (R74, R241). It reads as a load made at once does: after an earlier load of the same bytes, and any
candidate the cycle's pick names where it may be taken (R176, R180). -/
def Obligations.CallsAndReturns : Prop :=
  (∀ (s : State) (th : Thread) (o : BitVec 21) (k : BitVec 3),
     let V := (th.pc.toNat : Int) + o.toInt * 4
     let inside := 0 ≤ V ∧ V < (2 ^ 48 : Nat)
     let room := th.stackFloor + 8 ≤ th.csp
     let B := th.b[k.toNat]
     let calls := fun (ins : Instr) (v : Nat) => CanIssue s ins th → (∀ e ∈ th.nt, e.id < s.fresh) →
       ∃ s' u, exec ins s = .next s' ∧ s'.thread s.cur = some u ∧ u.pc = BitVec.ofNat 48 v ∧ u.csp = th.csp - 8 ∧
         u.stackFloor = th.stackFloor ∧ u.alcSize = th.alcSize ∧ s'.mem = s.mem ∧ u.g = th.g ∧ u.gs = th.gs ∧
         ∀ (i : Nat) (below : Byte), i < 8 → u.forward (dynBase th.alcBank + (th.csp - 8) + i) below = (toBytes 8 (th.pc.toNat + 4)).getD i 0
     (room → inside → calls (.call o) V.toNat) ∧
     (¬ room → Answers s (.call o) th (s.trap th ⟨10, 0, 1, wd th.csp⟩)) ∧
     (room → ¬ inside → Answers s (.call o) th (s.trap th ⟨5, 0, 0x10, 0⟩)) ∧
     (room → bit B 63 = true → calls (.callb k) (B.toNat / 4 % 2 ^ 46 * 4)) ∧
     (¬ room → Answers s (.callb k) th (s.trap th ⟨10, 0, 1, wd th.csp⟩)) ∧
     (room → bit B 63 = false → Answers s (.callb k) th (s.trap th ⟨1, 0, wd (0x200 + k.toNat), 0⟩))) ∧
  (∀ (s : State) (th : Thread), CanIssue s .ret th →
     let xs := th.slotBytes th.csp
     (th.csp = th.alcSize → exec .ret s = .next (s.trap th ⟨10, 0, 2, wd th.csp⟩)) ∧
     (th.csp ≠ th.alcSize → (∀ x ∈ xs, s.poisoned (s.resolve (.thread s.cur) x) = false) →
       readsEarly s s.cur th xs = false → ∀ s1 t1 bs, issueRead s s.cur th xs = some (s1, t1, bs) →
         let ra := ofBytes bs % 2 ^ 64
         (2 ^ 48 ≤ ra → exec .ret s = .next (s1.trap th ⟨5, 0, wd (ra / 2 ^ 48), 0⟩)) ∧
         (ra < 2 ^ 48 → ra % 4 ≠ 0 → exec .ret s = .next (s1.trap th ⟨4, 0, 4, wd ra⟩)) ∧
         (ra < 2 ^ 48 → ra % 4 = 0 → exec .ret s =
           .next (s1.put { ({ t1 with alcove := setBits th.alcove 0 16 (th.csp + 8) } : Thread).advance s.time 3 with pc := BitVec.ofNat 48 ra }))))

/-- `nop` and `ifence` only go on; `rejoin` lingers for at most n cycles; `quit` and, under a pending pre-emption request,
`yield` wait for their drains (R28, R242 to R245, R286). `trap` and `ecall` take the break trap, subcause 0 or 1, with
their code in `s.info` (R249). -/
def Obligations.PausesAndTraps : Prop :=
  (∀ (s : State) (th : Thread) (n : BitVec 8),
     RunsTo s .nop th th 1 ∧ RunsTo s .ifence th th 1 ∧
     (n.toNat = 0 → RunsTo s (.rejoin n) th th 1) ∧
     (n.toNat ≠ 0 → Answers s (.rejoin n) th (s.put { th.advance s.time 1 with linger := some (s.time + wd n.toNat) })) ∧
     (requestPending s th = false → RunsTo s .yield th th 1) ∧
     (requestPending s th = true → Answers s .yield th (s.put { th with yielding := true })) ∧
     (th.gang = none → Answers s .quit th (s.put { th with quitting := true })) ∧
     (∀ g, th.gang = some g → Answers s .quit th
       (leaveGang (breakGang (s.put { th with quitting := true }) s.cur { th with quitting := true }) s.cur { th with quitting := true } false))) ∧
  (∀ (s : State) (th : Thread) (c : BitVec 12),
     Answers s (.trap c) th (takeTrap s s.cur th ⟨13, 0, wd c.toNat, 0⟩) ∧
     Answers s (.ecall c) th (takeTrap s s.cur th ⟨13, 1, wd c.toNat, 0⟩))

/-- `rpt`: a body that may not be repeated traps; while repetitions are left, the repetition is the next instruction of the
same issue; with none left the prefix ends past its body (R219 to R221). A body may not be repeated that is a BR-format word, `pbr`, a
CTRL word, an `rpt`, a SUP word, `muster`, `disband`, `bar` or `barc`, or no instruction; one with a step on a field that names none of
its general registers; one with a repetition that is no instruction or steps a register number out of 0 to 63, a wait's or a `cas`'s
d field with the register above it (R220). A computing body with its fields in range may. -/
def Obligations.Repeats : Prop :=
  (∀ (s s1 : State) (th : Thread) (c : BitVec 6) (d a b : BitVec 2) (w : Code), CanIssue s (.rpt c d a b) th →
     fetchCode s s.cur th (th.pc + 4).toNat = (s1, .ok w) →
     (bodyOk w (c.toNat + 1) d a b = false → exec (.rpt c d a b) s = .next (s1.trap th ⟨1, 2, wd s1.ir.toNat, 0⟩)) ∧
     (bodyOk w (c.toNat + 1) d a b = true → bits th.pix 0 16 < c.toNat + 1 →
       exec (.rpt c d a b) s = .next { s1.put { th with rep := some (c.toNat + 1) } with issue := s1.cur :: s1.issue }) ∧
     (bodyOk w (c.toNat + 1) d a b = true → c.toNat + 1 ≤ bits th.pix 0 16 →
       exec (.rpt c d a b) s = .next (s1.put (({ th with rep := some (c.toNat + 1) } : Thread).advance s1.time 1)))) ∧
  (∀ (s s1 : State) (th : Thread) (c : BitVec 6) (d a b : BitVec 2) (r : TrapReq), CanIssue s (.rpt c d a b) th →
     fetchCode s s.cur th (th.pc + 4).toNat = (s1, .error r) → exec (.rpt c d a b) s = .next (s1.trap th r)) ∧
  (∀ (w : Code) (n : Nat) (d a b : BitVec 2),
     let step := fun (x : BitVec 2) => if x = 3 then (-1 : Int) else (x.toNat : Int)
     let field := fun (lo : Nat) (x : BitVec 2) (k : Nat) => (bits w lo 6 : Int) + (k : Int) * step x
     let inside := fun (z : Int) => 0 ≤ z ∧ z ≤ 63
     (bits w 25 7 ∈ [0x18, 0x19, 0x1A, 0x1B, 0x1D, 0x3D] → bodyOk w n d a b = false) ∧
     (∀ g t, decode w ∈ [.ok (.muster g), .ok .disband, .ok .bar, .ok (.barc g t)] → bodyOk w n d a b = false) ∧
     (bodyOk w n d a b = true → ∃ i, decode w = .ok i ∧
       (∀ e ∈ [(19, d), (13, a), (7, b)], e.2 ≠ 0 → ∃ r ∈ i.srcs.map (·.1) ++ i.dst.toList, r.toNat = bits w e.1 6) ∧
       ∀ k < n, inside (field 19 d k) ∧ inside (field 13 a k) ∧ inside (field 7 b k) ∧
         (d ≠ 0 → i.isWait = true ∨ (∃ p x y z t f, i = .cas p x y z t f) → field 19 d k + 1 ≤ 63) ∧
         ∃ v j, decode v = .ok j ∧ bits v 25 7 = bits w 25 7 ∧ (bits v 19 6 : Int) = field 19 d k ∧ (bits v 13 6 : Int) = field 13 a k ∧
           (bits v 7 6 : Int) = field 7 b k ∧ bits v 0 7 = bits w 0 7) ∧
     (∀ x y z, w = rrWord 1 x y z false false 0 → x < 64 → y < 64 → z < 64 →
       (∀ k < n, inside (field 19 d k) ∧ inside (field 13 a k) ∧ inside (field 7 b k)) → bodyOk w n d a b = true))

/-! ## Traps (R77, R82 to R85, R217, R250) -/

/-- Where an encoded instruction cannot take its effect at its issue: a supervisor-only one at user level takes the privilege trap
with its word; the first of its sources that is not full, else its destination, decides: a register owed to a marked entry gives
the mark's trap; an empty-unowed source, and an owed source whose trap bit is set, the empty trap; any other owed register stalls
(R64, R104, R217, R222). That the sources are looked at in the order a, b, d is log entry 64. A privileged
instruction runs at supervisor level only: every member of the supervisor group at user level takes the privilege trap and
has no other effect (R217). -/
def Obligations.IssueTraps : Prop :=
  (∀ (s : State) (th : Thread) (i : Instr) (w : Code), encode i = some w → s.thread s.cur = some th → th.blocked s.time = false →
     (i.supervisorOnly = true → th.super = false → exec i s = .next (s.trap th ⟨2, 0, wd s.ir.toNat, 0⟩)) ∧
     ((i.supervisorOnly = true → th.super = true) →
       (∀ before r bang after, i.srcs = before ++ (r, bang) :: after → (∀ p ∈ before, th.regState p.1 = .full) →
         (th.regState r = .unowed → exec i s = .next (s.trap th ⟨3, 0, wd r.toNat, 0⟩)) ∧
         (∀ e m, th.regState r = .owed → th.ower r = some e → e.mark = some m → exec i s = .next (s.trap th m)) ∧
         (∀ e, th.regState r = .owed → th.ower r = some e → e.mark = none → bang = true → exec i s = .next (s.trap th ⟨3, 0, wd r.toNat, 0⟩)) ∧
         (∀ e, th.regState r = .owed → th.ower r = some e → e.mark = none → bang = false → exec i s = .next (s.put { th with rep := none }))) ∧
       (∀ d e, (∀ p ∈ i.srcs, th.regState p.1 = .full) → i.dst = some d → th.regState d = .owed → th.ower d = some e →
         (∀ m, e.mark = some m → exec i s = .next (s.trap th m)) ∧ (e.mark = none → exec i s = .next (s.put { th with rep := none }))))) ∧
  (∀ (s : State) (th : Thread) (d a b : Reg) (t u : Bool) (i : Instr),
     i ∈ [.tret, .unpark d a t, .kill a t, .reclaim a b t u, .cinvT a b t u, .lsub d a t, .lprq d a t, .stop d a t, .lres d a t] →
     s.thread s.cur = some th → th.blocked s.time = false → th.super = false →
     exec i s = .next (takeTrap s s.cur th ⟨2, 0, wd s.ir.toNat, 0⟩))

/-- TAKING A TRAP where a handler is reachable: the thread goes on at `s.tvec` at supervisor level in a trap, with cause,
information and address in their registers, its replay queue empty, registers owed to its entries empty-unowed and every
other register as it was; it waits for its trap record, and issues nothing more in this cycle nor before the cycle its trapping
instruction set for its next issue (R20, R77, R82, R252). -/
def Obligations.TrapEntersHandler : Prop :=
  ∀ (s : State) (loc : Nat) (t : Thread) (r : TrapReq) (pa : Nat), HandlerReachable s loc t pa →
    ∃ u, (takeTrap s loc t r).thread loc = some u ∧ u.pc = BitVec.ofNat 48 (s.core (coreOf loc)).tvec.toNat ∧
      bits u.status 0 4 = 5 ∧ bits u.status 4 60 = bits t.status 4 60 ∧
      u.cause = wd (r.sub * 256 + r.cause) ∧ u.info = r.info ∧ u.faddr = r.faddr ∧ u.replay = [] ∧ u.recordOwed = true ∧
      u.issueAt = (if t.issueAt.toNat ≤ s.time.toNat then s.time + 1 else t.issueAt) ∧ (∀ q, u.gpr q = t.gpr q) ∧ u.regState 0 = .full ∧
      (∀ q, q ≠ 0 → u.regState q = if t.regState q = .owed then .unowed else t.regState q) ∧
      u.p = t.p ∧ u.b = t.b ∧ u.d = t.d ∧ u.e = t.e ∧ u.fcsr = t.fcsr ∧ u.alcove = t.alcove ∧ u.pix = t.pix ∧ u.tfp = t.tfp ∧
      u.save0 = t.save0 ∧ u.save1 = t.save1

/-- The frame of a trap stands in memory, 512 bytes at `s.tfp`, and no other byte has changed (R82, R83). -/
def Obligations.TrapStoresFrame : Prop :=
  ∀ (s : State) (loc : Nat) (t : Thread) (r : TrapReq) (pa : Nat), memoryCanonical s → HandlerReachable s loc t pa →
    let s' := takeTrap s loc t r
    (∀ k < 512, memGet s'.mem (pa + k) = (frameBytes loc t r).getD k 0) ∧
    (∀ x, x < pa ∨ pa + 512 ≤ x → memGet s'.mem x = memGet s.mem x)

/-- What a frame holds: the pc, the status as the trapped instruction's issue left it, cause, information, address, locator
and launch, group, `s.pix`, the empty mask, the number of entries, then each entry's word, destination and state, address,
sources, and its value where it is done (R83, R215). That the trapped instruction's issue has cleared watch_skip is log entry 58. -/
def Obligations.FrameHolds : Prop :=
  ∀ (loc : Nat) (t : Thread) (r : TrapReq), t.replay.length ≤ 8 → loc < 2 ^ 17 → r.cause < 256 → r.sub < 256 →
    let f := frameBytes loc t r
    let w := fun (o : Nat) => (frameWord f o).toNat
    f.length = 512 ∧ w 0 = t.pc.toNat ∧ (frameWord f 8) = setBits t.status 3 1 0 ∧ w 16 = r.cause + 256 * r.sub ∧ frameWord f 24 = r.info ∧
    frameWord f 32 = r.faddr ∧ w 40 = loc + bits t.launch 48 16 * 2 ^ 32 ∧ frameWord f 48 = t.gid ∧ frameWord f 56 = t.pix ∧
    (∀ n : Reg, bit (frameWord f 64) n.toNat = decide (n ≠ 0 ∧ t.regState n ≠ .full)) ∧ w 72 = t.replay.length ∧
    (∀ o, 80 ≤ o → o < 128 → f.getD o 0 = 0) ∧ (∀ o, 128 + 48 * t.replay.length ≤ o → f.getD o 0 = 0) ∧
    ∀ (k : Nat) (h : k < t.replay.length),
      let e := t.replay[k]
      let b := 128 + 48 * k
      w b = e.word.toNat + e.dst.toNat * 2 ^ 32 + e.state.code * 2 ^ 38 ∧ frameWord f (b + 8) = e.addr ∧ frameWord f (b + 16) = e.src1 ∧
      frameWord f (b + 24) = e.src2 ∧ frameWord f (b + 32) = (if e.state = .done then e.value else e.src3) ∧ w (b + 40) = 0

/-- A trap inside a handler, one with no vector, and one whose frame cannot be written hold the thread until `kill`: no
register but the hold changes, and a record of kind 2, 3 or 8 with its cause awaits its append. A frame cannot be written whose
address is not canonical, whose page is absent, refuses the store or lies outside the partition's ranges, or that meets a poisoned line, where
the stores of the units before that line stay (R85, R103). A held member breaks its gang: the members stalled in a gang instruction take the engine
trap, gang broken (R38). A trap waits (for an atomic, `spawn` or `taga` in transit, R82; for its frame's stores to be next,
R136, R179; for a message about a line of the tables that the frame's pages are walked by, R111, log entry 16), and TRAP_ENTRY takes it once
it need not (the second look at `s.tvec` is log entry 64). -/
def Obligations.TrapHolds : Prop :=
  (∀ (s : State) (loc : Nat) (t : Thread) (r : TrapReq) (kind : Nat),
     let held : Thread := { t with held := some kind, trapReq := none, rep := none, gangCmd := none, check := none, guard := none }
     let record : Append :=
       ⟨t.part, 0, none, wd (kind + r.cause * 2 ^ 8 + r.sub * 2 ^ 16 + loc * 2 ^ 24 + bits t.launch 48 16 * 2 ^ 48), wd t.pc.toNat, r.info, none, false, false, t.front⟩
     let va := bits t.tfp 0 48
     let check := checkGlobal s (dieOf loc) t.part t.asid true .store (some 0) va 512 (t.view s loc)
     (((kind = 2 ∧ t.inTrap = true) ∨
       (kind = 3 ∧ t.inTrap = false ∧ (s.core (coreOf loc)).tvec = 0) ∨
       (kind = 8 ∧ t.inTrap = false ∧ (s.core (coreOf loc)).tvec ≠ 0 ∧ trapWaits s loc t = false ∧
         (bits t.tfp 60 4 ≠ 0 ∨ 2 ^ 48 < va + 512 ∨ ∀ xs as, check ≠ .ok xs as))) →
       (takeTrap s loc t r).thread loc = some held ∧ (takeTrap s loc t r).appends = s.appends ++ [record] ∧ (takeTrap s loc t r).mem = s.mem ∧
       (∀ n g, t.gang = some n → s.gangOf (rowOf loc) n = some g → g.broken = none → g.left.length < 4 →
         (takeTrap s loc t r).gangOf (rowOf loc) n = some { g with broken := some loc } ∧
         ∀ m ∈ g.members, m ≠ loc → ∀ u, s.thread m = some u → u.gangCmd.isSome = true →
           (takeTrap s loc t r).thread m = some { u with gangCmd := none, trapReq := some ⟨12, 1, wd loc, 0⟩ })) ∧
     (kind = 8 → t.inTrap = false → (s.core (coreOf loc)).tvec ≠ 0 → trapWaits s loc t = false → bits t.tfp 60 4 = 0 → va + 512 ≤ 2 ^ 48 →
       ∀ xs as, check = .ok xs as → (∃ x ∈ xs, s.poisoned (s.resolve (.thread loc) x) = true) →
         (∃ F O l, (takeTrap s loc t r).thread loc = some { held with front := F, obs := O } ∧
           (takeTrap s loc t r).appends = s.appends ++ l ++ [{ record with front := F }]) ∧
         (∀ y, (∀ x ∈ xs, y ≠ s.resolve (.thread loc) x) → memGet (takeTrap s loc t r).mem y = memGet s.mem y) ∧
         let t1 := t.sawTags s loc xs as
         let s1 := touch (fillTlbs s (dieOf loc) t.part t.asid va 512) (dieOf loc) t.asid va xs as true
         let stops := fun (u : List (Nat × Byte × Byte) × Option Nat) =>
           u.1.any (fun c => s1.poisoned (s1.resolve (.thread loc) c.1) || (u.2.isSome && lineRefused s1 (dieOf loc) (c.1 / 64)))
         ∀ before u after, frameWrites loc t1 r (xs, as) = before ++ u :: after → (∀ v ∈ before, stops v = false) → stops u = true →
           (takeTrap s loc t r).mem = (writeUnits s1 loc t1 t1.front before).1.mem)) ∧
  (∀ (s : State) (loc : Nat) (t : Thread) (r : TrapReq),
     (t.inTrap = false → (s.core (coreOf loc)).tvec ≠ 0 →
       (t.replay.any (·.inTransit) = true → trapWaits s loc t = true) ∧
       (t.replay.any (·.inTransit) = false → (bits t.tfp 60 4 ≠ 0 ∨ 2 ^ 48 < bits t.tfp 0 48 + 512) → trapWaits s loc t = false) ∧
       (bits t.tfp 60 4 = 0 → bits t.tfp 0 48 + 512 ≤ 2 ^ 48 → walkWaits s (dieOf loc) t.part t.asid (bits t.tfp 0 48) 512 = true →
         trapWaits s loc t = true)) ∧
     (trapWaits s loc t = true → takeTrap s loc t r = s.setThread loc { t with trapReq := some r, check := none, guard := none }) ∧
     (trapWaits s loc t = false → takeTrap s loc t r = trapNow s loc t r) ∧
     (s.thread loc = some t → t.trapReq = some r → (t.inTrap = true ∨ trapWaits s loc t = false) →
       exec (.trapEntry ⟨loc, []⟩) s = .next (trapNow s loc { t with trapReq := none } r)))

/-- A frame's read: the bytes of the offsets that the thread's own stores do not supply come by its read move once their lines
have come, and the first that is poisoned gives the poison trap with its line (R84, R382; that the first byte decides the line is log entry 27,
and that the lines come in the instruction's own move, which waits while a message about one of them or of the tables' is under way, log entry
16). The reads that miss L1 are counted (R172). `tret` waits for an empty replay queue, reads the head and then the entries its count names, and checks them in order: a saved priv
of 2 or 3 gives 0x380, a count above 8 gives 0x308, the first bad entry k gives 0x300 + k, each as the illegal trap's `s.info`;
a frame that passes resumes the thread (R84, R250), which waits for SB(t) to drain where the frame re-issues a `spawn` (R187). That a
read which fails is a trap of `tret` is log entry 19. -/
def Obligations.TrapReturn : Prop :=
  (∀ (s : State) (loc : Nat) (t : Thread) (addr : Nat) (xs offs : List Nat) (as : List Attrs) (f : List Byte),
     let at' := fun (o : Nat) => xs.getD o 0
     let lo := offs.headD 0
     let ys := (xs.drop lo).take (offs.getLastD lo + 1 - lo)
     let bs := (as.drop lo).take (offs.getLastD lo + 1 - lo)
     let s1 := touch s (dieOf loc) t.asid (addr + lo) ys bs false
     let bad := fun (o : Nat) => t.forwards (at' o) = false ∧ s1.poisoned (s1.resolve (.thread loc) (at' o)) = true
     (touchBusy s (dieOf loc) ys bs false = true → readFrame s loc t addr xs as offs f = .ok none) ∧
     (touchBusy s (dieOf loc) ys bs false = false →
       (∀ before o after, offs = before ++ o :: after → (∀ q ∈ before, ¬ bad q) → bad o →
         readFrame s loc t addr xs as offs f = .error ⟨11, 0, 1, wd ((addr + o) / 64 * 64)⟩) ∧
       ((∀ o ∈ offs, ¬ bad o ∧ lineRefused s1 (dieOf loc) (at' o / 64) = false) → offs.Nodup → (∀ o ∈ offs, o < f.length) →
         ∀ s2 t2 vs, issueRead s1 loc t (offs.map at') = some (s2, t2, vs) →
           ∃ g, readFrame s loc t addr xs as offs f = .ok (some (s2, t2, g)) ∧ g.length = f.length ∧
             (∀ j < offs.length, g.getD (offs.getD j 0) 0 = vs.getD j 0) ∧ (∀ o, o ∉ offs → g.getD o 0 = f.getD o 0)))) ∧
  (∀ (s : State) (th : Thread), CanIssue s .tret th → th.replay ≠ [] → exec .tret s = .next (s.put { th with rep := none })) ∧
  (∀ (s0 : State) (th0 : Thread) (xs : List Nat) (as : List Attrs), CanIssue s0 .tret th0 → th0.replay = [] →
     bits th0.tfp 60 4 = 0 → bits th0.tfp 0 48 + 512 ≤ 2 ^ 48 →
     let addr := bits th0.tfp 0 48
     (walkWaits s0 (dieOf s0.cur) th0.part th0.asid addr 512 = true → exec .tret s0 = .next (s0.put { th0 with rep := none })) ∧
     (walkWaits s0 (dieOf s0.cur) th0.part th0.asid addr 512 = false →
     let s := fillTlbs s0 (dieOf s0.cur) th0.part th0.asid addr 512
     let th := th0.sawTags s s.cur xs as
     checkGlobal s (dieOf s.cur) th0.part th0.asid true .load (some 0) addr 512 (th0.view s s.cur) = .ok xs as →
     let first := span 0 16 ++ span 56 8 ++ span 72 8
     let head := readFrame s s.cur th addr xs as first (List.replicate 512 0)
     let counted := fun (offs : List Nat) (ends : Option Nat) (s' : State) => s'.count (coreOf s.cur) 9 (frameMisses s s.cur th addr offs ends)
     (∀ r, head = .error r → exec .tret s0 = .next ((counted first (some r.faddr.toNat) s).trap th r)) ∧
     (head = .ok none → exec .tret s0 = .next (s.put { th with rep := none })) ∧
     (∀ h, head = .ok (some h) →
       let priv := bits (frameWord h.2.2 8) 0 2
       let n := bits (frameWord h.2.2 72) 0 4
       let body := readFrame h.1 s.cur h.2.1 addr xs as (span 128 (48 * n)) h.2.2
       let all := first ++ span 128 (48 * n)
       (2 ≤ priv → exec .tret s0 = .next ((counted first none h.1).trap h.2.1 ⟨1, 0, 0x380, 0⟩)) ∧
       (priv < 2 → 8 < n → exec .tret s0 = .next ((counted first none h.1).trap h.2.1 ⟨1, 0, 0x308, 0⟩)) ∧
       (priv < 2 → n ≤ 8 → ∀ r, body = .error r → exec .tret s0 = .next ((counted all (some r.faddr.toNat) h.1).trap h.2.1 r)) ∧
       (priv < 2 → n ≤ 8 → body = .ok none → exec .tret s0 = .next (s.put { th with rep := none })) ∧
       (priv < 2 → n ≤ 8 → ∀ r, body = .ok (some r) →
         let f := r.2.2
         let word := fun (k : Nat) => frameWord f (128 + 48 * k)
         let good := fun (k : Nat) => bits (word k) 40 24 = 0 ∧ frameWord f (128 + 48 * k + 40) = 0 ∧
           ∃ i d, decode (BitVec.ofNat 32 (word k).toNat) = .ok i ∧ i.isProducer = true ∧ i.dst = some d ∧ d.toNat = bits (word k) 32 6
         (∀ k < n, (∀ j < k, good j) → ¬ good k → exec .tret s0 = .next ((counted all none r.1).trap r.2.1 ⟨1, 0, wd (0x300 + k), 0⟩)) ∧
         ((∀ k < n, good k) →
           exec .tret s0 = if frameSpawns f && !th.sb.isEmpty then .next (s.put { th with rep := none })
             else .next (resume (counted all none r.1) s.cur r.2.1 f))))))

/-- Resuming from the frame of a trap gives back what the frame saved: the privilege and trap bits, `s.pix`, the pc, and of
each entry its destination full with its value where it was done, else owed to an entry issued again (R65, R81, R84, R191; its checks
and the descriptor of an `ldb` issued again are log entry 20). A `spawn` reads g1 to g4 again (R246): it is sent where they are
full and its handler and target pass, waits where one of them is owed, and is marked where a check fails; an access that misses on a page
whose walk has failed and is outstanding shares its outcome (R105, R146). -/
def Obligations.ResumeRestores : Prop :=
  ∀ (s : State) (loc : Nat) (t u : Thread) (r : TrapReq), t.replay.length ≤ 8 → u.replay = [] → t.pc.toNat % 4 = 0 →
    ((t.replay.map (·.dst)).filter (· != 0)).Nodup →
    ∃ v, (resume s loc u (frameBytes loc t r)).thread loc = some v ∧ v.pc = t.pc ∧ bits v.status 0 3 = bits t.status 0 3 ∧
      bits v.pix 0 32 = bits t.pix 0 32 ∧ v.issueAt = s.time + 12 ∧
      (∀ e ∈ t.replay, e.state = .done → e.dst ≠ 0 → v.gpr e.dst = e.value ∧ v.regState e.dst = .full) ∧
      (∀ e ∈ t.replay, e.state ≠ .done → (e.dst ≠ 0 → v.regState e.dst = .owed) ∧
        ∃ f ∈ v.replay, f.word = e.word ∧ f.dst = e.dst ∧ f.src1 = e.src1 ∧ f.src2 = e.src2 ∧ f.src3 = e.src3 ∧
          ((∀ i, decode e.word = .ok i → i.isSpawn = false) → f.state = .pending ∧ (f.flight = .waiting ∨ f.flight = .faulting ∨ f.flight = .poisoning)) ∧
          (∀ i, decode e.word = .ok i → i.isSpawn = true →
            (f.state = .pending ∧ f.mark = none ∧ (f.flight = .waiting ∨ f.flight = .sent) ∨ f.state = .poisoned ∧ f.mark.isSome = true) ∧
            (spawnTrap s u e.src1 e.src2 (match i with | .spawnCl .. => true | _ => false) = none →
              (∀ k < 4, u.regState (BitVec.ofNat 6 (k + 1)) = .full ∧ BitVec.ofNat 6 (k + 1) ∉ t.replay.map (·.dst)) →
              f.state = .pending ∧ f.flight = .sent))) ∧
      (∀ q, q ≠ 0 → q ∉ t.replay.map (·.dst) → v.gpr q = u.gpr q ∧ v.regState q = u.regState q) ∧
      (resume s loc u (frameBytes loc t r)).mem = s.mem
/-! ## Floating point (R45 to R57, R251 to R263) -/

/-- Scalar sums, products, quotients and fused forms: one rounding of the exact result in the effective mode, flags ORed
into `s.fcsr` and delivered (R52, R253 to R255). -/
def Obligations.FloatArithmetic : Prop :=
  ∀ (s : State) (th : Thread) (d a b : Reg) (t u : Bool) (w : BitVec 2) (m : BitVec 3),
    let f := fmtOfWidth w
    let x := th.fval f a
    let y := th.fval f b
    let z := th.fval f d
    let into := fun (p : Nat) (v : Thread) => v.setG d (wd p)
    let l := if w = 0 then 6 else 4
    RoundsTo s (.fadd d a b t u w m) th m (fun k => f.add k x y) into l ∧
    RoundsTo s (.fsub d a b t u w m) th m (fun k => f.add k x y.neg) into l ∧
    RoundsTo s (.fmul d a b t u w m) th m (fun k => f.mul k x y) into l ∧
    RoundsTo s (.fdiv d a b t u w m) th m (fun k => f.div k x y) into (if w = 0 then 28 else if w = 1 then 14 else 10) ∧
    RoundsTo s (.fma d a b t u w m) th m (fun k => f.fma k false false x y z) into l ∧
    RoundsTo s (.fms d a b t u w m) th m (fun k => f.fma k false true x y z) into l ∧
    RoundsTo s (.fnma d a b t u w m) th m (fun k => f.fma k true false x y z) into l

/-- Square root, reciprocals and the four transcendental functions complete with their result and flags (R253, R256). The results:
`fsqrt`, `frcp` and `frsq` of a finite number are the rounding of the exact root or quotient, whatever its digits N that one computes
it by; the special results and flags of every function; 2^x of an integer and log2 of a power of two are exact (R51, R256). Where the
last interval of a transcendental function does not decide, the neighbour is a free value (log entry 15), of which nothing is said. -/
def Obligations.FloatFunctions : Prop :=
  (∀ (s : State) (th : Thread) (d a : Reg) (t : Bool) (w : BitVec 2) (m : BitVec 3),
    let f := fmtOfWidth w
    let x := th.fval f a
    let p := (th.gpr a).toNat % 2 ^ f.size
    let into := fun (p : Nat) (v : Thread) => v.setG d (wd p)
    let l := fun (q r h : Nat) => if w = 0 then q else if w = 1 then r else h
    RoundsTo s (.fsqrt d a t w m) th m (fun k => f.sqrt k x) into (l 28 14 10) ∧
    RoundsTo s (.frcp d a t w m) th m (fun k => f.rcp k x) into (l 24 12 8) ∧
    RoundsTo s (.frsq d a t w m) th m (fun k => f.rsq k x) into (l 24 12 8) ∧
    RoundsTo s (.fex2 d a t w m) th m (fun k => f.ex2 k p x) into (l 40 20 12) ∧
    RoundsTo s (.flg2 d a t w m) th m (fun k => f.lg2 k p x) into (l 40 20 12) ∧
    RoundsTo s (.fsin d a t w m) th m (fun k => f.sinCos k p false x) into (l 40 20 12) ∧
    RoundsTo s (.fcos d a t w m) th m (fun k => f.sinCos k p true x) into (l 40 20 12)) ∧
  (∀ (w : BitVec 2) (k : Nat) (neg : Bool) (m N K : Nat) (e : Int), 0 < m →
     let f := fmtOfWidth w
     2 ^ (f.m + 3) ≤ N →
     (N * N ≤ m * 2 ^ K → m * 2 ^ K < (N + 1) * (N + 1) → (e - K) % 2 = 0 →
       f.sqrt k (.fin false m e) = f.roundExact k false N ((e - K) / 2) (decide (N * N ≠ m * 2 ^ K))) ∧
     (N * m ≤ 2 ^ K → 2 ^ K < (N + 1) * m → f.rcp k (.fin neg m e) = f.roundExact k neg N (-e - K) (decide (N * m ≠ 2 ^ K))) ∧
     (N * N * m ≤ 2 ^ K → 2 ^ K < (N + 1) * (N + 1) * m → (-e - K) % 2 = 0 →
       f.rsq k (.fin false m e) = f.roundExact k false N ((-e - K) / 2) (decide (N * N * m ≠ 2 ^ K)))) ∧
  (∀ (w : BitVec 2) (k p m j : Nat) (neg sig cosine : Bool) (e : Int), 0 < m →
     let f := fmtOfWidth w
     let zero := fun (n : Bool) => FVal.fin n 0 e
     let nan := fun (flags : Nat) => (f.canonicalNaN, flags)
     (∀ r ∈ [f.sqrt k (.nan sig), f.rcp k (.nan sig), f.rsq k (.nan sig), f.ex2 k p (.nan sig), f.lg2 k p (.nan sig), f.sinCos k p cosine (.nan sig)],
       r = nan (if sig then 16 else 0)) ∧
     (∀ x ∈ [FVal.inf true, .fin true m e], f.sqrt k x = nan 16 ∧ f.rsq k x = nan 16 ∧ f.lg2 k p x = nan 16) ∧
     f.sqrt k (zero neg) = (f.signBit neg, 0) ∧ f.sqrt k (.inf false) = (f.infinity false, 0) ∧
     f.rcp k (zero neg) = (f.infinity neg, 8) ∧ f.rcp k (.inf neg) = (f.signBit neg, 0) ∧
     f.rsq k (zero neg) = (f.infinity neg, 8) ∧ f.rsq k (.inf false) = (0, 0) ∧
     f.ex2 k p (.inf true) = (0, 0) ∧ f.ex2 k p (.inf false) = (f.infinity false, 0) ∧ f.ex2 k p (zero neg) = f.round k (.fin false 1 0) ∧
     (0 ≤ e → f.ex2 k p (.fin neg m e) = f.round k (.fin false 1 ((if neg then -1 else 1) * (m * 2 ^ e.toNat : Nat)))) ∧
     f.lg2 k p (zero neg) = (f.infinity true, 8) ∧ f.lg2 k p (.inf false) = (f.infinity false, 0) ∧
     f.lg2 k p (.fin false (2 ^ j) e) = f.round k (.fin (decide (e + j < 0)) (e + j).natAbs 0) ∧
     f.sinCos k p cosine (.inf neg) = nan 16 ∧ f.sinCos k p false (zero neg) = (f.signBit neg, 0) ∧
     f.sinCos k p true (zero neg) = f.round k (.fin false 1 0))

/-- Conversions between float formats and to and from integers (R253, R257 to R259). Minimum and maximum, negation,
comparison and classification (R253, R260 to R263). -/
def Obligations.FloatConversions : Prop :=
  (∀ (s : State) (th : Thread) (d a : Reg) (z : BitVec 2) (i : BitVec 3) (t : Bool) (w : BitVec 2) (m : BitVec 3),
     let f := fmtOfWidth w
     let into := fun (p : Nat) (v : Thread) => v.setG d (wd p)
     let n := 8 * 2 ^ (i.toNat % 4)
     let v : Int := if 4 ≤ i.toNat then (((th.gpr a).toNat % 2 ^ n : Nat) : Int) else toSigned n (th.gpr a).toNat
     RoundsTo s (.fcvt d a z t w m) th m (fun k => f.round k (th.fval (fmtOfWidth z) a)) into 2 ∧
     RoundsTo s (.fcvti d a i t w m) th m (fun k => ((toInteger k i (th.fval f a)).1.toNat, (toInteger k i (th.fval f a)).2)) into 2 ∧
     RoundsTo s (.ficvt d a i t w m) th m (fun k => f.round k (.fin (decide (v < 0)) v.natAbs 0)) into 2) ∧
  (∀ (s : State) (th : Thread) (c q : BitVec 3) (d a b : Reg) (t u : Bool) (w : BitVec 2),
     let f := fmtOfWidth w
     let pat := fun (r : Reg) => (th.gpr r).toNat % 2 ^ f.size
     let mn := minMax f false (pat a) (pat b)
     let mx := minMax f true (pat a) (pat b)
     let cm := fcmpHolds c (th.fval f a) (th.fval f b)
     Delivers s (.fmin d a b t u w) th mn.2 (fun v => v.setG d (wd mn.1)) 2 ∧
     Delivers s (.fmax d a b t u w) th mx.2 (fun v => v.setG d (wd mx.1)) 2 ∧
     Delivers s (.fcmp c q a b t u w) th cm.2 (fun v => v.setP q cm.1) 2 ∧
     RunsTo s (.fneg d a t w) th
       (th.setG d (wd (if pat a < 2 ^ (f.size - 1) then pat a + 2 ^ (f.size - 1) else pat a - 2 ^ (f.size - 1)))) 2 ∧
     RunsTo s (.fclass d a t w) th (th.setG d (wd (2 ^ classOf f (pat a)))) 2)

/-- A value of a format rounds to its own pattern with no flag, in every mode: rounding is exact where it can be (R45,
R51). Sums and products do not depend on the order of their operands (R254). -/
def Obligations.FloatLaws : Prop :=
  (∀ (w : BitVec 2) (mode p : Nat), p < 2 ^ (fmtOfWidth w).size → ((fmtOfWidth w).decode p).isNan = false →
     (fmtOfWidth w).round mode ((fmtOfWidth w).decode p) = (p, 0)) ∧
  (∀ (w : BitVec 2) (mode : Nat) (x y : FVal), (fmtOfWidth w).add mode x y = (fmtOfWidth w).add mode y x ∧
     (fmtOfWidth w).mul mode x y = (fmtOfWidth w).mul mode y x)

/-! ## Packed instructions (R264 to R271) -/

/-- Packed integers: each lane is computed alone, modulo its width; `pdot4` sums four signed byte products in each half;
`pmul`, `pmin`, `pmax` act on the lanes as signed numbers; other operations and lane codes are no instructions (R265). -/
def Obligations.PackedIntegers : Prop :=
  (∀ (d a b : Reg) (t u : Bool) (op : Nat) (l : BitVec 2), op < 8 →
    decode (rrWord 0x30 d.toNat a.toNat b.toNat t u (4 * op + l.toNat)) =
      if l = 3 ∨ 6 ≤ op ∨ (op = 5 ∧ l ≠ 0) then .error .fields
      else .ok (match op with
        | 0 => .padd d a b t u l
        | 1 => .psub d a b t u l
        | 2 => .pmul d a b t u l
        | 3 => .pmin d a b t u l
        | 4 => .pmax d a b t u l
        | _ => .pdot4 d a b t u)) ∧
  decode 0x60308281#32 = .ok (.padd 6 4 5 false false 1) ∧ decode 0x60308294#32 = .ok (.pdot4 6 4 5 false false) ∧
  ∀ (s : State) (th : Thread) (d a b : Reg) (t u : Bool) (l : BitVec 2), l.toNat ≤ 2 →
    let w := 8 * 2 ^ l.toNat
    let sx := fun (r : Reg) (i : Nat) => toSigned w (bits (th.gpr r) (w * i) w)
    let byte := fun (r : Reg) (i : Nat) => toSigned 8 (bits (th.gpr r) (8 * i) 8)
    let lanes := fun (ins : Instr) (lat : Nat) (op : Int → Int → Int) =>
      ∃ v : Word, (∀ i < 64 / w, toSigned w (bits v (w * i) w) = toSigned w (ofInt w (op (sx a i) (sx b i)))) ∧
        RunsTo s ins th (th.setG d v) lat
    lanes (.padd d a b t u l) 2 (· + ·) ∧ lanes (.psub d a b t u l) 2 (· - ·) ∧ lanes (.pmul d a b t u l) 4 (· * ·) ∧
    lanes (.pmin d a b t u l) 2 min ∧ lanes (.pmax d a b t u l) 2 max ∧
    ∃ v : Word, (∀ j < 2, bits v (32 * j) 32 = ofInt 32 (byte a (4 * j) * byte b (4 * j) + byte a (4 * j + 1) * byte b (4 * j + 1) +
        byte a (4 * j + 2) * byte b (4 * j + 2) + byte a (4 * j + 3) * byte b (4 * j + 3))) ∧
      RunsTo s (.pdot4 d a b t u) th (th.setG d v) 4

/-- Packed floats: each lane rounds once in the dynamic mode, the flags of all lanes are delivered together; `pfma` adds the
lane of the destination (R57, R253, R266). -/
def Obligations.PackedFloats : Prop :=
  ∀ (s : State) (th : Thread) (d a b : Reg) (t u : Bool) (l : BitVec 2), l.toNat ≤ 2 →
    let f := if l = 0 then f32 else if l = 1 then f16 else bf16
    let x := fun (r : Reg) (i : Nat) => f.decode (bits (th.gpr r) (f.size * i) f.size)
    let runs := fun (ins : Instr) (op : Nat → Nat → Nat × Nat) =>
      RoundsTo s ins th 7 (fun k => (0, ((List.range (64 / f.size)).map (fun i => (op k i).2)).foldl Nat.lor 0))
        (fun _ v => v.setG d (ofLanes f.size ((List.range (64 / f.size)).map (fun i => (op (bits th.fcsr 12 3) i).1)))) 4
    runs (.pfadd d a b t u l) (fun k i => f.add k (x a i) (x b i)) ∧
    runs (.pfmul d a b t u l) (fun k i => f.mul k (x a i) (x b i)) ∧
    runs (.pfma d a b t u l) (fun k i => f.fma k false false (x a i) (x b i) (x d i))

/-- Shuffles, packing with signed saturation and widening (R43, R267 to R269): every lane of the result. `pfcvt` converts
the lanes it selects and delivers their flags, and traps illegal on a format or a part it does not take; `bxd` expands
four codes of a typed block (R270, R271). -/
def Obligations.PackedMoves : Prop :=
  (∀ (s : State) (th : Thread) (d a b : Reg) (t u h : Bool) (v : BitVec 2),
     (∃ r : Word, (h = true → ∀ i < 4, bits r (16 * i) 16 =
           if bits (th.gpr b) (4 * i) 4 < 8 then bits (th.gpr a) (16 * (bits (th.gpr b) (4 * i) 4 % 4)) 16 else 0) ∧
         (h = false → ∀ i < 8, bits r (8 * i) 8 =
           if bits (th.gpr b) (8 * i) 8 < 128 then bits (th.gpr a) (8 * (bits (th.gpr b) (8 * i) 8 % 8)) 8 else 0) ∧
         RunsTo s (.pshuf d a b t u h) th (th.setG d r) 2) ∧
     (v.toNat ≤ 2 → ∃ r : Word,
       let w := if v = 0 then 8 else if v = 1 then 16 else 4
       let n := 32 / w
       (∀ i < 2 * n, toSigned w (bits r (w * i) w) =
         max (-((2 ^ (w - 1) : Nat) : Int)) (min (((2 ^ (w - 1) : Nat) : Int) - 1)
           (toSigned (2 * w) (if i < n then bits (th.gpr a) (2 * w * i) (2 * w) else bits (th.gpr b) (2 * w * (i - n)) (2 * w))))) ∧
       RunsTo s (.ppack d a b t u v) th (th.setG d r) 2) ∧
     (∃ r : Word,
       let w := if v.toNat < 2 then 8 else 16
       let n := 32 / w
       (∀ i < n, toSigned (2 * w) (bits r (2 * w * i) (2 * w)) = toSigned w (bits (th.gpr a) (w * ((if v.toNat % 2 = 1 then n else 0) + i)) w)) ∧
       RunsTo s (.punpk d a t v) th (th.setG d r) 2)) ∧
  (∀ (s : State) (th : Thread) (d a b : Reg) (t u : Bool) (k : BitVec 2),
     let F := bits (th.gpr b) 0 5
     let G := bits (th.gpr b) 8 5
     let bad := Answers s (.pfcvt d a b t u k) th (s.trap { th with issueAt := s.time + wd 3 } ⟨1, 0, wd (0x500 + k.toNat), 0⟩)
     (cvtFmt F = none ∨ cvtFmt G = none → bad) ∧
     (∀ f g, cvtFmt F = some f → cvtFmt G = some g →
       (cvtLanes (cvtWidth f) (cvtWidth g) k.toNat = none → bad) ∧
       (∀ n ip op, cvtLanes (cvtWidth f) (cvtWidth g) k.toNat = some (n, ip, op) →
         let at' := fun (mode i : Nat) => g.round mode (f.decode (bits (th.gpr a) (cvtWidth f * (ip + i)) (cvtWidth f) % 2 ^ f.size))
         RoundsTo s (.pfcvt d a b t u k) th 7 (fun mode => (0, ((List.range n).map (fun i => (at' mode i).2)).foldl Nat.lor 0))
           (fun _ v => v.setG d (ofLanes (cvtWidth g) (List.replicate op 0 ++ (List.range n).map (fun i => (at' (bits th.fcsr 12 3) i).1)))) 3)) ∧
     ∃ r : Word, (∀ i < 4, bits r (16 * i) 16 =
         (bf16.round 0 (typedDecode (bits (th.gpr b) 0 8) (bits (th.gpr a) (4 * (4 * k.toNat + i)) 4))).1 % 65536) ∧
       RunsTo s (.bxd d a b t u k) th (th.setG d r) 3)

/-! ## System and engine registers (R25, R55, R69 to R80, R292, R293, R329) -/

/-- `mfs` and `mts`: a number that is no system register traps illegal, a register not open to user level traps privilege,
else the register is read, or written for the next instruction (R70, R71, R292). What each system register reads: the
spec's list of R70 with where the model holds each (R70 to R80). What a write of a system register leaves: fields outside
a register's writable ones are ignored, `s.merge` holds its wait limit in 8 to 128, `s.status` keeps priv, `s.tvec` and
`s.tfbase` take their new value at the next cycle, read-only registers ignore the write (R25, R55, R71, R72, R74 to R76, R79, R292).
That a read of `s.status` never shows watch_skip is log entry 58. -/
def Obligations.SystemRegisters : Prop :=
  (∀ (s : State) (th : Thread) (d a : Reg) (t : Bool) (n : BitVec 12),
     let k := n.toNat
     let known := k ≤ 8 ∨ (0x10 ≤ k ∧ k ≤ 0x1A) ∨ k = 0x20 ∨ k = 0x21
     let closed := fun (ks : List Nat) => k ∈ ks ∧ th.super = false
     let saves := [0x16, 0x17]
     let writes := [1, 8, 0x10, 0x11, 0x12, 0x13, 0x14, 0x15, 0x16, 0x17, 0x18, 0x19, 0x1A]
     (¬ known → Answers s (.mfs d n) th (s.trap th ⟨1, 0, wd k, 0⟩) ∧ Answers s (.mts a t n) th (s.trap th ⟨1, 0, wd k, 0⟩)) ∧
     (closed saves → Answers s (.mfs d n) th (s.trap th ⟨2, 0, wd s.ir.toNat, 0⟩)) ∧
     (closed writes → Answers s (.mts a t n) th (s.trap th ⟨2, 0, wd s.ir.toNat, 0⟩)) ∧
     (known → ¬ closed saves → RunsTo s (.mfs d n) th (th.setG d (readSys s s.cur th k)) 2) ∧
     (known → ¬ closed writes → Answers s (.mts a t n) th (writeSys (s.put (th.advance s.time 1)) s.cur k (th.gpr a)))) ∧
  (∀ (s : State) (loc : Nat) (t : Thread),
     let c := s.core (coreOf loc)
     let r := readSys s loc t
     (t.rep = none → r 0x00 = wd t.pc.toNat) ∧ (∀ i < 64, bit (r 0x01) i = (bit t.status i && i != 3)) ∧ r 0x02 = wd loc ∧ r 0x03 = t.gid ∧
     r 0x04 = t.launch ∧ r 0x05 = wd t.part ∧ r 0x06 = t.fcsr ∧ r 0x07 = t.alcove ∧ r 0x08 = t.pix ∧ r 0x10 = c.tvec ∧ r 0x11 = t.tfp ∧
     r 0x12 = c.tfbase ∧ r 0x13 = t.cause ∧ r 0x14 = t.info ∧ r 0x15 = t.faddr ∧ r 0x16 = t.save0 ∧ r 0x17 = t.save1 ∧ r 0x18 = t.watch0 ∧
     r 0x19 = t.watch1 ∧ r 0x1A = c.merge ∧ r 0x20 = s.time ∧ r 0x21 = t.cyc) ∧
  (∀ (s : State) (t : Thread) (v : Word) (loc : Nat), s.thread loc = some t →
     let w := fun (n : Nat) => writeSys s loc n v
     let c := fun (n : Nat) => (w n).core (coreOf loc)
     let th := fun (n : Nat) => (w n).thread loc
     let V := v.toNat
     (∀ n ∈ [0x00, 0x02, 0x03, 0x04, 0x05, 0x20, 0x21], w n = s) ∧
     (th 0x01).map (fun u => (bits u.status 0 2, bits u.status 2 2, bits u.status 4 60)) = some (bits t.status 0 2, bits v 2 2, bits t.status 4 60) ∧
     (th 0x06).map (·.fcsr) = some (wd (V % 1024 + V / 4096 % 8 * 4096)) ∧
     (th 0x08).map (fun u => (bits u.pix 0 16, bits u.pix 16 48)) = some (V % 65536, bits t.pix 16 48) ∧
     ((c 0x10).tvecNext, (c 0x10).tvec) = (some (wd (V % 2 ^ 48 / 4 * 4)), (s.core (coreOf loc)).tvec) ∧ (th 0x11).map (·.tfp) = some (wd (V / 512 * 512)) ∧
     ((c 0x12).tfbaseNext, (c 0x12).tfbase) = (some (wd (V % 2 ^ 48 / 512 * 512)), (s.core (coreOf loc)).tfbase) ∧ (th 0x13).map (·.cause) = some (wd (V % 65536)) ∧
     (th 0x14).map (·.info) = some v ∧ (th 0x15).map (·.faddr) = some v ∧ (th 0x16).map (·.save0) = some v ∧
     (th 0x17).map (·.save1) = some v ∧ (∀ n ∈ [0x18, 0x19], (th n).isSome) ∧
     (th 0x18).map (·.watch0) = some (wd (V / 2 ^ 55 * 2 ^ 55 + V % 2 ^ 48)) ∧
     (th 0x19).map (·.watch1) = some (wd (V / 2 ^ 55 * 2 ^ 55 + V % 2 ^ 48)) ∧
     (c 0x1A).merge = wd (max 8 (min 128 (V / 256 % 256)) * 256 + V % 2) ∧ (w 0x10).threads = s.threads ∧ (w 0x14).cores = s.cores)

/-- A write of `s.alcove` changes that register only and applies floor first, where it is a multiple of 8 and at most size, then csp,
where it is a multiple of 8 from the floor that results to size; another is ignored. Size and the reserved bits stay, and the
call-stack fields stay well formed (R74). -/
def Obligations.AlcoveWriteKeepsStack : Prop :=
  ∀ (s : State) (loc : Nat) (t : Thread) (v : Word), s.thread loc = some t →
    ∃ new : Word, (writeSys s loc 0x07 v) = s.setThread loc { t with alcove := new } ∧
      let old := t.alcove
      let size := bits old 16 16
      let floor := if bits v 32 16 % 8 = 0 ∧ bits v 32 16 ≤ size then bits v 32 16 else bits old 32 16
      bits new 32 16 = floor ∧ bits new 16 16 = size ∧ bits new 48 16 = bits old 48 16 ∧
      bits new 0 16 = (if bits v 0 16 % 8 = 0 ∧ floor ≤ bits v 0 16 ∧ bits v 0 16 ≤ size then bits v 0 16 else bits old 0 16) ∧
      (stackFieldsOk old → stackFieldsOk new)

/-- The register-write operations write the register they name for the current thread, whatever its number (R25, R72, R74,
R292); engine registers are read and written by `mfe` and `mte`, and `qstat` reads a queue's depth and entries (R69, R293, R329). -/
def Obligations.RegisterWriteOperations : Prop :=
  ∀ (s : State) (th : Thread) (v : Word) (n : BitVec 12) (d a : Reg) (k : BitVec 4) (t : Bool) (q : BitVec 3),
    (s.thread s.cur = some th →
      exec (.sMergeWrite v) s = .next (writeSys s s.cur 0x1A v) ∧ exec (.sAlcoveWrite v) s = .next (writeSys s s.cur 0x07 v) ∧
      exec (.sStatusWrite v) s = .next (writeSys s s.cur 0x01 v) ∧ exec (.systemRegisterWrite n v) s = .next (writeSys s s.cur n.toNat v)) ∧
    RunsTo s (.mfe d k) th (th.setG d th.e[k.toNat]) 1 ∧ RunsTo s (.mte k a t) th { th with e := th.e.set k.toNat (th.gpr a) } 1 ∧
    (q.toNat ≤ 3 → RunsTo s (.qstat d q) th (th.setG d (wd (16 * 65536 +
      (s.cmds.countP (fun c => c.queue == 8 * coreOf s.cur + q.toNat && c.owner == s.cur)) * 256 +
      s.cmds.countP (fun c => c.queue == 8 * coreOf s.cur + q.toNat)))) 2) ∧
    (q.toNat = 4 → th.gang = none → RunsTo s (.qstat d q) th (th.setG d (wd (8 * 65536))) 2) ∧
    (q.toNat = 4 → ∀ g, th.gang = some g → RunsTo s (.qstat d q) th (th.setG d (wd (8 * 65536 +
      s.cmds.countP (fun c => c.queue == mxQueue (rowOf s.cur) g) * 257))) 2)

/-! ## Loads, stores and atomics (R88 to R107, R178 to R184, R273 to R282, R287) -/

/-- The address of an access: a global one is pointer bits [47:0] plus the offset, computed exactly, and traps canonical where
bits [63:60] are not 0 or a byte lies outside the space; a local one is a 64-bit offset. What passes the checks on a global
access is byte for byte what translation gives for its address, in the partition's own HBM, on pages each of which permits the access, with
the pointer's tag in every granule of a page with tc set (R98, R102, R103, R105, R106, R273, R352). -/
def Obligations.AccessChecks : Prop :=
  (∀ (space size : Nat) (p : Word) (off : Int),
    let va := (bits p 0 48 : Int) + off
    (space = 0 → bits p 60 4 ≠ 0 → formAddress space p off size = .error ⟨5, 0, wd (bits p 60 4), p⟩) ∧
    (space = 0 → bits p 60 4 = 0 → (va < 0 ∨ (2 ^ 48 : Nat) < va + size) → formAddress space p off size = .error ⟨5, 1, 0, p⟩) ∧
    (space = 0 → bits p 60 4 = 0 → 0 ≤ va → va + size ≤ (2 ^ 48 : Nat) → formAddress space p off size = .ok ⟨0, va.toNat, size, bits p 56 4⟩) ∧
    (space ≠ 0 → formAddress space p off size = .ok ⟨space, ((p.toNat + off) % (2 ^ 64 : Nat)).toNat, size, 0⟩)) ∧
  (∀ (s : State) (die part asid va n : Nat) (super : Bool) (k : Kind) (tag : Option Nat) (view : View) (xs : List Nat)
     (as : List Attrs), checkGlobal s die part asid super k tag va n view = .ok xs as →
    xs.length = n ∧ as.length = n ∧
    ∀ j < n, ∃ x a p, xs[j]? = some x ∧ as[j]? = some a ∧ xlate s die part asid (va + j) = .page x a ∧ permits a super k = true ∧
      s.partition part = some p ∧ p.hasBytes x 1 = true ∧ x < Config.hbmBytes ∧
      (a.tc = true → ∀ g, tag = some g → (view (tagLoc (x / 64 * 64))).toNat % 16 = g))

/-- Loads and waits at their issue: where no trap is due, the instruction takes a replay entry with its captured sources,
its destination becomes empty-owed and the thread goes on; an access that hits L1 or is local has been checked and keeps its places
(R104), the tags of the lines it hits being compared as reads of them (R106), and one that misses on a page whose walk has failed and is outstanding shares
that outcome: an absent page, a malformed entry or a poisoned one (R105, R146); an `ldb` out of bounds of a descriptor with oob set writes 0
(R64, R81, R104, R235, R272, R274, R275, R278, R279, R287). -/
def Obligations.LoadsTakeEntries : Prop :=
  ∀ (s : State) (th : Thread) (p k : BitVec 3) (d a b : Reg) (t u : Bool) (w : BitVec 2) (o f : BitVec 5) (y : BitVec 3) (j : BitVec 9) (m : BitVec 4),
    let takes := fun (i : Instr) (x1 x2 x3 : Word) (desc : BitVec 128) =>
      ∀ q, loadReq i x1 x2 desc = .ok (some q) → loadIssueTrap s s.cur th q = none →
        let s1 := s.count (coreOf s.cur) 9 (q.accesses.filter (missesL1 s s.cur th)).length
        let e : ReplayEntry := ⟨s.fresh, s.ir, wd th.here.toNat, x1, x2, x3, d, .pending, 0, .waiting, none, 0, s.time, false, desc,
          placesAtIssue s s.cur th q, [], none⟩
        let v := comparedAtIssue s s.cur th q
        Answers s i th ({ s1 with fresh := s.fresh + 1 }.put (({ v.setOwed d with replay := th.replay ++ [joinMiss s s.cur th e] } : Thread).advance s.time 1)) ∧
        v = { th with front := v.front, obs := v.obs } ∧
        ((q.tagged = false ∨ ∀ a ∈ q.accesses, a.space ≠ 0 ∨ missesL1 s s.cur th a = true) → v = th) ∧
        (decode s.ir = .ok i → joinMiss s s.cur th e =
          (match q.accesses.findSome? (fun a => (sharedMiss s s.cur th a).map (fun m => (a, m))) with
           | none | some (_, _, .page _ _) => e
           | some (_, va, .absent) => { e with flight := .faulting, fault := wd va, walk := some va }
           | some (a, _, .bad sub) => { e with mark := some ⟨8, sub, 1, wd a.addr⟩ }
           | some (a, va, .poisoned) => { e with flight := .poisoning, fault := wd a.addr, value := 2, walk := some va }))
    takes (.ld p d a t w j) (th.gpr a) 0 0 0 ∧ takes (.ldn p d a t w j) (th.gpr a) 0 0 0 ∧
    takes (.ordLd p d a w t o) (th.gpr a) 0 0 0 ∧ takes (.ordLdn p d a w t o) (th.gpr a) 0 0 0 ∧
    takes (.ldb d a m t y) (th.gpr a) 0 0 (th.dReg m) ∧ takes (.ldx p d a b t u) (th.gpr a) (th.gpr b) 0 0 ∧
    takes (.ldg d a t) (th.gpr a) 0 0 0 ∧
    takes (.waita k d a b t u f) (th.gpr a) (th.gpr b) (th.gpr d) 0 ∧ takes (.waitge k d a b t u f) (th.gpr a) (th.gpr b) (th.gpr d) 0 ∧
    (loadReq (.ldb d a m t y) (th.gpr a) 0 (th.dReg m) = .ok none → RunsTo s (.ldb d a m t y) th (th.setG d 0) 1)

/-- A load's read and the arrivals of replies. A load in one aligned 8-byte unit, where the thread may take the newest write of every byte,
shows them under its own buffered stores: `ld`, `ordLd` and signed `ldb` sign-extend it, the unsigned forms zero-extend it, `ldg` puts the
granule's tag into the pointer, `ldx` takes the element's bits (R235, R274, R275, R278, R279). One that crosses a unit is two accesses, made
together or one after the other (R178), and an element of a blocked format one after its scale byte. The
elements of `ldx`: integers extended, binary64 as it is, every other float as the binary32 that its value rounds to (R279); where a
whole-byte or INT4 element stands (R59). A reply writes the destination full and releases the entry; a fault reply marks the
entry faulted and records it, 40 cycles after its load was issued at the earliest (R273, log entry 66); a poisoned reply marks the destination; a wait ends when its condition holds or its time
is over, its predicate saying which (R64, R81, R114, R137, R180, R287). That the newest writes are read where nothing else is chosen is
log entry 1, that the poison trap names the first poisoned byte's unit log entry 27. -/
def Obligations.LoadsReturn : Prop :=
  (∀ (sb c : Nat),
    elemRegister 0 sb c = wd (c % 256) ∧ elemRegister 9 sb c = wd c ∧
    (∀ f ∈ [(1, 4), (2, 8), (3, 16), (4, 32), (5, 64)], elemRegister f.1 sb c = signExt f.2 c) ∧
    (∀ f ∈ [(6, f16), (7, bf16), (8, f32), (10, e4m3), (11, e5m2), (12, e3m2), (13, e2m3)],
      elemRegister f.1 sb c = wd (f32.round 0 (f.2.decode c)).1) ∧
    elemRegister 14 sb c = wd (f32.round 0 (typedDecode sb c)).1 ∧
    (∀ f ∈ [(15, e4m3), (16, e5m2), (17, e3m2), (18, e2m3)], elemRegister f.1 sb c = wd (f32.round 0 (scaledDecode f.2 sb c)).1)) ∧
  (∀ (space len i : Nat), elemPlace 1 space len i = ⟨i / 2, 4 * (i % 2), 4, none⟩ ∧
    ∀ f ∈ [(0, 1), (2, 1), (3, 2), (4, 4), (5, 8), (6, 2), (7, 2), (8, 4), (9, 8), (10, 1), (11, 1)], elemPlace f.1 space len i = ⟨i * f.2, 0, 8 * f.2, none⟩) ∧
  ∀ (s : State) (loc : Nat) (t : Thread) (e : ReplayEntry), s.thread loc = some t →
    (∀ (i : Instr) (q : LoadReq) (xs : List Nat) (as : List Attrs), e.instr = some i → waitingEntry t e.id (·.isLoad) = some e → e.got = [] →
      loadReq i e.src1 e.src2 e.desc = .ok (some q) → q.scale = none → q.acc.addr % 8 + q.acc.size ≤ 8 →
      let known := e.places.any (fun p => p.1 == q.acc.addr)
      let s0 : State := { s with picks := [] }
      let s1 := if known then s0 else walkFor s0 loc t q.acc
      (known = false → missesL1 s0 loc t q.acc = true → walkWaits s0 (dieOf loc) t.part t.asid q.acc.addr q.acc.size = false) →
      checkedBytes s1 loc t e q.acc .load q.tagged = .ok xs as → xs.length = q.acc.size →
      let t1 := if known then t else comparedTags s1 loc t q.acc q.tagged xs as
      let ys := if q.tagRead then xs.map tagLoc else xs
      let F := if i.order.1 = 4 then fMerge s t1.front ((alGet s.fsc (fscKey (.thread loc) i.order.2)).getD []) else t1.front
      olderTouches s1 loc t e.id (ys.map (s1.resolve (.thread loc))) = false →
      (∀ j < ys.length, let y := ys.getD j 0
        placeReady s1 (dieOf loc) (attrAt as j).c false y = true ∧ s1.poisoned y = false ∧ s1.resolve (.thread loc) y = y ∧
        valueOf (wsGet s y) (newestId (wsGet s y)) = memGet s.mem y) →
      mayChoose s F false (newestChoice s ys) = true →
      let v := ofBytes (ys.map (fun y => t.forward y (memGet s.mem y)))
      let n := 8 * ys.length
      ∃ s' u, exec (.loadReadMove loc e.id [] ⟨[], none⟩) s = .next s' ∧ s'.thread loc = some u ∧ s'.mem = s.mem ∧ u.g = t.g ∧ u.gs = t.gs ∧
        ∃ f ∈ u.replay, f.id = e.id ∧ f.flight = .read ∧ f.value = (match i with
          | .ld .. | .ordLd .. => signExt n v
          | .ldb _ _ _ _ y => if y.toNat < 4 then signExt n v else wd v
          | .ldg .. => setBits e.src1 56 4 v
          | .ldx .. => elemRegister (bits e.src1 48 5) 0 (v / 2 ^ q.place.shift % 2 ^ q.place.width)
          | _ => wd v)) ∧
    (∀ (i : Instr) (q : LoadReq) (p1 p2 : List Nat) (picks : List (Nat × Nat)) (s1 s2 : State) (t1 t2 : Thread) (b1 b2 : List Byte)
        (l1 l2 : Nat × List Nat × List Attrs),
      e.instr = some i → waitingEntry t e.id (·.isLoad) = some e → e.got = [] → loadReq i e.src1 e.src2 e.desc = .ok (some q) →
      loadParts q = [p1, p2] →
      let held := if e.places.any (fun p => p.1 == l1.1) then e.places else e.places ++ [l1]
      readPart { s with picks := picks } loc t e q picks i.order p1 = .ok (s1, t1, b1, l1) →
      exec (.loadReadMove loc e.id picks ⟨[], some 0⟩) s =
        .next (s1.setThread loc (t1.mapEntry e.id (fun x => { x with got := p1.zip b1, places := held }))) ∧
      (readPart s1 loc t1 { e with got := p1.zip b1, places := held } q picks i.order p2 = .ok (s2, t2, b2, l2) →
        let v := ofBytes (b1 ++ b2)
        let n := 8 * q.acc.size
        ∃ s' u, exec (.loadReadMove loc e.id picks ⟨[], none⟩) s = .next s' ∧ s'.thread loc = some u ∧ s'.mem = s.mem ∧
          ∃ f ∈ u.replay, f.id = e.id ∧ f.flight = .read ∧ f.value = (match i with
            | .ld .. | .ordLd .. => signExt n v
            | .ldb _ _ _ _ y => if y.toNat < 4 then signExt n v else wd v
            | .ldx .. =>
              if q.scale.isSome then elemRegister (bits e.src1 48 5) (b1.headD 0).toNat (ofBytes b2 / 2 ^ q.place.shift % 2 ^ q.place.width)
              else elemRegister (bits e.src1 48 5) 0 (v / 2 ^ q.place.shift % 2 ^ q.place.width)
            | .ldg .. => setBits e.src1 56 4 v
            | _ => wd v))) ∧
    (t.replay.find? (fun x => x.id == e.id && x.flight == .read && x.mark.isNone && (x.state == .pending || x.state == .done)) = some e →
      let u := match e.instr with
        | some (.waita k ..) => ((t.setG e.dst e.value).dropEntry e.id).setP k e.pred
        | some (.waitge k ..) => ((t.setG e.dst e.value).dropEntry e.id).setP k e.pred
        | _ => (t.setG e.dst e.value).dropEntry e.id
      exec (.producerReply loc e.id) s = .next (sendWaiting s loc u) ∧
      ((∀ x ∈ t.replay, x.unsent = false) → exec (.producerReply loc e.id) s = .next (s.setThread loc u))) ∧
    (t.replay.find? (fun x => x.id == e.id && x.flight == .faulting && x.state == .pending && decide (40 ≤ (s.time - x.since).toNat)) = some e →
      ∃ r : Append, exec (.faultReply loc e.id) s =
          .next { s.setThread loc (t.mapEntry e.id (fun x => { x with state := .faulted })) with appends := s.appends ++ [r] } ∧
        r.part = t.part ∧ r.queue = 1 ∧ r.w2 = wd (bits e.fault 0 48)) ∧
    (t.replay.find? (fun x => x.id == e.id && x.flight == .poisoning && x.state == .pending) = some e →
      let u := t.mapEntry e.id (fun x => { x with state := .poisoned, mark := some ⟨11, e.value.toNat, wd e.dst.toNat, e.fault⟩ })
      exec (.poisonReply loc e.id) s = .next (sendWaiting s loc u) ∧
      ((∀ x ∈ t.replay, x.unsent = false) → exec (.poisonReply loc e.id) s = .next (s.setThread loc u))) ∧
    (∀ picks i s' t' v, waitingEntry t e.id (·.isWait) = some e → e.instr = some i →
      readEntry { s with picks := picks } loc t e picks none = .value s' t' v →
      let ends := match i with
        | .waita .. => v ≠ e.src3
        | _ => e.src3.toNat ≤ v.toNat
      let late := e.src2.toNat ≤ (s'.time - e.since).toNat
      let told := fun (b : Bool) => s'.setThread loc (t'.mapEntry e.id (fun x => { x with flight := .read, value := v, pred := b }))
      (ends → exec (.waitWake loc e.id ⟨picks, []⟩) s = .next (told false)) ∧
      (¬ ends → late → exec (.waitWake loc e.id ⟨picks, []⟩) s = .next (told true)) ∧
      (¬ ends → ¬ late → exec (.waitWake loc e.id ⟨picks, []⟩) s = .next (s'.setThread loc t')) ∧
      (ends → e.src2.toNat ≤ (s.time - e.since).toNat → exec (.waitTimeout loc ⟨e.id, picks, []⟩) s = .next (told false)) ∧
      (¬ ends → e.src2.toNat ≤ (s.time - e.since).toNat → exec (.waitTimeout loc ⟨e.id, picks, []⟩) s = .next (told true)))

/-- A read takes candidates: where the move is made with chosen writes, or with none chosen and its bytes can be taken together at all
in every aligned unit, each byte that the thread does not forward wholly shows a write that no write of the thread's frontier lies
above, under the bits its buffers hold; a sequentially consistent read first merges its scope's frontier, and leaves its own there (R176, R178, R180, R182; the choice where none can be taken is log entry 1). -/
def Obligations.ReadsTakeCandidates : Prop :=
  ∀ (s s' : State) (loc : Nat) (t t' : Thread) (xs : List Nat) (picks : List (Nat × Nat)) (order scope : Nat) (bs : List Byte),
    let open' := (xs.filter (fun x => !(t.forwards x))).map (s.resolve (.thread loc))
    let key := fscKey (.thread loc) scope
    let F := if order = 4 then fMerge s t.front ((alGet s.fsc key).getD []) else t.front
    (picks ≠ [] ∨ ∀ u, ∃ c : Choice, c.map (·.1) = open'.filter (· / 8 == u) ∧ mayChoose s F false c = true) →
    readMove s loc t xs picks order scope = some (s', t', bs) →
    bs.length = xs.length ∧ s'.mem = s.mem ∧ (order = 4 → alGet s'.fsc key = some t'.front) ∧ (order ≠ 4 → s'.fsc = s.fsc) ∧
    ∀ (i : Nat) (h : i < xs.length),
      let y := s.resolve (.thread loc) xs[i]
      t.forwards xs[i] = false →
        ∃ id, candidate (wsGet s y) F y id = true ∧ bs.getD i 0 = t.forward xs[i] (valueOf (wsGet s y) id)

/-- Stores at their issue: on a local space or a hit in L1 a store enters the buffers, where the thread's own later reads
find its bytes and bits and no others, and memory is as before; on a miss the issue waits for its slice, whose return lets
it complete once the walk of its pages need not wait, or traps where it shares the outcome of a walk that has failed, as every miss on
the page does (R105, R146); a store that a descriptor drops only goes on (R104, R172, R179, R180, R184, R234, R274, R275, R278, R280, R281). That a
masked store lies on top of older ones is log entry 31. -/
def Obligations.StoresEnterBuffers : Prop :=
  ∀ (s : State) (th : Thread) (p : BitVec 3) (r a b : Reg) (t u : Bool) (w : BitVec 2) (o f : BitVec 5) (j : BitVec 9) (k : BitVec 4)
    (i : Instr), i ∈ [.st p r a t u w j, .ordSt p r a w t o, .stb r a k t w, .stn r a t f, .stx p r a b t u, .stg a b t u] →
    let enters := fun (s0 : State) (ins : Instr) (q : StoreReq) => ∀ xs as s2 t2 bs,
      let s1 := walkFor s0 s0.cur th q.acc
      accessBytes s1 s0.cur th q.acc .store (q.kind != .tags) = .ok xs as → (q.release.isSome = true → th.sb = []) →
      storeCells s1 s0.cur (comparedTags s1 s0.cur th q.acc (q.kind != .tags) xs as) q = .ok (s2, t2, .bytes bs) →
      (∀ e ∈ th.sb ++ th.nt, e.id < s0.fresh) → (storeLocs q.kind xs).Nodup →
      ∃ s' v, exec ins s = .next s' ∧ s'.thread s0.cur = some v ∧ s'.mem = s.mem ∧ v.g = th.g ∧ v.gs = th.gs ∧ v.pc = (th.advance s.time 1).pc ∧
        (∀ c ∈ (storeLocs q.kind xs).zip bs, ∀ below, v.forward c.1 below = ((c.2.1 &&& c.2.2) ||| (th.forward c.1 below &&& ~~~ c.2.2))) ∧
        (∀ x, x ∉ storeLocs q.kind xs → ∀ below, v.forward x below = th.forward x below)
    (CanIssue s i th → ∀ q, storeReq i th = .ok (some q) → (q.kind ≠ .tags → storePreCheck s s.cur th q = none) →
      let s1 := s.count (coreOf s.cur) 9 (q.accesses.filter (missesL1 s s.cur th)).length
      (missesL1 s s.cur th q.acc = false → enters s i q) ∧
      (missesL1 s s.cur th q.acc = true → (q.release.isSome = true → th.sb = []) →
        (sharedMiss s1 s.cur th q.acc = none → exec i s = .next (s1.put { th with check := some s.ir })) ∧
        (∀ va, sharedMiss s1 s.cur th q.acc = some (va, .absent) → exec i s = .next (s1.trap th ⟨8, 0, 2, wd q.acc.addr⟩)) ∧
        (∀ va, sharedMiss s1 s.cur th q.acc = some (va, .poisoned) → exec i s = .next (s1.trap th ⟨11, 2, 2, wd q.acc.addr⟩)))) ∧
    (storeReq i th = .ok none → RunsTo s i th th 1) ∧
    (∀ loc c q picks, s.thread loc = some th → th.check = some c → th.stopped s loc = false → decode c = .ok i → storeReq i th = .ok (some q) →
      checkWaits s loc th i = false →
      (∀ x, checkWalk s loc th i none = some x →
        exec (.storeCheckReturn ⟨loc, picks, []⟩) s = .next (shareWalk s (dieOf loc) th.part th.asid x.2.2.1)) ∧
      (checkWalk s loc th i none = none → enters { s with cur := loc, ir := c, picks := picks } (.storeCheckReturn ⟨loc, picks, []⟩) q))

/-- A buffered store lands: its bytes take its bits in memory, its entry is gone, and every other byte of memory and the
rest of the thread are as before (R114, R178, R179, R184). -/
def Obligations.StoresLand : Prop :=
  ∀ (s : State) (loc : Nat) (t : Thread) (e : StoreEntry), memoryCanonical s → s.thread loc = some t → mayDrain s loc t e = true →
    (∀ c ∈ e.cells, placeReady s (dieOf loc) e.cacheable true c.1 = true ∧ s.live c.1 = true ∧ s.poisoned c.1 = false ∧ s.resolve (.thread loc) c.1 = c.1) →
    watchBlocked s e.reached (if e.cacheable then some (dieOf loc) else none) 0 = false → (e.cells.map (·.1)).Nodup →
    ∀ ins, (ins = .storeDrain loc ⟨e.id, []⟩ ∧ t.sb.find? (fun x => x.id == e.id) = some e) ∨
        (ins = .ntStoreDrain loc ⟨e.id, []⟩ ∧ t.nt.find? (fun x => x.id == e.id) = some e) →
      ∃ s' F, exec ins s = .next s' ∧
        s'.thread loc = some { t with front := F, sb := t.sb.filter (fun x => x.id != e.id), nt := t.nt.filter (fun x => x.id != e.id) } ∧
        (∀ c ∈ e.cells, memGet s'.mem c.1 = ((c.2.1 &&& c.2.2) ||| (memGet s.mem c.1 &&& ~~~ c.2.2))) ∧
        (∀ x, x ∉ e.cells.map (·.1) → memGet s'.mem x = memGet s.mem x) ∧ (∀ l, l ≠ loc → s'.thread l = s.thread l)

/-- Atomics at their issue: an aligned one whose check passes takes its replay entry and its thread goes on, at once in a local space or
on a hit in L1, else when the slice returns its check; one whose check fails traps then, without an entry, as does one that misses on a page
whose walk has failed, as every miss on the page does (R103 to R105, R114, R146, R183, R282). -/
def Obligations.AtomicsTakeEntries : Prop :=
  ∀ (s : State) (th : Thread) (p : BitVec 3) (d a : Reg) (w t : Bool) (f : BitVec 5) (d2 : BitVec 5),
    let takes := fun (i : Instr) (size : Nat) (r : Reg) (x3 : Word) => ∀ acc, formAddress p.toNat (th.gpr a) 0 size = .ok acc →
      (releases (ordOf f) = true → th.sb = []) →
      let decides := fun (s0 : State) (answers : State → Prop) =>
        let s1 := walkFor s0 s0.cur th acc
        let check := accessBytes s1 s0.cur th acc .atomic true
        (∀ xs as, check = .ok xs as → xs.any th.sbHas = false →
          let u := comparedTags s1 s0.cur th acc true xs as
          let e : ReplayEntry := ⟨s.fresh, s0.ir, wd th.here.toNat, th.gpr a, th.gpr r, x3, r, .pending, 0, .waiting, none, 0, s.time, false, 0,
            [(acc.addr, xs, as)], [], none⟩
          ∃ s2 : State, s2.mem = s.mem ∧ s2.threads = s.threads ∧ s2.fresh = s.fresh + 1 ∧
            answers (s2.setThread s0.cur (({ u.setOwed r with replay := th.replay ++ [e] } : Thread).advance s.time 1))) ∧
        (∀ q, check = .trap q → answers { s1.trap th q with cur := s.cur, ir := s.ir }) ∧
        (check = .poisoned → answers { s1.trap th ⟨11, 2, 3, wd acc.addr⟩ with cur := s.cur, ir := s.ir })
      (CanIssue s i th → preCheck s s.cur th acc .atomic true = none →
        let s1 := s.count (coreOf s.cur) 9 ([acc].filter (missesL1 s s.cur th)).length
        (missesL1 s s.cur th acc = true → sharedMiss s1 s.cur th acc = none → exec i s = .next (s1.put { th with check := some s.ir })) ∧
        (missesL1 s s.cur th acc = true → ∀ va, (sharedMiss s1 s.cur th acc = some (va, .absent) → exec i s = .next (s1.trap th ⟨8, 0, 3, wd acc.addr⟩)) ∧
          (sharedMiss s1 s.cur th acc = some (va, .poisoned) → exec i s = .next (s1.trap th ⟨11, 2, 3, wd acc.addr⟩))) ∧
        (missesL1 s s.cur th acc = false → decides s (fun s' => exec i s = .next s'))) ∧
      (∀ loc c picks, s.thread loc = some th → th.check = some c → th.stopped s loc = false → decode c = .ok i → checkWaits s loc th i = false →
        (∀ x, checkWalk s loc th i none = some x →
          exec (.storeCheckReturn ⟨loc, picks, []⟩) s = .next (shareWalk s (dieOf loc) th.part th.asid x.2.2.1)) ∧
        (checkWalk s loc th i none = none →
          decides { s with cur := loc, ir := c, picks := picks } (fun s' => exec (.storeCheckReturn ⟨loc, picks, []⟩) s = .next s')))
    let n := if w then 8 else 4
    takes (.amoAdd p d a w t f) n d 0 ∧ takes (.amoMin p d a w t f) n d 0 ∧ takes (.amoMax p d a w t f) n d 0 ∧
    takes (.amoMinn p d a w t f) n d 0 ∧ takes (.amoMaxn p d a w t f) n d 0 ∧ takes (.amoAnd p d a w t f) n d 0 ∧
    takes (.amoOr p d a w t f) n d 0 ∧ takes (.amoXor p d a w t f) n d 0 ∧ takes (.amoXchg p d a w t f) n d 0 ∧
    takes (.amoFaddS p d a t f) 4 d 0 ∧ takes (.amoFaddBf p d a t f) 4 d 0 ∧
    takes (.cas p d2 a w t f) n (evenReg d2) (th.gpr (evenReg d2 + 1))

/-- An atomic is performed once, where no earlier access of its thread touches its bytes, and no store of them buffered in SB(t) before it; one
that `tret` has issued again makes its check first (R84, R104): the old value becomes its entry's,
the new one stands in memory (none for a `cas` that does not compare equal), every other byte as before (R81, R104, R183, R282). That the
maximal write read is the newest where nothing else is chosen is log entry 21. -/
def Obligations.AtomicsPerform : Prop :=
  ∀ (s : State) (loc : Nat) (t : Thread) (e : ReplayEntry) (p : BitVec 3) (d a : Reg) (w g : Bool) (f : BitVec 5) (d2 : BitVec 5),
    memoryCanonical s → s.thread loc = some t → waitingEntry t e.id (·.isAtomic) = some e →
    let performs := fun (i : Instr) (size : Nat) (new : Nat → Nat → Nat → Option Nat) => e.instr = some i → ∀ acc xs as,
      formAddress p.toNat e.src1 0 size = .ok acc →
      let known := e.places.any (fun p => p.1 == acc.addr)
      let s0 : State := { s with picks := [] }
      (known = false → missesL1 s0 loc t acc = true → walkWaits s0 (dieOf loc) t.part t.asid acc.addr acc.size = false) →
      let s1 := if known then s0 else walkFor s0 loc t acc
      checkedBytes s1 loc t e acc .atomic true = .ok xs as →
      let t1 := if known then t else comparedTags s1 loc t acc true xs as
      xs = span (xs.headD 0) size →
      olderTouches s1 loc t1 e.id xs = false → t.olderStore e.id xs = false →
      (releases (ordOf f) = true → ∀ x ∈ t.sb, e.id ≤ x.id) →
      watchBlocked s1 xs (sliceFor loc (attrAt as 0).c) 0 = false →
      (∀ x ∈ xs, placeReady s1 (dieOf loc) (attrAt as 0).c true x = true ∧ s1.poisoned x = false ∧ s1.resolve (.thread loc) x = x ∧
        valueOf (wsGet s x) (newestId (wsGet s x)) = memGet s.mem x) →
      mayChoose s (if ordOf f = 4 then fMerge s t1.front ((alGet s.fsc (fscKey (.thread loc) (scopeOf f))).getD []) else t1.front) true
        (newestChoice s xs) = true →
      let n := 8 * size
      let old := ofBytes (xs.map (memGet s.mem))
      ∃ s' u, exec (.atomicPerform loc e.id ⟨[], []⟩) s = .next s' ∧ s'.thread loc = some u ∧ u.g = t.g ∧ u.gs = t.gs ∧ u.sb = t.sb ∧
        (∃ h ∈ u.replay, h.id = e.id ∧ h.state = .done ∧ h.value = wd old) ∧
        (∀ v, new old (bits e.src2 0 n) (bits e.src3 0 n) = some v → ofBytes (xs.map (memGet s'.mem)) = v % 2 ^ n) ∧
        (new old (bits e.src2 0 n) (bits e.src3 0 n) = none → s'.mem = s.mem) ∧
        (∀ x, x ∉ xs → memGet s'.mem x = memGet s.mem x)
    let c := if w then 8 else 4
    let sg := toSigned (8 * c)
    let add := fun (k : Fmt) (x y : Nat) => (k.add 0 (k.decode x) (k.decode y)).1
    performs (.amoAdd p d a w g f) c (fun old y _ => some (old + y)) ∧
    performs (.amoMin p d a w g f) c (fun old y _ => some (ofInt (8 * c) (min (sg old) (sg y)))) ∧
    performs (.amoMax p d a w g f) c (fun old y _ => some (ofInt (8 * c) (max (sg old) (sg y)))) ∧
    performs (.amoMinn p d a w g f) c (fun old y _ => some (min old y)) ∧ performs (.amoMaxn p d a w g f) c (fun old y _ => some (max old y)) ∧
    performs (.amoAnd p d a w g f) c (fun old y _ => some (old &&& y)) ∧ performs (.amoOr p d a w g f) c (fun old y _ => some (old ||| y)) ∧
    performs (.amoXor p d a w g f) c (fun old y _ => some (old ^^^ y)) ∧ performs (.amoXchg p d a w g f) c (fun _ y _ => some y) ∧
    performs (.amoFaddS p d a g f) 4 (fun old y _ => some (add f32 old y)) ∧
    performs (.amoFaddBf p d a g f) 4 (fun old y _ => some (add bf16 (old % 2 ^ 16) (y % 2 ^ 16) + add bf16 (old / 2 ^ 16) (y / 2 ^ 16) * 2 ^ 16)) ∧
    performs (.cas p d2 a w g f) c (fun old y z => if old = y then some z else none)

/-- `mkd` builds a descriptor from a pointer and a control word and traps where the pointer is not canonical, the range
leaves the address space or the scale is above 4, in this order; `dnar` narrows one in place (R276, R277). -/
def Obligations.Descriptors : Prop :=
  (∀ (k : BitVec 4) (a b : Reg) (t u : Bool) (z : BitVec 2) (f : Nat), f = 12 ∨ f = 13 →
    decode (rrWord 0x3B (16 * z.toNat + k.toNat) a.toNat b.toNat t u f) =
      if z ≠ 0 then .error .fields else .ok (if f = 12 then .mkd k a b t u else .dnar k a b t u)) ∧
  ∀ (s : State) (th : Thread) (k : BitVec 4) (a b : Reg) (t u : Bool),
    let x := th.gpr a
    let y := th.gpr b
    let d := th.dReg k
    let canon := bits x 60 4 = 0
    let fits := bits x 0 48 + bits y 0 40 ≤ 2 ^ 48
    let builds := fun (i : Instr) (P : BitVec 128 → Prop) => ∃ v : BitVec 128, descValid v = true ∧ P v ∧ RunsTo s i th { th with d := th.d.set k.toNat v } 1
    (¬ canon → Answers s (.mkd k a b t u) th (s.trap th ⟨5, 0, wd (bits x 60 4), x⟩)) ∧
    (canon → ¬ fits → Answers s (.mkd k a b t u) th (s.trap th ⟨5, 1, 0, x⟩)) ∧
    (canon → fits → 4 < bits y 40 3 → Answers s (.mkd k a b t u) th (s.trap th ⟨1, 0, wd (0x600 + bits y 40 3), 0⟩)) ∧
    (canon → fits → bits y 40 3 ≤ 4 → builds (.mkd k a b t u) (fun v =>
      descBase v = bits x 0 48 ∧ descLength v = bits y 0 40 ∧ descScale v = bits y 40 3 ∧ descRd v = bit y 43 ∧ descWr v = bit y 44 ∧
      descOob v = bit y 45 ∧ descTag v = bits x 56 4)) ∧
    (descValid d = false → Answers s (.dnar k a b t u) th (s.trap th ⟨7, 0, wd (0x100 + k.toNat), 0⟩)) ∧
    (descValid d = true → descLength d < x.toNat → Answers s (.dnar k a b t u) th (s.trap th ⟨7, 0, wd (0x100 + k.toNat), x⟩)) ∧
    (descValid d = true → x.toNat ≤ descLength d → builds (.dnar k a b t u) (fun v =>
      descBase v = (descBase d + x.toNat) % 2 ^ 48 ∧ descLength v = min (bits y 0 40) (descLength d - x.toNat) ∧
      descScale v = descScale d ∧ descRd v = (descRd d && bit y 43) ∧ descWr v = (descWr d && bit y 44) ∧ descOob v = (descOob d || bit y 45) ∧
      descTag v = descTag d))

/-! ## Synchronisation (R36, R181, R185, R187, R234, R281 to R291) -/

/-- Fences, drains and cache maintenance: `fence` merges what it meets, marks the thread's later writes and moves the
generation on; `qfence` and `drain` wait for the queues and non-temporal stores and go on; `cwb`, `cinv` and `icinv` check
their range and leave no modified copy, no copy, no fetched line of it, and where writebacks have been sent the thread goes on once they
have been answered (R108, R113, R181, R182, R185, R281, R283 to R285).
`arrive`: the local word gains the operand at once, every other byte as before; misaligned it traps, and it waits for the
thread's stores (R288, R382). That the generations move on here, and that the lines of a range are written back in one move, are the model's
readings (log entries 30 and 33); that `arrive` reads the newest write of its word where no other is named is log entries 1 and 21. -/
def Obligations.FencesAndMaintenance : Prop :=
  (∀ (s : State) (th : Thread) (o m : BitVec 5) (a b : Reg) (t u : Bool),
     (let order := ordOf o
      let scope := scopeOf o
      let F := if order = 4 then fMerge s th.front ((alGet s.fsc (fscKey (.thread s.cur) scope)).getD []) else th.front
      let die := acquires order = true ∧ 2 ≤ scope ∧ scope ≤ 3
      let pkg := acquires order = true ∧ 4 ≤ scope
      CanIssue s (.fence o) th →
       (releases order = true → th.sb ≠ [] → exec (.fence o) s = .next (s.put { th with rep := none })) ∧
       ((releases order = true → th.sb = []) → ∃ s' v, exec (.fence o) s = .next s' ∧ s'.thread s.cur = some v ∧ s'.mem = s.mem ∧
         s'.wsets = s.wsets ∧ v = { th.advance s.time 1 with
           front := if acquires order then meetAll s F th.obs (.thread s.cur) scope else F
           obs := if acquires order then [] else th.obs
           fence := if releases order then some ⟨th.front, scope, .thread s.cur⟩ else th.fence } ∧
         (s'.core (coreOf s.cur)).genDie = (s.core (coreOf s.cur)).genDie + (if die then 1 else 0) ∧
         (s'.core (coreOf s.cur)).genPkg = (s.core (coreOf s.cur)).genPkg + (if pkg then 1 else 0))) ∧
     (let codes := (List.range 5).filter (fun q => bit m q)
      let F := (th.joined.filter (fun j => codes.contains j.1)).foldl (fun F j => fMerge s F j.2) th.front
      (codes.any (hasEntry s s.cur th) = false → RunsTo s (.qfence m) th { th with front := F } 1) ∧
      (codes.any (hasEntry s s.cur th) = true → Answers s (.qfence m) th (s.put { th with rep := none }))) ∧
     (th.nt = [] → RunsTo s .drain th th 1) ∧ (th.nt ≠ [] → Answers s .drain th (s.put { th with rep := none })) ∧
     (let x := th.gpr a
      let n := (th.gpr b).toNat
      let rs := cachedRanges s s.cur th (bits x 0 48) n
      ∀ i, i ∈ [.cwb a b t u, .cinv a b t u, .icinv a b t u] → CanIssue s i th →
       (bits x 60 4 ≠ 0 → exec i s = .next (s.trap th ⟨5, 0, wd (bits x 60 4), x⟩)) ∧
       (bits x 60 4 = 0 → 2 ^ 30 < n → exec i s = .next (s.trap th ⟨7, 0, 0, th.gpr b⟩)) ∧
       (bits x 60 4 = 0 → n ≤ 2 ^ 30 → (i ≠ .icinv a b t u →
           buffered th rs = false ∧ underWay s (dieOf s.cur) rs = false ∧ heldBusy s (dieOf s.cur) rs = false) → ∃ s' v, exec i s = .next s' ∧
         s'.thread s.cur = some v ∧ v.g = th.g ∧ s'.mem = s.mem ∧
         (i = .icinv a b t u ∨ underWay s' (dieOf s.cur) rs = false → v.pc = (th.advance s.time 1).pc ∧ v.check = none) ∧
         (i ≠ .icinv a b t u → underWay s' (dieOf s.cur) rs = true → v.pc = th.pc ∧ v.check = some s.ir) ∧
         (i = .cwb a b t u → ∀ l ∈ s'.l2, l.die = dieOf s.cur → lineIn rs l.pa = true → l.modified = false) ∧
         (i = .cinv a b t u → (∀ l ∈ s'.l2, l.die = dieOf s.cur → lineIn rs l.pa = false) ∧
           (∀ l ∈ s'.l1d, l.core = coreOf s.cur → lineIn rs l.pa = false)) ∧
         (i = .icinv a b t u → ∀ l ∈ s'.l1i, l.core = coreOf s.cur → lineIn rs l.pa = false))) ∧
     (∀ loc c i picks, i ∈ [.cwb a b t u, .cinv a b t u] → s.thread loc = some th → th.check = some c → th.stopped s loc = false → decode c = .ok i →
       let rs := cachedRanges s loc th (bits (th.gpr a) 0 48) (th.gpr b).toNat
       (underWay s (dieOf loc) rs = true → exec (.storeCheckReturn ⟨loc, picks, []⟩) s = .next s) ∧
       (underWay s (dieOf loc) rs = false → exec (.storeCheckReturn ⟨loc, picks, []⟩) s = .next (s.setThread loc (th.advance s.time 1))))) ∧
  (∀ (s : State) (th : Thread) (k : BitVec 3) (a b : Reg) (t u : Bool), k ≠ 0 → memoryCanonical s → CanIssue s (.arrive k a b t u) th →
     let off := (th.gpr a).toNat
     let acc : Access := ⟨k.toNat, off, 8, 0⟩
     (off % 8 ≠ 0 → exec (.arrive k a b t u) s = .next (s.trap th ⟨4, 0, 3, th.gpr a⟩)) ∧
     (preCheck s s.cur th acc .atomic true = none → th.sb ≠ [] → exec (.arrive k a b t u) s = .next (s.put { th with rep := none })) ∧
     (preCheck s s.cur th acc .atomic true = none → th.sb = [] → ∀ x, localBytes (windowsOf s s.cur th) k.toNat off 8 = .ok (span x 8) →
       0 < bankOf x → bankOf (x + 7) = bankOf x → s.poisoned x = false → x % 8 = 0 →
       (∀ y ∈ span x 8, valueOf (wsGet s y) (newestId (wsGet s y)) = memGet s.mem y) →
       mayChoose s th.front true (newestChoice s (span x 8)) = true → readsEarly s s.cur th (span x 8) = false → takenFor s (span x 8) = [] →
       ∃ s' v, exec (.arrive k a b t u) s = .next s' ∧ s'.thread s.cur = some v ∧ v.pc = (th.advance s.time 1).pc ∧ v.g = th.g ∧
         peek s' x 8 = (peek s x 8 + (th.gpr b).toNat) % 2 ^ 64 ∧ (∀ y, y ∉ span x 8 → memGet s'.mem y = memGet s.mem y)))

/-- Barriers and gangs: a thread of a group stands at its barrier, opening a generation where none is open; a complete
generation releases every thread that stands; `muster` waits for its gang, which forms with zero accumulators; `disband`
leaves once the gang's entries are done (R36, R96, R289 to R291). When a thread comes to stand, and that a gang forms once the
row's picks of the cycle are over, are the model's readings (log entries 30 and 32); that `disband` of a member whose gang is broken or gone
completes as any other is log entry 28. -/
def Obligations.BarriersAndGangs : Prop :=
  ∀ (s : State) (th : Thread) (d a : Reg) (t : Bool),
    (∀ (i : Instr) (n : Option Nat), (i = .bar ∧ n = none) ∨ (i = .barc a t ∧ n = some (th.gpr a).toNat) →
      (th.released = true → RunsTo s i th { th with atBar := false, released := false } 1) ∧
      (th.released = false → th.spawned = true ∨ th.grp.bind s.group = none → Answers s i th (s.trap th ⟨9, 0, 0x700, 0⟩)) ∧
      (∀ g, th.released = false → th.spawned = false → th.grp.bind s.group = some g →
        (g.barrier ≠ none → Answers s i th (s.put { th with atBar := true, rep := none })) ∧
        (g.barrier = none → n.all (· ≤ groupSize s g) = true →
          Answers s i th ((s.setGroup { g with barrier := some ⟨n⟩ }).put { th with atBar := true, rep := none })) ∧
        (g.barrier = none → n.all (· ≤ groupSize s g) = false → Answers s i th (s.trap th ⟨7, 0, 0x800, th.gpr a⟩)))) ∧
    (∀ (k : Nat) (g : Group) (b : Barrier), (s.threads.map (·.1)).Nodup → s.group k = some g → g.barrier = some b →
      (match b.target with | some n => n | none => placedLeft s k) ≤ (standing s k).length → (∀ e ∈ standing s k, e.2.sb = []) →
      ∃ s', exec (.barrierCompletion k) s = .next s' ∧ s'.group k = some { g with barrier := none } ∧ s'.mem = s.mem ∧
        (∀ e ∈ standing s k, ∃ F, s'.thread e.1 = some { e.2 with released := true, front := F }) ∧
        (∀ l, l ∉ (standing s k).map (·.1) → s'.thread l = s.thread l)) ∧
    (∀ n, th.gang = some n → Answers s (.muster d) th (s.trap th ⟨12, 4, wd n, 0⟩)) ∧
    (th.gang = none → Answers s (.muster d) th ({ s with fresh := s.fresh + 1 }.put { th with muster := some ⟨s.fresh, s.time, d⟩, rep := none })) ∧
    (∀ row ms n, nextGang s row = some ms → freeGang s row = some n →
      (s.mon.throttled = true ∨ ∀ c ∈ span (4 * row) 4, portOwed s c true = false) →
      ∃ s', exec (.gangFormation row) s = .next s' ∧
        (∀ e ∈ ms, ∃ F, s'.thread e.1 = some (({ e.2.1.setG e.2.2.dst (wd n) with muster := none, gang := some n, front := F } : Thread).advance s.time 1)) ∧
        (∀ i < 131072, memGet s'.mem (accBase row + 131072 * n + i) = 0) ∧
        (∀ x, x < accBase row + 131072 * n ∨ accBase row + 131072 * (n + 1) ≤ x → memGet s'.mem x = memGet s.mem x)) ∧
    (th.gang.bind (s.gangOf (rowOf s.cur)) = none → RunsTo s .disband th { th with gang := none } 1) ∧
    (∀ g, th.gang.bind (s.gangOf (rowOf s.cur)) = some g → CanIssue s .disband th →
      (s.cmds.any (fun c => c.queue == mxQueue g.row g.num) = true → exec .disband s = .next (s.put { th with rep := none })) ∧
      (s.cmds.any (fun c => c.queue == mxQueue g.row g.num) = false → ∃ s', exec .disband s = .next s' ∧ s'.mem = s.mem ∧
        s'.thread s.cur = some (({ th with gang := none } : Thread).advance s.time 1) ∧
        ∀ h ∈ s'.gangs, h.row = g.row → h.num = g.num → s.cur ∈ h.left))

/-! ## Spawning and tags (R126 to R128, R156, R157, R246, R247, R327, R328) -/

/-- `spawn` checks its handler and target and sends g1 to g4; the message starts a thread at its core, or the first core of its cluster with inbox room, waits in the inbox or
is refused, and the entry is done with the status; an inbox's head starts when it can; `taga` takes an entry that memory die
0 fulfils, those of one cycle in rising order of the locator; `tagf` of no live range only goes on, and waits for the next
cycle behind an arrival of its own (R33, R127, R128, R156, R159, R246, R247, R327, R328). The table entry that is taken, the heads past a
deadline and what a launch's charge holds are the model's choices (log entries 26, 47 and 65). -/
def Obligations.SpawnsAndTags : Prop :=
  ∀ (s : State) (th : Thread) (d a b : Reg) (t u : Bool),
    (∀ i k, (i = .spawn d a b t u ∧ k = bits (th.gpr b) 0 10 / 8) ∨ (i = .spawnCl d a b t u ∧ k = bits (th.gpr b) 0 7) → CanIssue s i th →
      let h := th.gpr a
      let mine := ∃ p, s.partition th.part = some p ∧ p.hasCluster k = true
      (bits h 48 16 ≠ 0 → exec i s = .next (s.trap th ⟨5, 0, wd (bits h 48 16), 0⟩)) ∧
      (bits h 48 16 = 0 → bits h 0 2 ≠ 0 → exec i s = .next (s.trap th ⟨4, 0, 4, h⟩)) ∧
      (bits h 48 16 = 0 → bits h 0 2 = 0 → ¬ mine → exec i s = .next (s.trap th ⟨9, 0, th.gpr b, 0⟩)) ∧
      (bits h 48 16 = 0 → bits h 0 2 = 0 → mine → (∀ r ∈ [1, 2, 3, 4], th.regState r = .full) → th.sb = [] →
        ∃ s' e m, exec i s = .next s' ∧ s'.mem = s.mem ∧
          s'.thread s.cur = some (({ th.setOwed d with replay := th.replay ++ [e] } : Thread).advance s.time 1) ∧ e.dst = d ∧ e.word = s.ir ∧
          s'.spawns = s.spawns ++ [m] ∧ m.handler = h ∧ m.parent = s.cur ∧ m.entry = e.id ∧ m.super = th.super ∧ m.asid = th.asid ∧
          m.args.toList = [th.gpr 1, th.gpr 2, th.gpr 3, th.gpr 4])) ∧
    (∀ m c, s.spawns.find? (fun x => x.id == m.id) = some m →
      (m.cluster = false ∧ c = m.target) ∨ (m.cluster = true ∧ c / 8 = m.target ∧ (s.core c).inbox.length < Config.inboxDepth ∧
        ∀ e < c, e / 8 = m.target → Config.inboxDepth ≤ (s.core e).inbox.length) →
      let r := fun (v : Word) (s' : State) => ∀ p e, s.thread m.parent = some p → e ∈ p.replay → e.id = m.entry →
        ∃ q f, s'.thread m.parent = some q ∧ f ∈ q.replay ∧ f.id = e.id ∧ f.state = .done ∧ f.value = v
      let free := (s.core c).inbox = [] ∧ canStart { s with spawns := s.spawns.filter (fun x => x.id != m.id) } c m = true
      let room := (s.core c).inbox.length < Config.inboxDepth ∧
        chargeFits { s with spawns := s.spawns.filter (fun x => x.id != m.id) } m.part m.launchNum 64 = true
      ∃ s', exec (.spawnMessageArrival m.id) s = .next s' ∧
        (free → r (wd ((c * 65536) + (freeContexts s c).headD 0 * 2 ^ 32)) s' ∧ ((freeContexts s c).headD 0 ≠ m.parent →
          ∃ v, s'.thread ((freeContexts s c).headD 0) = some v ∧ v.pc = BitVec.ofNat 48 m.handler.toNat ∧ v.gpr 1 = m.args[0] ∧ v.gpr 4 = m.args[3])) ∧
        (¬ free → room → r (wd (1 + c * 65536)) s' ∧ (s'.core c).inbox = (s.core c).inbox ++ [m]) ∧
        (¬ free → ¬ room → r 2 s' ∧ (s'.core c).inbox = (s.core c).inbox)) ∧
    (∀ m, s.spawns.find? (fun x => x.id == m.id) = some m → m.cluster = true → (∀ e, e / 8 = m.target → Config.inboxDepth ≤ (s.core e).inbox.length) →
      ∃ s', exec (.spawnMessageArrival m.id) s = .next s' ∧ ∀ p e, s.thread m.parent = some p → e ∈ p.replay → e.id = m.entry →
        ∃ q f, s'.thread m.parent = some q ∧ f ∈ q.replay ∧ f.id = e.id ∧ f.state = .done ∧ f.value = 2) ∧
    (∀ c m rest, (s.core c).inbox = m :: rest → canStart (s.mapCore c (fun k => { k with inbox := rest })) c m = true →
      pastDeadline s m.grp = false →
      ∃ s' v, exec (.inboxHeadStart c) s = .next s' ∧ s'.thread ((freeContexts s c).headD 0) = some v ∧ (s'.core c).inbox = rest ∧
        v.pc = BitVec.ofNat 48 m.handler.toNat ∧ v.super = m.super ∧ v.asid = m.asid ∧ v.gpr 1 = m.args[0] ∧ v.gpr 2 = m.args[1] ∧
        v.gpr 3 = m.args[2] ∧ v.gpr 4 = m.args[3] ∧ v.info = wd m.parent) ∧
    (Answers s (.taga d a b t u) th ({ s with fresh := s.fresh + 1 }.put (({ th.setOwed d with replay := th.replay ++
      [(⟨s.fresh, s.ir, wd th.here.toNat, th.gpr a, th.gpr b, 0, d, .pending, 0, .waiting, none, 0, s.time, false, 0, [], [], none⟩ : ReplayEntry)] } : Thread).advance s.time 1))) ∧
    (∀ loc v e p, s.thread loc = some v → e ∈ v.replay → e.state = .pending → e.mark = none → decode e.word = .ok (.taga d a b t u) →
      (∀ f ∈ v.replay, f.id = e.id → f = e) → s.partition v.part = some p → s.overtaken 1 v.part loc = false →
      let n := e.src1.toNat
      let k := e.src2.toNat
      let rs := tagRanges s p
      let gives := fun (s1 : State) (x : Word) => exec (.tagAllocation loc e.id) s =
        .next ((s1.ranked 1 v.part loc).setThread loc (v.mapEntry e.id (fun y => { y with state := .done, flight := .read, value := x })))
      (n = 0 ∨ 65536 < n → gives s 0x8000000000000002) ∧
      (0 < n → n ≤ 65536 → k < 10 ∨ 30 < k → gives s 0x8000000000000003) ∧
      (0 < n → n ≤ 65536 → 10 ≤ k → k ≤ 30 →
        (∀ q i, freeBase rs (ceilDiv n 64) = some q → freeEntry rs = some i →
          gives (devWrite s (p.tagtab + 16 * i) (tagWords q (ceilDiv n 64) k v.launchNum true) none) (wd q) ∧
          ∀ r ∈ rs, q + 64 * ceilDiv n 64 ≤ r.base ∨ r.base + 64 * r.units ≤ q) ∧
        (freeBase rs (ceilDiv n 64) = none ∨ freeEntry rs = none → gives s 0x8000000000000001))) ∧
    (let range := (s.partition th.part).bind (fun p => (rangeAt s p (bits (th.gpr a) 0 32) (ceilDiv (th.gpr b).toNat 64)).map (fun r => (p, r)))
     (range = none → RunsTo s (.tagf a b t u) th th 1) ∧
     (∀ p r, range = some (p, r) → tagfBlocked s p r = true → Answers s (.tagf a b t u) th (s.put { th with rep := none })) ∧
     (∀ p r, range = some (p, r) → tagfBlocked s p r = false → Answers s (.tagf a b t u) th ((killRange s p r).put (th.advance s.time 1))))

/-! ## Supervisor instructions (R105, R115, R139, R147, R148, R151, R294 to R302) -/

/-- `unpark`, `stop` and `kill` of the thread a name designates: outside the partition's clusters they take the permission
trap; the status is 2 where there is no such thread, 3 where it is held, 1 where there is nothing to change, else 0 with the
change made, whether the thread is in a context, saved, or the one that issues; a wait issued again counts its timeout afresh, an
entry issued again its L1 misses (R172) and shares the outcome of a walk outstanding (R105, R146), and `kill` waits while the buffered stores of the thread cannot land (R139, R192, R287, R294 to R296, R301). The status of a saved thread
that is held, and what becomes of a killed thread's commands, are the model's readings (log entries 43 and 44). -/
def Obligations.ThreadControl : Prop :=
  ∀ (s : State) (th : Thread) (d a : Reg) (t : Bool),
    let v := th.gpr a
    let loc := bits v 0 17
    let up := fun (x : Thread) => if x.held.isSome then 3 else if x.replay.any (fun e => e.state == .faulted) || x.stop then 0 else 1
    let st := fun (x : Thread) => if x.held.isSome then 3 else if x.stop then 1 else 0
    let su := fun (x : Thread) => if x.held.isSome then 3 else if x.stop then 0 else 1
    let again := fun (l : Nat) (x : Thread) => { x with
      stop := false
      replay := x.replay.map (fun e => if e.state == .faulted then
        joinMiss s l x { e with state := .pending, flight := .waiting, mark := none, since := s.time, places := [], got := [], walk := none } else e) }
    let missed := fun (l : Nat) (x : Thread) => if up x = 0 then countAgain s l x (·.state == .faulted) else s
    let gives := fun (i : Instr) (s1 : State) (n : Nat) => Answers s i th (s1.put ((th.setG d (wd n)).advance s.time 1))
    let kills := fun (l : Nat) (x : Thread) (P : State → Prop) => CanIssue s (.kill a t) th → killBlocked s l x = false →
      ∃ s', exec (.kill a t) s = .next s' ∧ P s'
    (outside s th v = true → ∀ i ∈ [.unpark d a t, .stop d a t, .kill a t], Answers s i th (s.trap th ⟨9, 0, wd loc, 0⟩)) ∧
    (outside s th v = false →
      (named s th.part v = .none → gives (.unpark d a t) s 2 ∧ gives (.stop d a t) s 2 ∧ RunsTo s (.kill a t) th th 1) ∧
      (∀ l x, named s th.part v = .live l x → l ≠ s.cur →
        gives (.unpark d a t) (if up x = 0 then (missed l x).setThread l (again l x) else s) (up x) ∧
        gives (.stop d a t) (if st x = 0 then s.setThread l { x with stop := true } else s) (st x) ∧
        (killBlocked s l x = true → Answers s (.kill a t) th (s.put { th with rep := none })) ∧
        kills l x (fun s' => s'.thread l = none ∧ ∃ y, s'.thread s.cur = some y ∧ y.pc = (th.advance s.time 1).pc ∧ y.g = th.g)) ∧
      (∀ x, named s th.part v = .live s.cur x →
        Answers s (.unpark d a t) th ((missed s.cur x).put (((if up x = 0 then again s.cur th else th).setG d (wd (up x))).advance s.time 1)) ∧
        Answers s (.stop d a t) th (s.put (((if st x = 0 then { th with stop := true } else th).setG d (wd (st x))).advance s.time 1)) ∧
        kills s.cur x (fun s' => s'.thread s.cur = none)) ∧
      (∀ x, named s th.part v = .saved x →
        gives (.unpark d a t) (if su x.thread = 0 then s.markSaved x false else s) (su x.thread) ∧
        gives (.stop d a t) (if st x.thread = 0 then s.markSaved x true else s) (st x.thread) ∧
        (CanIssue s (.kill a t) th → ∃ s', exec (.kill a t) s = .next s' ∧ s'.saved = s.saved.erase x ∧ s'.thread s.cur = some (th.advance s.time 1))))

/-- `reclaim` makes the checks of R297 in order, gives a poisoned line 64 bytes of the pantry, its entry then invalid with its fence bits
kept, and leaves any other line alone;
`cinv.t` leaves no translation of its range, and no line that came through one; `lsub` makes the fifteen checks of R148 in order and rejects a record with the code of the
first that fails, or makes the launch live under a number no live launch holds with its scoreboard in memory; `lprq` sets the
deadlines of resident groups; `lres` lets a saved launch be restored (R105, R115, R147, R148, R151, R161, R162, R297 to R300, R302). That
the checks of a code object's layout are part of check 9, and that a launch's own 65,536 bytes are charged, are the model's readings
(log entries 45 and 65); that a record that is not canonical, misaligned or unreadable answers error 1 is log entry 64, and that `cinv.t` waits for
every writeback of the partition's dies and every message that brings a line through the range log entry 33. -/
def Obligations.SupervisorInstructions : Prop :=
  ∀ (s : State) (th : Thread) (d a b : Reg) (t u : Bool), memoryCanonical s →
    let x := th.gpr a
    let waits := fun (i : Instr) => Answers s i th (s.put { th with rep := none })
    let gives := fun (i : Instr) (s1 : State) (v : Word) => Answers s i th (s1.put ((th.setG d v).advance s.time 1))
    (let y := th.gpr b
     let w := windowsOf s s.cur th
     let stops := fun (r : TrapReq) => Answers s (.reclaim a b t u) th (s.trap th r)
     (∀ r, formAddress 0 x 0 64 = .error r → stops r) ∧
     (∀ acc, formAddress 0 x 0 64 = .ok acc →
      let page := checkGlobal s (dieOf s.cur) th.part th.asid th.super .store none acc.addr 64
      (∀ va, page = .absent va → stops ⟨8, 0, 2, wd acc.addr⟩) ∧ (page = .poisoned → stops ⟨11, 2, 2, wd acc.addr⟩) ∧
      (∀ r, page = .trap r → stops r) ∧
      (∀ xs at', page = .ok xs at' →
        (bits x 0 6 ≠ 0 → stops ⟨4, 0, 2, x⟩) ∧
        (bits x 0 6 = 0 → bits y 0 6 ≠ 0 ∨ w.pantry = none ∨ w.share < y.toNat + 64 → stops ⟨7, 0, 2, y⟩) ∧
        (bits x 0 6 = 0 → bits y 0 6 = 0 → ∀ k, w.pantry = some k → y.toNat + 64 ≤ w.share →
          reclaimChecks s s.cur th x y = .ok (xs.headD 0 / 64, span (dynBase k + y.toNat) 64))))) ∧
    (∀ line ys, reclaimChecks s s.cur th x (th.gpr b) = .ok (line, ys) → th.sb = [] →
      (∀ y ∈ ys, s.poisoned (s.resolve (.thread s.cur) y) = false) → readsEarly s s.cur th ys = false → ∀ r, issueRead s s.cur th ys = some r → CanIssue s (.reclaim a b t u) th →
      ((s.dirEntry line).poison = false → ∃ s', exec (.reclaim a b t u) s = .next s' ∧ s'.mem = s.mem ∧ s'.dir = s.dir) ∧
      ((s.dirEntry line).poison = true → watchBlocked s (lineBytes line) none 5 = false → ∃ s', exec (.reclaim a b t u) s = .next s' ∧
        (s'.dirEntry line).poison = false ∧ (s'.dirEntry line).lost = false ∧ (s'.dirEntry line).state = 0 ∧ (s'.dirEntry line).holders = 0 ∧
        (s'.dirEntry line).fenced = (s.dirEntry line).fenced ∧
        (∀ k < 64, memGet s'.mem (64 * line + k) = r.2.2.getD k 0) ∧
        (∀ y, y / 64 ≠ line → memGet s'.mem y = memGet s.mem y))) ∧
    (th.sb ≠ [] → waits (.cinvT a b t u) ∧ waits (.lsub d a t)) ∧
    (∀ p, s.partition th.part = some p → th.sb = [] → translationWait s p = true ∨ comingThrough s p (tlbRange x (th.gpr b)) = true →
      waits (.cinvT a b t u)) ∧
    (∀ loc c p picks, s.thread loc = some th → th.check = some c → th.stopped s loc = false → decode c = .ok (.cinvT a b t u) →
      s.partition th.part = some p → translationWait s p = false →
      exec (.storeCheckReturn ⟨loc, picks, []⟩) s = .next (s.setThread loc (th.advance s.time 1))) ∧
    (∀ p, s.partition th.part = some p → th.sb = [] → translationWait s p = false → CanIssue s (.cinvT a b t u) th →
      let r := tlbRange x (th.gpr b)
      (linesGoing s p r).any (fun l => lineMsg s l.1 l.2) = false → comingThrough s p r = false →
      ∃ s' v, exec (.cinvT a b t u) s = .next s' ∧ s'.thread s.cur = some v ∧ v.g = th.g ∧
        (translationWait s' p = false → v.pc = (th.advance s.time 1).pc ∧ v.check = none) ∧
        (translationWait s' p = true → v.pc = th.pc ∧ v.check = some s.ir) ∧
        (∀ l ∈ s'.l2, p.dies.contains l.die = true → p.hasAddr (64 * l.pa) = true → lineGoes r (removedParts s p r) l.va l.asid l.attrs.g = false) ∧
        (∀ e ∈ s'.tlb, e.part = p.num → r.names e.asid e.attrs.g = true → r.overlaps (e.base * 2 ^ e.bits) (2 ^ e.bits) = false) ∧
        (∀ l ∈ s'.l1d, p.hasCluster (l.core / 8) = true → r.names l.asid l.attrs.g = true → r.overlaps (64 * l.va) 64 = false)) ∧
    (∀ p, s.partition th.part = some p →
      let record := superRead s s.cur th.part th.asid (bits x 0 48) 256
      (bits x 60 4 ≠ 0 ∨ bits x 0 6 ≠ 0 ∨ record = none → checkLaunch s s.cur th p x = .error 1) ∧
      (bits x 60 4 = 0 → bits x 0 6 = 0 → ∀ bs, record = some bs →
        let f := fun (o lo n : Nat) => ofBytes ((bs.drop o).take 8) / 2 ^ lo % 2 ^ n
        let ndep := f 24 40 3
        let v := fun (k j : Nat) => toSigned 4 (f 40 (12 * k + 4 * j) 4)
        let sw := fun (j : Nat) => toSigned 16 (f 48 (16 * j) 16)
        let total := f 16 0 16 * f 16 16 16 * f 16 32 16
        let need := f 16 48 11 * (f 24 0 13 + 1024) + f 24 16 22 + 3407872
        let code := f 0 0 48
        let header := superRead s s.cur th.part (f 8 32 16) code 256
        let g := fun (o lo n : Nat) => ofBytes (((header.getD []).drop o).take 8) / 2 ^ lo % 2 ^ n
        let table := superRead s s.cur th.part (f 8 32 16) (code + g 16 0 32) (16 * g 16 32 10)
        let bound := (List.range (g 16 32 10)).map (fun k => ofBytes (((table.getD []).drop (16 * k)).take 2) % 512)
        let asks := fun (k : Nat) => ((bs.drop (192 + k / 8)).headD 0).toNat.testBit (k % 8) ||
          (((header.getD []).drop (64 + k / 8)).headD 0).toNat.testBit (k % 8)
        let wellFormed : Prop := code % 256 = 0 ∧ header ≠ none ∧ g 0 0 32 = 0x1A4F4342 ∧ g 0 32 16 = 256 ∧
          (g 0 48 16 = 0 ∧ g 16 42 22 = 0 ∧ g 24 48 16 = 0 ∧ (∀ k < 256, (32 ≤ k ∧ k < 64) ∨ 128 ≤ k → (header.getD []).getD k 0 = 0)) ∧
          g 8 0 32 % 256 = 0 ∧ g 8 32 32 % 4 = 0 ∧ 4 ≤ g 8 32 32 ∧ 256 ≤ g 8 0 32 ∧ g 16 0 32 % 16 = 0 ∧ g 16 32 10 ≤ 512 ∧
          (g 16 32 10 = 0 ∨ 256 ≤ g 16 0 32) ∧ superMapped s s.cur th.part (f 8 32 16) (code + g 8 0 32) (g 8 32 32) = true ∧
          table ≠ none ∧ bound.Nodup
        let fails : Nat → Prop := fun c =>
          (c = 2 ∧ (f 0 48 16 ≠ 0 ∨ f 8 48 16 ≠ 0 ∨ f 16 59 5 ≠ 0 ∨ f 24 13 3 ≠ 0 ∨ f 24 43 21 ≠ 0 ∨ f 32 32 32 ≠ 0 ∨
            f 40 (12 * min 4 ndep) (64 - 12 * min 4 ndep) ≠ 0 ∨ f 48 48 16 ≠ 0 ∨ f 64 40 24 ≠ 0 ∨ f 72 40 24 ≠ 0 ∨ f 80 40 24 ≠ 0 ∨
            ∃ k, 88 ≤ k ∧ k < 192 ∧ bs.getD k 0 ≠ 0)) ∨
          (c = 3 ∧ (total = 0 ∨ 2 ^ 24 < total)) ∨
          (c = 4 ∧ (f 16 48 11 = 0 ∨ 1024 < f 16 48 11)) ∨
          (c = 5 ∧ (f 24 0 13 < 256 ∨ 4096 < f 24 0 13 ∨ f 24 0 13 % 256 ≠ 0 ∨ 2097152 < f 24 16 22 ∨ f 24 16 22 % 2048 ≠ 0)) ∨
          (c = 6 ∧ 262144 < f 24 16 22 / 8 + (f 16 48 11 + 7) / 8 * f 24 0 13) ∨
          (c = 7 ∧ (4 < ndep ∨ ∃ k < ndep, ∃ j < 3, v k j = -8)) ∨
          (c = 8 ∧ ∃ k < ndep, 0 ≤ sw 0 * v k 0 + sw 1 * v k 1 + sw 2 * v k 2) ∨
          (c = 9 ∧ ¬ wellFormed) ∨
          (c = 10 ∧ (g 8 32 32 ≤ f 8 0 32 ∨ f 8 0 32 % 4 ≠ 0)) ∨
          (c = 11 ∧ ∃ k < 512, asks k = true ∧ Config.deviceMask.testBit k = false ∧ ¬ (k ∈ bound ∧ k ≠ 0 ∧ k ≠ 13)) ∨
          (c = 12 ∧ (f 64 0 40 % 4096 ≠ 0 ∨ f 72 0 40 % 4096 ≠ 0 ∨ p.hasBytes (f 64 0 40) (f 72 0 40) = false ∨ f 72 0 40 < 65536 + need)) ∨
          (c = 13 ∧ (f 80 0 40 % 64 ≠ 0 ∨ p.hasBytes (f 80 0 40) ((total + 511) / 512 * 64 + (total + 63) / 64 * 64) = false)) ∨
          (c = 14 ∧ ndep ≠ 0 ∧ Config.deviceMask.testBit 13 = false) ∨
          (c = 15 ∧ 65535 ≤ (s.launches.filter (fun l => l.part == th.part)).length)
        (∀ c, fails c → (∀ e < c, ¬ fails e) → checkLaunch s s.cur th p x = .error c) ∧
        ((∀ c, ¬ fails c) → ∃ l, checkLaunch s s.cur th p x = .ok l ∧ l.part = th.part ∧ l.entry = code + g 8 0 32 + f 8 0 32 ∧
          l.asid = f 8 32 16 ∧ [l.gx, l.gy, l.gz] = [f 16 0 16, f 16 16 16, f 16 32 16] ∧ l.gsize = f 16 48 11 ∧ l.alcove = f 24 0 13 ∧
          l.hall = f 24 16 22 ∧ l.prio = f 24 38 2 ∧ l.yield = f 32 0 32 ∧ l.arg = wd (f 56 0 64) ∧ l.ctx = f 64 0 40 ∧
          l.ctxsize = f 72 0 40 ∧ l.board = f 80 0 40 ∧ l.sweep = (sw 0, sw 1, sw 2) ∧
          l.deps = (List.range ndep).map (fun k => (v k 0, v k 1, v k 2))))) ∧
    (∀ p, s.partition th.part = some p → th.sb = [] →
      (∀ c, checkLaunch s s.cur th p x = .error c → gives (.lsub d a t)
        { s with appends := s.appends ++ [⟨th.part, 0, none, wd (5 + 0xFFFF * 2 ^ 48), wd (bits x 0 48), wd c, none, false, false, []⟩] } (wd (2 ^ 63 + c))) ∧
      (∀ l, checkLaunch s s.cur th p x = .ok l → CanIssue s (.lsub d a t) th → ∃ s' n, exec (.lsub d a t) s = .next s' ∧
        s'.launches = s.launches ++ [{ l with num := n }] ∧ s'.thread s.cur = some ((th.setG d (wd n)).advance s.time 1) ∧
        ((∃ k < 65535, s.launchOf p.num k = none) → n < 65535 ∧ s.launchOf p.num n = none) ∧
        (∀ i < l.total, memGet s'.mem (l.countByte i) = BitVec.ofNat 8 (if (l.preds i).length = 0 then 8 else (l.preds i).length)) ∧
        (∀ k < l.bitmapBytes, memGet s'.mem (l.board + k) = 0))) ∧
    (let n := bits x 0 16
     (s.launchOf th.part n = none → gives (.lprq d a t) s 2 ∧ gives (.lres d a t) s 2) ∧
     (∀ l, s.launchOf th.part n = some l →
      (l.request = true ∨ l.saved = true ∨ l.restoring = true → gives (.lprq d a t) s 1) ∧
      (l.request = false → l.saved = false → l.restoring = false → CanIssue s (.lprq d a t) th → ∃ s' l', exec (.lprq d a t) s = .next s' ∧
        s'.thread s.cur = some ((th.setG d 0).advance s.time 1) ∧ s'.launchOf th.part n = some l' ∧ l'.request = true ∧
        ∀ g ∈ s.groups, g.part = l.part → g.launch = l.num → g.saved = false → { g with deadline := some (s.time + wd l.yield) } ∈ s'.groups) ∧
      (l.saved = false → gives (.lres d a t) s 1) ∧
      (l.saved = true → gives (.lres d a t) (s.setLaunch { l with
        request := false, saved := false, restoring := s.groups.any (fun g => g.part == l.part && g.launch == l.num && g.saved) }) 0)))

/-! ## Engine commands (R37, R119 to R123, R185, R303 to R305, R311) -/

/-- Issuing an engine command: a full queue stalls it; the checks of R38, R303, R304 and R318 are made in order and the first that
fails traps with its subcause; a named guard word is read first, and else the command enters its core's queue with its block and count
captured and its thread goes on; commands enter a core's queue in the order in which they issued, so that one waits while one before it
waits for its guard (R120); a gang command waits for its gang, whose one guard read all four members meet, and those of a row enter in the order in which their fourth members
issued (R37, R120, R122, R165, R185, R303 to R305, R311, R318). That a full queue stalls before the checks are made, and that the gang's
check comes first, are the model's readings (log entry 39). -/
def Obligations.EngineCommandsIssue : Prop :=
  ∀ (s : State) (th : Thread) (a b : Reg) (t u q x h : Bool) (c : BitVec 4),
    let core := [.cpy a b t u q, .qnt a b t u q, .gath a b t u, .scat a b t u, .slsend a b t u]
    let gang := [.tclm a t, .tld a b t u, .trel a t, .aclr a t, .acst a b t u, .acld a b t u, .mma a b t u c x h]
    let enters := fun (s' : State) (loc : Nat) (w : Code) (i : Instr) (n : Nat) => ∃ k : Command, s'.cmds = s.cmds ++ [k] ∧
      k.queue = 8 * coreOf loc + queueCode i ∧ k.owner = loc ∧ k.word = w ∧ k.a = th.gpr a ∧ k.b = th.gpr b ∧ k.block = blockOf th i ∧
      k.count = n ∧ k.started = false ∧ k.waits = th.sb.map (·.id) ∧ k.joins = th.nt.map (·.id)
    (∀ i ∈ core ++ gang, CanIssue s i th →
      let k := bits (th.gpr (commandRegs i).2) 0 4
      (queueFull s s.cur th (queueCode i) = true → exec i s = .next (s.put { th with rep := none })) ∧
      let n := if i ∈ [.cpy a b t u q, .qnt a b t u q, .slsend a b t u] then 5 else if i ∈ [.gath a b t u, .scat a b t u] then 6
        else if i ∈ [.tld a b t u, .acst a b t u, .acld a b t u] then 4 else if i = .mma a b t u c x h then 3 else 0
      let w := commandWindows s s.cur th i
      let outside := fun (space off : Nat) => match localBytes w space off 8 with | .error r => some r | .ok _ => (none : Option TrapReq)
      let ctl := (blockOf th i).getD 0 0
      let m := (blockOf th i).getD 2 0
      let arr := bits ctl 61 3
      let off := bits ctl 33 26
      let grd := bits ctl 30 3
      let goff := bits ctl 4 26
      let no : Option TrapReq := none
      let inGang := if i ∈ gang then
          match th.gang.bind (s.gangOf (rowOf s.cur)) with
          | none => some ⟨12, 3, 0, 0⟩
          | some g => (g.broken.or g.firstOut).map (fun l => (⟨12, 1, wd l, 0⟩ : TrapReq))
        else none
      let checks : List (Option TrapReq) := [inGang,
        if n ≠ 0 ∧ 16 < k + n then some ⟨12, 8, wd k, 0⟩ else no,
        if n ≠ 0 ∧ bits ctl 0 4 ≠ 0 then some ⟨12, 10, wd k, 0⟩ else no,
        if n ≠ 0 ∧ (arr ∈ [1, 5, 6, 7] ∨ (arr = 0 ∧ bit ctl 59 = true)) then some ⟨12, 7, wd arr, 0⟩ else no,
        if n ≠ 0 ∧ arr ≠ 0 ∧ off % 8 ≠ 0 then some ⟨4, 0, wd arr, wd off⟩ else no,
        if n ≠ 0 ∧ arr ≠ 0 then outside arr off else no,
        if n ≠ 0 ∧ arr ≠ 0 ∧ bit ctl 59 = true then outside arr (off + 8) else no,
        if n ≠ 0 ∧ grd ∈ [1, 5, 6, 7] then some ⟨12, 6, wd grd, 0⟩ else no,
        if n ≠ 0 ∧ grd ≠ 0 ∧ goff % 8 ≠ 0 then some ⟨4, 0, wd grd, wd goff⟩ else no,
        if n ≠ 0 ∧ grd ≠ 0 then outside grd goff else no,
        if i = .mma a b t u c x h ∧ ((h = true ∧ c ≠ 1 ∧ c ≠ 2) ∨ (h = true ∧ x = true) ∨ bits m 17 2 = 3 ∨
            (bit m 19 = true ∧ (c ≠ 6 ∨ x = true)) ∨ (x = true ∧ c = 5) ∨ 124 < bits m 24 8)
          then some ⟨12, 9, wd (0x40 + 4 * c.toNat + 2 * x.toNat + h.toNat), 0⟩ else no]
      (queueFull s s.cur th (queueCode i) = false →
        (∀ r, checks.findSome? id = some r → exec i s = .next (s.trap th r)) ∧
        (checks.findSome? id = none →
          (i ∈ core → guarded (blockOf th i) = true ∨ entersBefore s s.cur (queueCode i) s.fresh = true →
            exec i s = .next ({ s with fresh := s.fresh + 1 }.put { th with guard := some s.ir, stamp := s.fresh })) ∧
          (i ∈ core → guarded (blockOf th i) = false → entersBefore s s.cur (queueCode i) s.fresh = false → ∃ s', exec i s = .next s' ∧ s'.mem = s.mem ∧
            s'.thread s.cur = some (th.advance s.time 1) ∧ enters s' s.cur s.ir i (th.gpr a).toNat) ∧
          (i ∈ gang → exec i s = .next ({ s with fresh := s.fresh + 1 }.put { th with
            gangCmd := some ⟨s.ir, th.gpr a, th.gpr (commandRegs i).2, blockOf th i, s.fresh⟩ }))))) ∧
    (∀ loc w i, i ∈ core → s.thread loc = some th → th.guard = some w → th.stopped s loc = false → decode w = .ok i →
      (entersBefore s loc (queueCode i) th.stamp = true → exec (.guardReadReturn loc ⟨[], []⟩) s = .next s) ∧
      (entersBefore s loc (queueCode i) th.stamp = false → guarded (blockOf th i) = false → queueFull s loc th (queueCode i) = false →
        ∃ s' v, exec (.guardReadReturn loc ⟨[], []⟩) s = .next s' ∧ s'.mem = s.mem ∧ s'.thread loc = some v ∧ v.guard = none ∧
          v.pc = (th.advance s.time 1).pc ∧ v.g = th.g ∧ enters s' loc w i (th.gpr a).toNat)) ∧
    (∀ loc w i xs r, i ∈ core → s.thread loc = some th → th.guard = some w → th.stopped s loc = false → decode w = .ok i →
      entersBefore s loc (queueCode i) th.stamp = false → guarded (blockOf th i) = true →
      guardPlaces (windowsOf s loc th) ((blockOf th i).getD 0 0) = some xs → queueFull s loc th (queueCode i) = false →
      olderTouches s loc th s.fresh xs = false → (∀ x ∈ xs, th.forwards x = false → s.poisoned (s.resolve (.thread loc) x) = false) → readMove s loc th xs [] 1 (queueScope (queueCode i)) = some r →
      ∃ s' v, exec (.guardReadReturn loc ⟨[], []⟩) s = .next s' ∧ s'.mem = s.mem ∧ s'.thread loc = some v ∧ v.guard = none ∧
        v.pc = (th.advance s.time 1).pc ∧ v.g = th.g ∧ enters s' loc w i (min (th.gpr a).toNat (ofBytes r.2.2))) ∧
    (∀ row num g ms e rest i, s.gangOf row num = some g → gathered s g = some ms → ms = e :: rest → (ms.map (·.1)).Nodup →
      gatheredBefore s row num (lastStamp ms) = false →
      decode e.2.2.word = .ok i → i ∈ gang →
      (mismatch ms ≠ 0 → ∃ s', exec (.gangCommandEntry row num ⟨[], []⟩) s = .next s' ∧
        ∀ m ∈ ms, s'.thread m.1 = some { m.2.1 with gangCmd := none, trapReq := some ⟨12, 2, wd (mismatch ms), 0⟩ }) ∧
      (mismatch ms = 0 → badSlot s row num i e.2.2.a e.2.2.block = true → ∃ s', exec (.gangCommandEntry row num ⟨[], []⟩) s = .next s' ∧
        ∀ m ∈ ms, s'.thread m.1 = some { m.2.1 with gangCmd := none, trapReq := some ⟨12, 5, e.2.2.a, 0⟩ }) ∧
      (mismatch ms = 0 → badSlot s row num i e.2.2.a e.2.2.block = false → guarded e.2.2.block = false →
        ∃ s' k, exec (.gangCommandEntry row num ⟨[], []⟩) s = .next s' ∧ s'.cmds = s.cmds ++ [k] ∧ k.queue = mxQueue g.row g.num ∧
          k.word = e.2.2.word ∧ k.block = e.2.2.block ∧ k.count = e.2.2.a.toNat ∧ k.started = false ∧
          ∀ m ∈ ms, s'.thread m.1 = some (({ m.2.1 with gangCmd := none } : Thread).advance s.time 1)) ∧
      (mismatch ms = 0 → badSlot s row num i e.2.2.a e.2.2.block = false → guarded e.2.2.block = true →
        ∀ xs picks r, guardPlaces (windowsOf s e.1 e.2.1) (e.2.2.block.getD 0 0) = some xs → (∀ m ∈ ms, olderTouches s m.1 m.2.1 s.fresh xs = false) →
        (∀ x ∈ xs, e.2.1.forwards x = false → s.poisoned (s.resolve (.thread e.1) x) = false) → gangGuard s xs picks ms = some r →
        ∃ s' k, exec (.gangCommandEntry row num ⟨picks, []⟩) s = .next s' ∧ s'.mem = s.mem ∧ s'.cmds = s.cmds ++ [k] ∧ k.queue = mxQueue g.row g.num ∧
          k.word = e.2.2.word ∧ k.block = e.2.2.block ∧ k.count = min e.2.2.a.toNat (ofBytes r.2.2) ∧ k.started = false ∧
          ∀ m ∈ r.2.1, s'.thread m.1 = some (({ m.2.1 with gangCmd := none } : Thread).advance s.time 1)))

/-- The first command of its lane starts once its thread's earlier stores have drained, its thread not forced. A command whose
checks of space, format or geometry fail makes no access, its status telling which (R307). A command that is done or has failed writes
its status word, then its arrival word takes its value or gains the bytes of its rule, and it leaves its queue; entered with count 0 it
makes no access and writes no status word (R123, R166, R306). `tclm` zeroes a slot and claims it, `trel` frees it, `aclr` zeroes an
accumulator and clears its poison (R315, R323). Rules: R37, R39, R121, R123, R165 to R167, R185, R306, R307, R309, R310, R312, R315, R316,
R318, R323, R324. That a slot of a performed command stays while its gang is whole is R95; the order in which one cycle updates a word
is R167; which checks come first within geometry is log entry 41. -/
def Obligations.EngineCommandsRun : Prop :=
  (∀ (s : State) (c : Command),
    s.cmds.find? (fun x => x.id == c.id && !x.started) = some c → c.queue < savedQueue → firstInLane s c = true → c.waits = [] →
      slotClear s c = true → ownerForced s c = false → ∃ s' F, exec (.engineCommandStart c.id) s = .next s' ∧ s'.mem = s.mem ∧ s'.threads = s.threads ∧
        { c with started := true, front := F } ∈ s'.cmds) ∧
  (∀ (s : State) (c : Command) (picks : List (Nat × Nat)) (units : Nat) (a b : Reg) (t u q x h : Bool) (k : BitVec 4),
    let r := c.reg
    let f := fun (w : Word) => bits w 48 5
    let len := fun (w : Word) => 2 ^ (bits w 53 3 + 2)
    let fails := fun (e : Nat) => ∃ d, performCommand s c picks 0 units = .inl d ∧ d.st.mem = s.mem ∧ d.status.code = e
    let W := r 3
    c.nread = 0 → c.ended = none →
    (c.instr = some (.cpy a b t u q) →
      (5 ≤ bits (r 4) 0 3 ∨ 5 ≤ bits (r 4) 4 3 → fails 16) ∧
      (bits (r 4) 0 3 < 5 → bits (r 4) 4 3 < 5 →
        (19 ≤ f (r 2) ∨ 19 ≤ f (r 3) ∨ (f (r 2) = f (r 3) ∧ 14 ≤ f (r 2) ∧ len (r 2) ≠ len (r 3)) ∨
          (f (r 2) ≠ f (r 3) ∧ ¬ ((f (r 2) ∈ span 1 5 ∧ f (r 3) ∈ span 1 5) ∨ (f (r 2) ∈ span 6 8 ∧ f (r 3) ∈ span 6 8))) → fails 17) ∧
        (cpyFormats (f (r 2)) (f (r 3)) (len (r 2)) (len (r 3)) = true →
          bit (r 4) 3 = true ∨ 128 ≤ (r 4).toNat ∨ 2 ^ 32 ≤ c.count ∨ (14 ≤ f (r 2) ∧ (c.count % len (r 2) ≠ 0 ∨ bits (r 2) 0 6 ≠ 0 ∨ bits (r 3) 0 6 ≠ 0)) →
          fails 18))) ∧
    (∀ i, i = .gath a b t u ∨ i = .scat a b t u → c.instr = some i →
      (5 ≤ bits (r 5) 0 3 ∨ 5 ≤ bits (r 5) 4 3 ∨ 5 ≤ bits (r 5) 8 3 → fails 16) ∧
      (bits (r 5) 0 3 < 5 → bits (r 5) 4 3 < 5 → bits (r 5) 8 3 < 5 →
        let good := (f (r 3) = 4 ∨ f (r 3) = 5) ∧ f (r 2) = f (r 4) ∧
          (f (r 2) ∈ span 2 10 ∨ ((f (r 2) = 12 ∨ f (r 2) = 13) ∧ bits (r 5) 0 3 ≠ 0 ∧ bits (r 5) 8 3 ≠ 0))
        (¬ good → fails 17) ∧
        (good → bit (r 5) 3 = true ∨ bit (r 5) 7 = true ∨ 2 ^ 11 ≤ (r 5).toNat ∨ 2 ^ 24 < c.count → fails 18))) ∧
    (c.instr = some (.qnt a b t u q) →
      (5 ≤ bits (r 4) 24 3 ∨ 5 ≤ bits (r 4) 28 3 → fails 16) ∧
      (bits (r 4) 24 3 < 5 → bits (r 4) 28 3 < 5 →
        let good := (f (r 2) = 7 ∨ f (r 2) = 8) ∧ f (r 3) ∈ span 14 5
        let had := [1, 16, 32, 64].getD (bits (r 4) 20 2) 1
        (¬ good → fails 17) ∧
        (good → 2 ^ 31 ≤ (r 4).toNat ∨ bit (r 4) 27 = true ∨ bits (r 4) 22 2 ≠ 0 ∨ (f (r 3) = 14 ∧ bits (r 4) 16 4 = 0) ∨
          c.count % len (r 3) ≠ 0 ∨ c.count % had ≠ 0 ∨ 2 ^ 22 < c.count ∨ bits (r 3) 0 6 ≠ 0 → fails 18))) ∧
    (c.instr = some (.tld a b t u) →
      let shape := if f (r 2) = 9 then some (64, 64) else if f (r 2) = 8 then some (64, 128) else if f (r 2) = 6 ∨ f (r 2) = 7 then some (128, 128)
        else if f (r 2) = 14 then some (512, 128) else if f (r 2) ∈ [2, 10, 11, 12, 13, 15, 16, 17, 18] then some (256, 128) else none
      (5 ≤ bits W 40 3 → fails 16) ∧ (bits W 40 3 < 5 → shape = none → fails 17) ∧
      (bits W 40 3 < 5 → ∀ K rows, shape = some (K, rows) →
        bits W 57 7 ≠ 0 ∨ bit W 51 = true ∨ bit W 43 = true ∨ 128 < c.count ∨ rows < bits W 44 7 + c.count ∨
          (14 ≤ f (r 2) ∧ (K < len (r 2) ∨ 16 < K / len (r 2) ∨ bits (r 2) 0 6 ≠ 0)) → fails 18)) ∧
    (∀ i, i = .acst a b t u ∨ i = .acld a b t u → c.instr = some i →
      (5 ≤ bits W 40 3 → fails 16) ∧
      (bits W 40 3 < 5 → bits W 57 7 ≠ 0 ∨ bit W 51 = true ∨ bit W 43 = true ∨ bits W 53 4 ≠ 0 ∨ 128 < bits W 44 7 + c.count → fails 18)) ∧
    (c.instr = some (.mma a b t u k x h) →
      let m := r 2
      let row := rowOfQueue c.queue
      let accepted := [[9], [8], [6, 7], [10, 11, 15, 16], [12, 13, 17, 18], [2], [14]].getD k.toNat [14]
      let holds := fun (n : Nat) => ∃ z, s.slotOf row n = some z ∧ z.fmt ∈ accepted
      (¬ (holds (bits m 0 5) ∧ holds (bits m 8 5)) → fails 17) ∧
      (holds (bits m 0 5) → holds (bits m 8 5) → bits m 32 32 ≠ 0 ∨ bits m 20 4 ≠ 0 ∨ bits m 13 3 ≠ 0 ∨ bits m 5 3 ≠ 0 → fails 18)) ∧
    (c.instr = some (.slsend a b t u) →
      (8192 < c.count ∨ c.count % 4 ≠ 0 ∨ 8 < bits (r 4) 8 4 → fails 6) ∧
      (c.count ≤ 8192 → c.count % 4 = 0 → bits (r 4) 8 4 ≤ 8 →
        (bits (r 4) 12 20 ≠ 0 ∨ bit (r 4) 7 = true ∨ bit (r 4) 3 = true → fails 18) ∧
        (bits (r 4) 12 20 = 0 → bit (r 4) 7 = false → bit (r 4) 3 = false → 5 ≤ bits (r 4) 0 3 ∨ 5 ≤ bits (r 4) 4 3 → fails 16)))) ∧
  (∀ (s : State) (c : Command) (picks : List (Nat × Nat)) (soft units : Nat) (d : Done),
    s.cmds.find? (fun x => x.id == c.id && x.started && !x.sent && decide (x.queue < savedQueue)) = some c → endsNow s c = true →
    (c.block ≠ [] ∧ c.count = 0 ∧ d = ⟨s, c.front, 0, ⟨0, 0, 0⟩⟩) ∨
      ((c.count ≠ 0 ∨ c.block = []) ∧ performCommand { s with picks := picks } c picks soft units = .inl d ∧ d.status ≠ Stop.wait) →
    let ctl := c.reg 0
    let space := bits ctl 61 3
    let off := bits ctl 33 26
    let stat := bit ctl 59 = true ∧ c.count ≠ 0
    ∃ s', exec (.engineCommandPerformed c.id picks ⟨soft, [], units⟩) s = .next s' ∧ (∀ x ∈ s'.cmds, x.id ≠ c.id) ∧
      (c.block = [] ∨ (space = 0 ∧ ¬ stat) → s'.mem = d.st.mem) ∧
      (∀ x y, c.block ≠ [] → space ≠ 0 → memoryCanonical d.st → WordStands d.st c.win space off x →
        (stat → WordStands d.st c.win space (off + 8) y ∧ ∀ z ∈ span x 8, z ∉ span y 8) →
        peek s' x 8 = (if bit ctl 60 then (c.reg 1).toNat else (peek d.st x 8 + d.bytes) % 2 ^ 64) ∧
        (stat → peek s' y 8 = (d.status.code + 256 * d.status.space + 65536 * (d.status.detail % 2 ^ 48)) % 2 ^ 64) ∧
        (∀ z, z ∉ span x 8 → (stat → z ∉ span y 8) → memGet s'.mem z = memGet d.st.mem z))) ∧
  (∀ (s : State) (c : Command) (picks : List (Nat × Nat)) (a : Reg) (t : Bool), memoryCanonical s →
    s.cmds.find? (fun x => x.id == c.id && x.started && !x.sent && decide (x.queue < savedQueue)) = some c → mayEnd s c = true → c.block = [] →
    let row := rowOfQueue c.queue
    let num := gangOfQueue c.queue
    let n := c.a.toNat
    (∀ g, s.gangOf row num = some g → g.left.length < 4 ∧ g.broken = none) →
    let zeroes := fun (s' : State) (lo n : Nat) =>
      (∀ i < n, memGet s'.mem (lo + i) = 0) ∧ ∀ x, x < lo ∨ lo + n ≤ x → memGet s'.mem x = memGet s.mem x
    (c.instr = some (.tclm a t) → ∃ s', exec (.engineCommandPerformed c.id picks ⟨0, [], 0⟩) s = .next s' ∧
      s'.slotOf row n = some ⟨row, n, num, false, false, noFormat, 0⟩ ∧ zeroes s' (slotBase row n) 34816) ∧
    (c.instr = some (.trel a t) → ∃ s', exec (.engineCommandPerformed c.id picks ⟨0, [], 0⟩) s = .next s' ∧ s'.slotOf row n = none ∧ s'.mem = s.mem) ∧
    (c.instr = some (.aclr a t) → ∃ s', exec (.engineCommandPerformed c.id picks ⟨0, [], 0⟩) s = .next s' ∧
      accKey row num n ∉ s'.accPoison ∧ zeroes s' (accAt row num n) 65536))

/-- An operand at its slice, in the order of R159: of a dead tag it is returned with bad-tag, where an orphan marker stands with late,
taking the marker away; the second of a live tag meets the first where size and operation agree, both gone, else both are returned with
bad-size; the first waits in the slice's store, or where that is full in the lowest free overflow slot, or is refused where no slot or
index entry is free. A waiting one past its timeout is returned as an orphan and leaves a marker. A returned operand's status word
holds the outcome and its arrival word takes its bytes, its command is performed, once its queue has come to it; with two destinations
nothing is reported before both have their result; what had to wait goes on with
the same event (R121, R158, R159, R166, R186, R325, R326). The order of the events of one cycle is R159's; that the entry of a sent command
stays in its queue until then is log entry 36, that what waits goes on with the same event log entry 35, the header of an overflow slot is free
(log entry 9), and which of two operands that do not fit comes first log entry 64. Of the 65th marker of a slice, for which the oldest is
dropped, nothing is said here. -/
def Obligations.SluiceOperands : Prop :=
  (∀ a b : Nat, combineUnit 0 a b = (f32.add 0 (f32.decode a) (f32.decode b)).1 ∧ combineUnit 2 a b = (a + b) % 2 ^ 32 ∧
    combineUnit 3 a b = (minMax f32 true a b).1 ∧ combineUnit 4 a b = (minMax f32 false a b).1 ∧
    combineUnit 5 a b = (if toSigned 32 b ≤ toSigned 32 a then a else b) ∧ combineUnit 6 a b = (if toSigned 32 a < toSigned 32 b then a else b) ∧
    combineUnit 7 a b = Nat.xor a b ∧
    combineUnit 1 a b = (bf16.add 0 (bf16.decode (a % 65536)) (bf16.decode (b % 65536))).1 +
      65536 * (bf16.add 0 (bf16.decode (a / 65536)) (bf16.decode (b / 65536))).1) ∧
  (∀ (op : Nat) (a b : List Byte), combine 8 a b = a ++ b ∧ (op ≠ 8 → (combine op a b).length = 4 * (a.length / 4) ∧ ∀ u < a.length / 4,
    ofBytes (((combine op a b).drop (4 * u)).take 4) = combineUnit op (ofBytes ((a.drop (4 * u)).take 4)) (ofBytes ((b.drop (4 * u)).take 4)) % 2 ^ 32)) ∧
  (∀ (s : State) (o : Operand) (code : Nat), code < 256 → (∀ x ∈ s.deliveries, x.id ≠ o.id) →
    let d : Machine.Delivery := ⟨o.id, [(o, ⟨code, 0, 0⟩)], o.bytes s, 0, false, o.front, none, none, []⟩
    let s1 : State := { countOutcome s o code with operands := s.operands.filter (fun x => x.id != o.id), deliveries := s.deliveries ++ [d] }
    let w := writeCells o.port o.dest.space o.dest.ptr (d.units o) s1 (o.queueFront s1 o.front)
    let ctl := o.dest.arrival
    let s' := returnOperand s o code
    (o.mayEnd s1 = false → s' = s1) ∧
    (o.mayEnd s1 = true → w.stop = none → o.mayEnd w.st = true → o.late w.st = false →
      (∀ z ∈ s'.operands, z.id ≠ o.id) ∧ (∀ x ∈ s'.cmds, x.id ≠ o.id) ∧ (∀ z ∈ s'.deliveries, z.id ≠ o.id) ∧
      (∀ x y, o.destLive w.st = true → bits ctl 61 3 ≠ 0 → memoryCanonical w.st →
        WordStands w.st o.dest.win (bits ctl 61 3) (bits ctl 33 26) x →
        (bit ctl 59 = true → WordStands w.st o.dest.win (bits ctl 61 3) (bits ctl 33 26 + 8) y ∧ ∀ z ∈ span x 8, z ∉ span y 8) →
        peek s' x 8 = (if bit ctl 60 then o.dest.value.toNat else (peek w.st x 8 + d.bytes.length) % 2 ^ 64) ∧
        (bit ctl 59 = true → peek s' y 8 = code) ∧
        ∀ z, z ∉ span x 8 → (bit ctl 59 = true → z ∉ span y 8) → memGet s'.mem z = memGet w.st.mem z))) ∧
  (∀ (s : State) (d : Machine.Delivery), s.operands.find? (fun x => x.id == d.id && x.place == .flying) = none →
    s.deliveries.find? (fun x => x.id == d.id) = some d → exec (.sluiceArrival ⟨d.id, []⟩) s = .next (goOn s d)) ∧
  (∀ (s : State) (d x : Machine.Delivery), x ∈ s.deliveries → d.mate = some x.id → x.written = false → reportDelivery s d = (s, d.ops)) ∧
  ∀ (s : State) (o : Operand) (p : Partition), s.partition o.part = some p →
    let place := tagPlace o.part o.tag
    let marker := (o.slice, o.part, o.tag)
    let waiting := s.operands.find? (fun q => q.waits && q.part == o.part && q.tag == o.tag)
    let mine := s.operands.filter (fun q => q.slice == o.slice && q.waits)
    let stored := (mine.filter (fun q => q.place == .store)).length
    let held := (mine.filter (fun q => q.place != .store)).length
    let free := fun (k : Nat) => s.operands.any (fun q => q.part == o.part && q.place == .overflow k) = false
    let goes := fun (s1 : State) => exec (.sluiceArrival ⟨o.id, []⟩) s = .next (s1.ranked 2 place (2 + o.sender))
    let putAt := fun (pl : OperandPlace) => s.operands.map (fun q => if q.id == o.id then { q with place := pl, arrived := s.time } else q)
    (s.operands.find? (fun x => x.id == o.id && x.place == .flying) = some o →
      s.operands.any (fun q => q.waits && q.part == o.part && q.tag == o.tag && q.due s) = false → s.overtaken 2 place (2 + o.sender) = false →
      (rangeOf s p o.tag = none → goes (returnOperand s o 5)) ∧
      (rangeOf s p o.tag ≠ none → marker ∈ s.markers →
        let s' := returnOperand { s with markers := s.markers.erase marker } o 3
        goes s' ∧ s'.markers = s.markers.erase marker) ∧
      (rangeOf s p o.tag ≠ none → marker ∉ s.markers →
        (waiting = none → stored < 16 → goes { s with operands := putAt .store }) ∧
        (∀ k, waiting = none → 16 ≤ stored → held < 256 → k < p.ovfSize / 8256 → free k → (∀ j < k, ¬ free j) →
          memoryCanonical s → let x := p.ovfBase + 8256 * k
          ∃ s1, goes s1 ∧ s1.operands = putAt (.overflow k) ∧ (∀ i < o.data.length, memGet s1.mem (x + 64 + i) = o.data.getD i 0) ∧
            ∀ z, z < x ∨ x + 64 + o.data.length ≤ z → memGet s1.mem z = memGet s.mem z) ∧
        (waiting = none → 16 ≤ stored → 256 ≤ held ∨ (∀ k < p.ovfSize / 8256, ¬ free k) → goes (returnOperand s o 4)) ∧
        (∀ w, waiting = some w → w.id ≠ o.id → w.data.length = o.data.length → w.op = o.op →
          let s' := meetOperands s w o
          let lo := if w.before o then w else o
          let hi := if w.before o then o else w
          let sent : Machine.Delivery := ⟨lo.id, [(lo, ⟨1, 0, hi.sender⟩), (hi, ⟨1, 0, lo.sender⟩)], combine lo.op (lo.bytes s) (hi.bytes s), 0, false,
            fMerge s lo.front hi.front, none, none, []⟩
          goes s' ∧ (∀ q ∈ s'.operands, q.id ≠ o.id ∧ q.id ≠ w.id) ∧
          (∀ x ∈ s'.cmds, x.id = o.id ∨ x.id = w.id → ∃ d ∈ s'.deliveries, ∃ e ∈ d.ops, e.1.id = x.id) ∧
          (sameDest lo hi = true → s' = startDelivery (countOutcome (countOutcome s lo 1) hi 1) sent)) ∧
        (∀ w, waiting = some w → w.data.length ≠ o.data.length ∨ w.op ≠ o.op →
          let lo := if w.before o then w else o
          let hi := if w.before o then o else w
          goes (returnOperand (returnOperand s lo 6) hi 6)))) ∧
    (s.operands.find? (fun x => x.id == o.id && x.waits) = some o → o.due s = true → s.overtaken 2 place 0 = false →
      let s1 := returnOperand s o 2
      ∃ s', exec (.sluiceOrphanExpiry ⟨o.id, []⟩) s = .next s' ∧ s'.operands = s1.operands ∧ s'.cmds = s1.cmds ∧ s'.deliveries = s1.deliveries ∧
        marker ∈ s'.markers)
/-! ## Events of cores, slices and homes (R20 to R28, R105, R111 to R113, R154, R155) -/

/-- Picks, lingering and walks: a ring pick issues the cohort of the first ready thread in ring order, a wide-merge pick the
largest set of one code unless a thread has waited W picks; every ready thread not issued is passed over once more, those apart that
their cohort's queue has no entry for (R120); no pick comes before a lingering thread of its core that is met, or whose linger is over, has gone on; such a thread
goes on; a walk keeps a translation and changes none, and waits while a message about a line of the tables that it reads is under way (R21, R23,
R24, R28, R105, R219). Threads
stand at one code where their next instruction's address and code space agree, a repetition at its body's; a thread whose instruction
would only wait is not ready (log entries 30 and 38), and what a walk's reads do to the directory is log entry 16. -/
def Obligations.PicksAndWalks : Prop :=
  (∀ (s : State) (core : Nat) (m : Bool), mayPick s core m = true → releaseDue { s with picks := [] } core = false →
    let s0 : State := { s with picks := [] }
    let ring := readyRing s0 core m ((s.core core).ptr m)
    let issues := fun (ev : Instr) (lead : Nat × Thread × NextIssue) (ptr : Nat) =>
      let cut := ((codeSet lead ring).drop (cutCohort s0 core (codeSet lead ring)).length).map (·.1)
      ∃ s', exec ev s = .next s' ∧ s'.issue = (cohortOf s0 core lead ring).map (·.1) ∧ s'.issue.length ≤ 32 ∧ s'.mem = s.mem ∧
        (∀ l ∈ s'.issue, ∃ e ∈ ring, e.1 = l ∧ (l = lead.1 ∨ sameCode lead e = true)) ∧ (s'.core core).ptr m = ptr ∧
        (∀ e ∈ ring, ∃ t, s'.thread e.1 = some t ∧
          t.passed m = if e.1 ∈ s'.issue then 0 else if e.1 ∈ cut then e.2.1.passed m else e.2.1.passed m + 1)
    (∀ lead rest, ring = lead :: rest → ((s.core core).wide = true → mustRing s core m ring = true) →
      issues (.issuePick core m ⟨[], [], [], []⟩) lead ((lead.1 % 128 + 1) % 128)) ∧
    (ring ≠ [] → (s.core core).wide = true → mustRing s core m ring = false → ∃ lead ∈ ring,
      (∀ e ∈ ring, (cutCohort s0 core (ring.filter (sameCode e))).length ≤ (cutCohort s0 core (ring.filter (sameCode lead))).length) ∧
      issues (.wideMergePick core m ⟨[], [], [], []⟩) lead ((s.core core).ptr m))) ∧
  (∀ (s : State) (loc : Nat) (t : Thread), s.thread loc = some t →
    (∀ e, t.linger = some e → e.toNat < s.time.toNat →
      exec (.lingerTimeout loc) s = .next ((s.setThread loc { t with linger := none }).count (coreOf loc) 8 1)) ∧
    (t.linger ≠ none → lingerMet s loc t = true →
      exec (.lingerMeet loc) s = .next ((s.setThread loc { t with linger := none }).count (coreOf loc) 7 1))) ∧
  (∀ (s : State) (die part asid va : Nat) (p : Partition), s.partition part = some p → p.dies.contains die = true → va < 2 ^ 48 →
    (walkWaits s die part asid va 1 = true → exec (.pageWalk die part asid ⟨va, []⟩) s = .next s) ∧
    (walkWaits s die part asid va 1 = false →
    ∃ s', exec (.pageWalk die part asid ⟨va, []⟩) s = .next s' ∧ s'.mem = s.mem ∧ s'.threads = s.threads ∧
      (∀ pa at', xlate s die part asid va = .page pa at' → xlate s' die part asid va = .page pa at' ∧
        s'.tlb.any (fun e => e.serves die part asid va) = true) ∧
      ((∀ pa at', xlate s die part asid va ≠ .page pa at') → s'.tlb = s.tlb)))

/-- The directory: a request is sent for an access that stands behind it, with the address, ASID and attributes by which that access reaches
the line, reaches its home, which answers it or first recalls what others hold, and its answer reaches
the slice, which takes its copy with them (R110); a line evicted leaves the slice, then its holder, or is owner-lost where the entry's holders
disagree with its state (R154); answers come until their timeout, a recall's after an
atomic at its line or 40 cycles; a silent sharer is fenced and counts as having answered; a silent owner loses the line; error
invalidates are resent, received and acknowledged; a slice gives up a message (R111 to R113, R154, R155, R173, R193). That a message
about a line is one at a time for each die, in these moves and for one named access, is the model's reading (log entry 33). -/
def Obligations.CoherenceMoves : Prop :=
  ∀ (s : State) (die line : Nat),
    let e := s.dirEntry line
    let free := s.homeTx.any (fun q => q.line == line) = false
    let sound := e.isFenced die = false ∧ e.poison = false ∧ e.agrees = true
    let lapsed := fun (since : Word) (n : Nat) => n ≤ (s.time - since).toNat
    let served := fun (s' : State) (d : Nat) (k : HomeKind) (recalled : Bool) (ds : List Nat) =>
      ⟨line, d, k, true, s.time, ds.map (fun x => (x, recalled, s.time))⟩ ∈ s'.homeTx
    let stands := fun (s' : State) (st : MsgStage) => ∃ m, msgOf s' die line = some m ∧ m.stage = st
    (∀ ev k asker reach, (ev = .homeReadMiss die ⟨line, asker⟩ ∧ k = .read ∧
          reach = (if s.held die line then none else askReach s die line false asker)) ∨
        (ev = .homeUpgrade die ⟨line, asker⟩ ∧ k = .upgrade ∧ reach = (if s.owns die line then none else askReach s die line true asker)) →
      (msgOf s die line = none → reach = none → exec ev s = .next s) ∧
      (∀ r, msgOf s die line = none → 64 * line < Config.hbmBytes → reach = some r →
        exec ev s = .next { s with sliceMsgs := s.sliceMsgs ++ [⟨die, line, k, s.time, .sent, r.1, r.2.1, r.2.2, asker⟩] }) ∧
      (∀ m, msgOf s die line = some m → m.kind = k → m.stage = .sent → s.overtaken 0 line die = false → free → die < 8 → sound →
        ∃ s', exec ev s = .next s' ∧ s'.mem = s.mem ∧
          (k = .read → e.state ≠ 2 → s'.dirEntry line = e.shared die ∧ stands s' .answered) ∧
          (k = .read → e.state = 2 → served s' die .read true e.holderList ∧ stands s' .home) ∧
          (k = .upgrade → e.holderList.filter (· != die) = [] → s'.dirEntry line = e.modifiedBy die ∧ stands s' .answered) ∧
          (k = .upgrade → e.holderList.filter (· != die) ≠ [] →
            served s' die .upgrade (e.state == 2) (e.holderList.filter (· != die)) ∧ stands s' .home)) ∧
      (∀ m, msgOf s die line = some m → m.kind = k → m.stage = .answered → e.poison = false → e.isFenced die = false → e.holds die = true →
        ∃ s', exec ev s = .next s' ∧ msgOf s' die line = none ∧ s'.held die line = true ∧ (k = .upgrade → s'.owns die line = true) ∧
          ∃ l ∈ s'.l2, l.die = die ∧ l.pa = line ∧ l.va = m.va / 64 ∧ l.asid = m.asid ∧ l.attrs = m.attrs)) ∧
    (e.state ≠ 0 → free → e.poison = false → e.agrees = true → ∃ s', exec (.homeNoncacheableAccess line) s = .next s' ∧ s'.mem = s.mem ∧
      served s' 8 .noncacheable (e.state == 2) e.holderList) ∧
    ((s.held die line = true → msgOf s die line = none → ∃ s', exec (.homeEviction die line) s = .next s' ∧ s'.held die line = false ∧
        s'.mem = s.mem ∧ ∃ m, msgOf s' die line = some m ∧ m.stage = .sent ∧ m.kind = if s.owns die line then .writeback else .notice) ∧
      (∀ m, msgOf s die line = some m → m.kind = .writeback ∨ m.kind = .notice →
        (m.stage = .sent → ∃ s', exec (.homeEviction die line) s = .next s' ∧
          (e.isFenced die = false → e.agrees = true → s'.dirEntry line = e.without die ∧ stands s' .answered) ∧
          (e.isFenced die = false → e.agrees = false → s'.dirEntry line = ⟨0, 0, e.fenced, true, true⟩) ∧
          (e.isFenced die = true → msgOf s' die line = none ∧ s'.errInv.any (fun x => x.line == line && x.die == die) = true)) ∧
        (m.stage = .answered → ∃ s', exec (.homeEviction die line) s = .next s' ∧ msgOf s' die line = none ∧ s'.dir = s.dir))) ∧
    (∀ q recalled since, waitOf s die line = some (q, recalled, since) →
      (answerBarred s die line since = false → (recalled && atomicAt s die line) = false →
        exec (.homeAcknowledgement die line) s = .next (answer s die line q recalled) ∧
        (s.held die line = false → recalled = true → e.holds die = true → ∃ s', exec (.homeAcknowledgement die line) s = .next s' ∧
          s'.dirEntry line = ⟨0, 0, e.fenced, true, true⟩)) ∧
      (answerBarred s die line since = false → recalled = true → atomicAt s die line = true → lapsed since 40 →
        exec (.atomicRecallWaitExpiry die line) s = .next (answer s die line q recalled)) ∧
      (recalled = false → lapsed since (2 ^ s.mon.homeK) → ∃ s', exec (.sharerTimeout die line) s = .next s' ∧
        (q.waits.filter (fun w => w.1 != die) ≠ [] → s'.errInv.any (fun x => x.line == line && x.die == die) = true ∧
          s'.dirEntry line = { e.without die with fenced := e.fenced ||| dieBit die })) ∧
      (recalled = true → lapsed since (2 ^ s.mon.homeK) → ∃ s', exec (.recallTimeout die line) s = .next s' ∧
        s'.dirEntry line = ⟨0, 0, e.fenced ||| dieBit die, true, true⟩ ∧ (∀ x ∈ s'.homeTx, x.line ≠ line) ∧
        s'.errInv.any (fun x => x.line == line && x.die == die) = true)) ∧
    (∀ x ∈ s.errInv, x.die = die → x.line = line →
      (lapsed x.sentAt (2 ^ s.mon.homeK) → exec (.errorInvalidateResend die line) s =
        .next { s with errInv := s.errInv.map (fun y => if y.die == die && y.line == line then { y with sentAt := s.time } else y) }) ∧
      (x.received = false → ∃ s', exec (.errorInvalidateReceipt die line) s = .next s' ∧ s'.held die line = false ∧
        (∀ y ∈ s'.errInv, y.die = die → y.line = line → y.received = true)) ∧
      (x.received = true → ∃ s', exec (.errorInvalidateAck die line) s = .next s' ∧
        s'.dirEntry line = { e with fenced := e.fenced &&& ~~~ dieBit die } ∧ (∀ y ∈ s'.errInv, ¬ (y.die = die ∧ y.line = line)))) ∧
    (∀ m, msgOf s die line = some m → m.stage ≠ .home → lapsed m.sentAt (2 * 2 ^ s.mon.homeK) → ∀ (h : die < 8),
      ∃ s', exec (.sliceRequestTimeout die line) s = .next s' ∧ s'.held die line = false ∧ (m.asker = .access → msgOf s' die line = none) ∧
        s'.dieErr[die].unanswered = satInc s.dieErr[die].unanswered)

/-! ## Launches, saving and restoring (R30 to R35, R39 to R42, R131 to R133, R151, R187, R191, R242) -/

/-- The moves of launches: a placed group's count byte is marked and its group is resident on the cluster chosen; a drained
thread that quits leaves its context; a report moves one level up; a record is written and its producer index moved on, or
held; a deadline forces from the end of its cycle; a group or a yielding thread is saved, and restored to its contexts where its context
area holds what the device wrote (R30, R31, R34, R35, R39 to R42, R131 to R133, R149). Where a partition's first placement begins, what the
records of an agent hold and the bytes of the area are the model's (log entries 9, 12, 46, 47 and 49). -/
def Obligations.LaunchMoves : Prop :=
  ∀ (s : State), memoryCanonical s →
    (∀ part p r c ahead, s.partition part = some p → s.launches.any (fun l => l.part == part && l.restoring) = false →
      choosePlacement s p [] (readyGroups s part) = some (r, c, ahead) → (∀ h ∈ s.groups, h.id < s.fresh) → ∃ s' g, exec (.groupPlacement part) s = .next s' ∧ g ∈ s'.groups ∧
        g.part = r.1.part ∧ g.launch = r.1.num ∧ g.index = r.2 ∧ g.cluster = c ∧ g.saved = false ∧
        memGet s'.mem (r.1.countByte r.2) = memGet s.mem (r.1.countByte r.2) + 16 ∧
        (∀ x, x ≠ r.1.countByte r.2 → memGet s'.mem x = memGet s.mem x)) ∧
    (∀ loc t, s.thread loc = some t → quitDrained s loc t = true → ∃ s', exec (.quitComplete loc) s = .next s' ∧ s'.thread loc = none ∧
      (∀ l, l ≠ loc → s'.thread l = s.thread l)) ∧
    (∀ g n up rest, s.group g.id = some g → g.reports = (n, up) :: rest →
      let h : Group := { g with reports := rest }
      ∃ s', exec (.quiescenceReport g.id) s = .next s' ∧ (up = true → s'.group g.id = some (h.up (nodeAbove n))) ∧
        (up = false → nodeAbove n ≠ 4000 ∨ g.countAt 4000 ≠ 1 → g.countAt (nodeAbove n) ≠ 0 → s'.group g.id = some (h.down (nodeAbove n))) ∧
        (up = false → nodeAbove n = 4000 → g.countAt 4000 = 1 → s.launchOf g.part g.launch ≠ none → s'.group g.id = none)) ∧
    (∀ part queue p a r, queue ≤ 1 → s.partition part = some p → s.appends.find? (fun x => x.part == part && x.queue == queue) = some a →
      ringOf s p queue = some r →
      (r.used < r.entries → recordWritable s p queue r = true →
        (r.slot queue + 32 ≤ queueDesc p queue ∨ queueDesc p queue + 64 ≤ r.slot queue) →
        let plain := fun (l : List Append) => l.map (fun b => { b with held := false, counted := false })
        ∃ s', exec (.queueRecordAppend part queue) s = .next s' ∧
          plain s'.appends = (plain s.appends).eraseIdx (s.appends.findIdx (fun b => b.part == part && b.queue == queue)) ∧ (∀ k < 32, memGet s'.mem (r.slot queue + k) = (a.bytes s.time).getD k 0) ∧
          peek s' (queueDesc p queue + 16) 8 = (r.producer + 1) % 2 ^ 64) ∧
      (r.used = r.entries → ∃ s', exec (.queueRecordAppend part queue) s = .next s' ∧ s'.appends.length = s.appends.length)) ∧
    (∀ g, s.group g.id = some g → forceDue s g = true → exec (.deadlineExpiry g.id) s =
      .next { s with threads := s.threads.map (fun e => if forcible s e.1 e.2 g then (e.1, { e.2 with forced := true }) else e) }) ∧
    (∀ g l, s.group g.id = some g → s.launchOf g.part g.launch = some l → groupSavable s g l = true → ∃ s', exec (.groupSave g.id) s = .next s' ∧
      (∃ h ∈ s'.groups, h.id = g.id ∧ h.saved = true) ∧
      ∀ loc t, s.thread loc = some t → t.grp = some g.id → s'.thread loc = none ∧ ⟨loc, g.id, savedThread t true, true⟩ ∈ s'.saved) ∧
    (∀ loc t g, s.thread loc = some t → t.grp = some g → yieldDrained s loc t = true → ∃ s', exec (.yieldSave loc) s = .next s' ∧
      s'.thread loc = none ∧ s'.mem = s.mem ∧ ⟨loc, g, savedThread (t.advance s.time 1) false, false⟩ ∈ s'.saved) ∧
    (∀ g l, s.group g.id = some g → s.launchOf g.part g.launch = some l → restorable s g l = true → contextChanged s l = false →
      ∃ s', exec (.groupRestore g.id) s = .next s' ∧ (∃ h ∈ s'.groups, h.id = g.id ∧ h.saved = false) ∧
        ∀ x ∈ savedOf s g, ∃ u, s'.thread x.loc = some { x.thread with replay := u, issueAt := s.time } ∧
          ((∀ e ∈ x.thread.replay, e.instr.any (·.isSpawn) = false) → u.length = x.thread.replay.length ∧
            ∀ p ∈ x.thread.replay.zip u, (p.1.state = .done → p.2 = p.1) ∧ (p.1.state ≠ .done →
              p.2 = { p.1 with state := .pending, flight := p.2.flight, fault := p.2.fault, mark := p.2.mark, value := p.2.value, walk := p.2.walk, since := s.time, places := [], got := [] })))

/-! ## The fabric, the monitor, the clock (R93, R141, R142, R169 to R171, R188, R347, R348, R351, R354 to R357, R360) -/

/-- Packets and the outbound ring: an admitted message is placed in a command record or refused at the transport; an RMA write puts its
bytes at the home, as many as its watch records have room for and the rest later (R136), an RMA read answers the newest ones; other operations take an access error; a packet that is not accepted is dropped
and counted; an outbound entry starts, or completes with its code in its completion word (R141, R142, R188, R347, R348, R354, R355). The
codes of the device's answers are the model's (log entry 52); that an RMA read and an outbound read with no candidates named answer the newest
bytes is log entry 1; what it takes for a bad field or an ill-formed table, and an RMA write at a
poisoned line, are log entries 50, 51 and 64. -/
def Obligations.FabricMoves : Prop :=
  ∀ (s : State) (pkt : Packet), memoryCanonical s →
    let replies := fun (ev : Instr) (code : Nat) => exec ev s = .next { s with out := s.out ++ [⟨pkt.port, code, []⟩] }
    let shows := fun (F : Frontier) (x n : Nat) => ∀ y ∈ span x n, valueOf (wsGet s y) (newestId (wsGet s y)) = memGet s.mem y ∧
      mayChoose s F false (newestChoice s ((span x n).filter (fun z => z / 8 == y / 8))) = true
    (∀ p k, admitted s pkt = some (p, k) →
      ((240 < pkt.data.length ∨ ringOf s p 2 = none ∨ ∃ r, ringOf s p 2 = some r ∧ (r.used = r.entries ∨ recordWritable s p 2 r = false)) →
        ∃ s', exec (.hostSend pkt) s = .next s' ∧ s'.out = s.out ++ [⟨pkt.port, 1, []⟩]) ∧
      (∀ r, pkt.data.length ≤ 240 → ringOf s p 2 = some r → r.used < r.entries → recordWritable s p 2 r = true → s.partition p.num = some p →
        (r.slot 2 + 256 ≤ queueDesc p 2 ∨ queueDesc p 2 + 64 ≤ r.slot 2) →
        ∃ s' q, exec (.hostSend pkt) s = .next s' ∧ s'.out = s.out ++ [⟨pkt.port, 0, []⟩] ∧ s'.partition p.num = some q ∧ q.cmdSeq = p.cmdSeq + 1 ∧
          peek s' (r.slot 2) 8 = pkt.data.length + p.cmdSeq % 2 ^ 32 * 2 ^ 32 ∧ peekBytes s' (r.slot 2 + 16) pkt.data.length = pkt.data ∧
          peek s' (queueDesc p 2 + 16) 8 = (r.producer + 1) % 2 ^ 64) ∧
      (s.rmas.find? (fun q => q.pkt == pkt) = none → window s p pkt true = none → replies (.rmaWrite ⟨pkt, []⟩) 2) ∧ (∀ picks, window s p pkt false = none → replies (.rmaRead ⟨pkt, picks, []⟩) 2) ∧
      (∀ x, window s p pkt false = some x → p.hasBytes x pkt.size = true → homeReady s x pkt.size = true →
        (∀ y ∈ span x pkt.size, s.poisoned y = false) → shows (peerFront s p k) x pkt.size →
        ∃ s', exec (.rmaRead ⟨pkt, [], []⟩) s = .next s' ∧ s'.mem = s.mem ∧ s'.out = s.out ++ [⟨pkt.port, 0, peekBytes s x pkt.size⟩]) ∧
      replies (.unsupportedOperation pkt) 2) ∧
    (∀ p r, (s.rmas.find? (fun q => q.pkt == pkt) = none ∧
          ∃ k x, admitted s pkt = some (p, k) ∧ window s p pkt true = some x ∧ r = ⟨pkt, p.num, k, x, 0⟩) ∨
        (s.rmas.find? (fun q => q.pkt == pkt) = some r ∧ s.partition r.part = some p) →
      p.hasBytes r.base pkt.size = true → pkt.data.length = pkt.size → r.done ≤ pkt.size →
      homeReady s (r.base + r.done) (pkt.size - r.done) = true →
      (∀ y ∈ span (r.base + r.done) (pkt.size - r.done), (s.dirEntry (y / 64)).poison = false) →
      let lines := linesOf (r.base + r.done) (pkt.size - r.done)
      let n := (lineWrites p r.base pkt.size pkt.data (peerWrite p r.peer) lines s r.done).2
      ((s.appends.filter (fun a => a.unit.isSome)).length + lines.length ≤ 64 → n = pkt.size) ∧
      (n = r.done → n ≠ pkt.size → exec (.rmaWrite ⟨pkt, []⟩) s = .next s) ∧
      (n = pkt.size ∨ n ≠ r.done → ∃ s', exec (.rmaWrite ⟨pkt, []⟩) s = .next s' ∧
        (n = pkt.size → s'.out = s.out ++ [⟨pkt.port, 0, []⟩] ∧ ∀ q ∈ s'.rmas, q.pkt ≠ pkt) ∧
        (n ≠ pkt.size → s'.out = s.out ∧ { r with done := n } ∈ s'.rmas) ∧
        (∀ i, r.done ≤ i → i < n → memGet s'.mem (r.base + i) = pkt.data.getD i 0) ∧
        (∀ y, y < r.base + r.done ∨ r.base + n ≤ y → memGet s'.mem y = memGet s.mem y))) ∧
    (admitted s pkt = none → exec (.packetDrop pkt) s = .next { s with mon := { s.mon with dropped := s.mon.dropped + 1 } }) ∧
    (∀ part p r, s.partition part = some p → outRing s p = some r → p.outNext.toNat ≠ r.producer →
      let e := outEntry s (r.base + p.outNext.toNat % r.entries * 64)
      (e.bad s p = false → (e.op ≠ 3 → homeReady s e.loc e.length = true ∧ shows (devAcquire s (p.outq + 16) 8).dev e.loc e.length) →
        ∃ s' q, exec (.outboundEntryStart ⟨part, [], []⟩) s = .next s' ∧ s'.mem = s.mem ∧
          s'.out = s.out ++ [⟨e.port, 16 + e.op, e.request s p (if e.op = 3 then [] else peekBytes s e.loc e.length)⟩] ∧
          s'.partition part = some q ∧ q.outNext = p.outNext + 1 ∧
          q.outbound = p.outbound ++ [⟨p.outNext.toNat, e.op, e.length, e.loc, e.done, 0, false⟩]) ∧
      (e.bad s p = true → p.hasBytes e.done 8 = true → homeReady s e.done 8 = true → (∀ y ∈ span e.done 8, (s.dirEntry (y / 64)).poison = false) →
        (e.done + 8 ≤ p.outq + 24 ∨ p.outq + 32 ≤ e.done) →
        ∃ s', exec (.outboundEntryStart ⟨part, [], []⟩) s = .next s' ∧ s'.out = s.out ∧ peek s' e.done 8 = 3)) ∧
    (∀ part p o code, s.partition part = some p → p.inFlight o.index = some o → homeReady s o.done 8 = true → p.hasBytes o.done 8 = true →
      (∀ y ∈ span o.done 8, (s.dirEntry (y / 64)).poison = false) → (o.done + 8 ≤ p.outq + 24 ∨ p.outq + 32 ≤ o.done) →
      (code ≤ 2 → o.op ≠ 3 ∨ code ≠ 0 → ∃ s', exec (.outboundCompletion part o.index code []) s = .next s' ∧ peek s' o.done 8 = code) ∧
      (∃ s', exec (.outboundRetryLimit part o.index) s = .next s' ∧ peek s' o.done 8 = 4))

/-- The monitor and the clock: a mailbox request is taken into service, a sequence written meanwhile answered busy, and the request
answered with its status and sequence, shares and carve-outs changing as it is, a quote holding the SHA2-384 of the firmware image; bring-up
ends in the phase flash allows, or reports through port 0 why; in recovery a firmware update whose signature verifies replaces the image and
resets the module, and does nothing otherwise; throttling holds from a thermal condition until it clears; an overtemperature reset leaves
the state of reset with flash kept; a destroyed partition leaves no thread and no byte; a snapshot writes a core's counters, its select word to apply
from the next cycle; the tick moves time and every thread's cycle count by one, and what was to apply from the next cycle does (R93,
R169 to R171, R289, R292, R351, R356, R357, R360; what signatures verify is a free value of Config). The two moves of a request, the
codes of the reports and the moment at which threads come to stand are the model's (log entries 30, 53 and 54); that every byte reads 0 after
an overtemperature reset, before the monitor's scrub, is log entry 5, and the steps of the hash are log entry 67. -/
def Obligations.MonitorMoves : Prop :=
  ∀ (s : State), memoryCanonical s →
    (∀ part p (m : Mail), s.partition part = some p →
      let ev : Instr := if m.bad p then .mailboxBadRequest part else if m.code = 1 then .mailboxGrantCellar part
        else if m.code = 2 then .mailboxWithdrawCellar part else if m.code = 3 then .mailboxSetCarveOut part else .mailboxQuote part
      (p.serving = none → mailOf s p = some m → ∃ s' q, exec ev s = .next s' ∧ s'.mem = s.mem ∧ s'.partition part = some q ∧
        q.serving = some m ∧ q.answered = p.answered ∧ q.cellar = p.cellar) ∧
      (∀ n, p.serving = some m → mailOf s p = some n → n.seq ≠ m.seq → ∃ s' q, exec ev s = .next s' ∧ s'.partition part = some q ∧
        q.serving = some m ∧ q.busied = some n.seq ∧ peek s' (p.mbox + 72) 8 = 4 ∧ peek s' (p.mbox + 64) 8 = n.seq.toNat) ∧
      (p.serving = some m → (∀ n, mailOf s p = some n → n.seq = m.seq) →
        let answers := fun (status : Nat) (P : State → Partition → Prop) => ∃ s' q, exec ev s = .next s' ∧ s'.partition part = some q ∧
          q.answered = m.seq ∧ q.serving = none ∧ peek s' (p.mbox + 72) 8 = status ∧ peek s' (p.mbox + 64) 8 = m.seq.toNat ∧ P s' q
        (m.bad p = true → answers 3 (fun _ q => q.cellar = p.cellar)) ∧
        (m.bad p = false →
          (m.code = 1 →
            ((p.shareOn m.a).isSome = true ∨ launchOn s p m.a = true → answers 1 (fun _ q => q.cellar = p.cellar)) ∧
            ((p.shareOn m.a).isSome = false → launchOn s p m.a = false →
              (cellarRoom (sharesOn s m.a) (carveOf s m.a) m.b = none → answers 2 (fun _ q => q.cellar = p.cellar)) ∧
              (∀ b, cellarRoom (sharesOn s m.a) (carveOf s m.a) m.b = some b → answers 0 (fun s' q =>
                ∃ c : CellarShare, q.cellar = p.cellar ++ [c] ∧ c.die = m.a ∧ c.place = b ∧ c.mib = m.b ∧
                  ∀ i < m.b * 1048576, memGet s'.mem (cellarBase m.a + b * 1048576 + i) = 0)))) ∧
          (m.code = 2 → answers (if launchOn s p m.a then 1 else 0) (fun _ q =>
            q.cellar = if launchOn s p m.a then p.cellar else p.cellar.filter (fun e => e.die != m.a))) ∧
          (m.code = 3 → answers (if (sharesOn s m.a).isEmpty then 0 else 1) (fun s' _ =>
            carveOf s' m.a = if (sharesOn s m.a).isEmpty then m.b else carveOf s m.a)) ∧
          (m.code = 4 → m.a + 16432 ≤ p.mbox ∨ p.mbox + 128 ≤ m.a → answers 0 (fun s' _ =>
            peek s' m.a 8 = 0x54515A53 ∧ peek s' (m.a + 8) 8 = s.mon.sequence.toNat ∧ peekBytes s' (m.a + 48) 48 = sha384 s.flash.image))))) ∧
    (let r := bringUpPhase s.flash
     ∃ s', exec .moduleReset s = .next s' ∧ s'.mon.phase = r.1 ∧ s'.flash = s.flash ∧ (r.1 ≠ .running → s'.threads = [] ∧ s'.parts = []) ∧
       (r.1 = .noPartitions → s'.out = [⟨0, 3, [BitVec.ofNat 8 r.2]⟩])) ∧
    (∀ image, exec (.signedFirmwareUpdate 0 image) s = .next (
      let n := image.length - 16224
      if s.mon.phase = .recovery ∧ Config.slhVerify Config.vendorKey (image.take n) (image.drop n) = true then
        { State.reset with flash := { s.flash with image := image.take n, imageSig := image.drop n }, moves := s.moves, fresh := s.fresh, draws := s.draws }
      else s)) ∧
    (∀ part p, s.partition part = some p → ∃ s', exec (.partitionDestroy part) s = .next s' ∧ (∀ q ∈ s'.parts, q.num ≠ part) ∧
      (∀ e ∈ s'.threads, e.2.part ≠ part) ∧ ∀ j < 8, ∀ i < (p.range j).2, memGet s'.mem ((p.range j).1 + i) = 0) ∧
    exec .thermalThrottle s = .next { s with mon := { s.mon with throttled := true } } ∧
    exec .thermalConditionClears s = .next { s with mon := { s.mon with throttled := false } } ∧
    (∃ s', exec .overtempReset s = .next s' ∧ s'.threads = [] ∧ s'.parts = [] ∧ s'.mem = [] ∧ s'.time = 0 ∧ s'.mon.phase = .inReset ∧ s'.flash = s.flash) ∧
    (∀ part p core, s.partition part = some p → snapshotDue s p = some core → ∃ s', exec (.counterSnapshot part core) s = .next s' ∧
      (∀ k < 120, memGet s'.mem (p.ctrBase + 128 * p.snapDone + 8 + k) = (snapshotBytes s core).getD k 0) ∧
      (s'.core core).selectNext = some (wd (peek s (p.ctrBase + 128 * p.snapDone) 8)) ∧ (s'.core core).select = (s.core core).select) ∧
    (cycleDone s = true → ∃ s1, exec .deviceClockTick s = .next (beginCycle (standAll s1)) ∧ s1.time = s.time + 1 ∧ s1.mem = s.mem ∧ s1.groups = s.groups ∧
      (∀ loc t, s.thread loc = some t → s1.thread loc = some { t with cyc := t.cyc + 1 }) ∧
      ∀ c, (s1.core c).tvec = (s.core c).tvecNext.getD (s.core c).tvec ∧ (s1.core c).tfbase = (s.core c).tfbaseNext.getD (s.core c).tfbase ∧
        (s1.core c).tvecNext = none ∧ (s1.core c).tfbaseNext = none ∧ (s1.core c).selectNext = none ∧
        (s1.core c).select = (s.core c).selectNext.getD (s.core c).select) ∧
    (∀ loc t s' u, s.threads = [(loc, t)] → (nextIssue s loc t).ready = false → (nextIssue s loc t).instr = some .bar →
      exec .bar { s with cur := loc } = .next s' → s'.thread loc = some u → u.atBar = true → standAll s = { s' with cur := s.cur })

/-! ## What engine commands do (R166, R185, R307 to R326) -/

/-- What engine commands move: a unit read shows the newest bytes where the command may take them and changes no byte; a unit written puts
its cells where they are translated to, and nothing else. `cpy` reads its run and writes each element, converted where the formats
differ, a scale byte before each block; `gath` and `scat` read an index, then an element, and write it; `qnt` writes of each block a scale
byte and codes; `tld` puts a row's elements and scale bytes where the larder keeps them; `acst` writes rows of an accumulator, `acld` reads
them and clears its poison; `mma` adds one K-group to every element of its accumulator (R53, R96, R99, R166, R185, R309, R310, R312 to R314,
R316, R319 to R321, R323). The moves in which a command makes its accesses are log entry 35, the newest writes log entry 1. -/
def Obligations.EnginePayloads : Prop :=
  (∀ (s s1 s' : State) (q : Port) (space : Nat) (p : Word) (F F' : Frontier) (offs : List Nat) (bs : List (Nat × Byte)) (xs : List Nat) (as : List Attrs),
    let lo := offs.headD 0
    readUnit s q space p [] F offs = .ok (s', F', bs) → engPlaces s q F space p lo (offs.getLastD lo - lo + 1) .load = .ok (xs, as) →
    engTouch s q space (ptrVa p + lo) xs as false = .ok s1 →
    let x := fun (o : Nat) => xs.getD (o - lo) 0
    s'.mem = s.mem ∧ bs.map (·.1) = offs ∧ (space ≠ 0 → s1 = s) ∧
    ((∀ o ∈ offs, x o / 8 = x lo / 8 ∧ s1.resolve q.agent (x o) = x o ∧ valueOf (wsGet s1 (x o)) (newestId (wsGet s1 (x o))) = memGet s.mem (x o)) →
      mayChoose s1 (sawTags s1 q.agent (fun _ => false) F xs as) false (newestChoice s1 (offs.map x)) = true →
      bs = offs.map (fun o => (o, memGet s.mem (x o))))) ∧
  (∀ (s s1 s' : State) (q : Port) (space : Nat) (p : Word) (F F' : Frontier) (cells : List (Nat × Byte × Byte)) (xs : List Nat) (as : List Attrs),
    let lo := (cells.headD (0, 0, 0)).1
    memoryCanonical s → writeUnit s q space p F cells = .ok (s', F') → cells ≠ [] → windowLive s q.win space = true →
    engPlaces s q F space p lo ((cells.getLastD (0, 0, 0)).1 - lo + 1) .store = .ok (xs, as) → engTouch s q space (ptrVa p + lo) xs as true = .ok s1 →
    let x := fun (o : Nat) => s1.resolve q.agent (xs.getD (o - lo) 0)
    (∀ c ∈ cells, s1.live (x c.1) = true ∧ s1.resolve q.agent (x c.1) = x c.1 ∧ bankOf (x c.1) ≠ 9) →
    (cells.map (fun c => x c.1)).Nodup →
    (∀ c ∈ cells, memGet s'.mem (x c.1) = ((c.2.1 &&& c.2.2) ||| (memGet s.mem (x c.1) &&& ~~~ c.2.2))) ∧
    ∀ y, y ∉ cells.map (fun c => x c.1) → memGet s'.mem y = memGet s.mem y) ∧
  (∀ (s : State) (c : Command) (picks : List (Nat × Nat)) (a b : Reg) (t u q : Bool), c.instr = some (.cpy a b t u q) → cpyStop c = none →
    c.count ≠ 0 → c.nread = 0 → c.nwrit = 0 → c.buf = [] → c.ended = none →
    let X := c.reg 4
    let sf := ptrFmt (c.reg 2)
    let df := ptrFmt (c.reg 3)
    let len := ptrLen (c.reg 3)
    let src := fun (i : Nat) => elemPlace sf (bits X 0 3) (ptrLen (c.reg 2)) i
    let dst := fun (i : Nat) => elemPlace df (bits X 4 3) len i
    let rd := readRun s c.port (bits X 0 3) (c.reg 2) picks c.front (elemOffsets sf (bits X 0 3) (ptrLen (c.reg 2)) 0 c.count)
    let code := fun (i : Nat) =>
      let v := codeAt rd.bytes (src i)
      if sf = df then v
      else match fmtFloat sf, fmtFloat df with
        | some f, some g => (g.round 0 (f.decode v)).1
        | _, _ => ofInt (fmtBits df) (toSigned (fmtBits sf) v)
    rd.stop = none → (∀ i < c.count, placeRead rd.bytes (src i) = true) →
    ∃ cells, (∀ n, n ≠ 0 → slotBits df (bits X 4 3) = 8 * n → fmtBlocked df = false → ∀ i < c.count, ∀ k < n,
        alGet cells (n * i + k) = some (BitVec.ofNat 8 (code i / 2 ^ (8 * k)), 255#8)) ∧
      (fmtBlocked df = true → ∀ j < c.count / len, ∀ o, (dst (j * len)).scale = some o →
        alGet cells o = some (BitVec.ofNat 8 (scaleAt rd.bytes (src (j * len))), 255#8)) ∧
      ∀ w, writeRun rd.st c.port (bits X 4 3) (c.reg 3) rd.front cells = w → w.stop = none →
        performCommand s c picks 0 0 = .inl ⟨w.st, w.front, (runBytes df (bits X 4 3) len c.count).getD c.count, ⟨0, 0, 0⟩⟩) ∧
  (∀ (s : State) (c : Command) (picks : List (Nat × Nat)) (a b : Reg) (t u sc : Bool) (n : Nat),
    c.instr = some (if sc then .scat a b t u else .gath a b t u) → gathStop c = none → c.nwrit < c.count → n = (fmtBits (ptrFmt (c.reg 2)) + 7) / 8 →
    let X := c.reg 5
    let m := if ptrFmt (c.reg 3) = 5 then 8 else 4
    let i := c.nwrit
    let B := (bits X 0 3, c.reg 2)
    let L := (bits X 8 3, c.reg 4)
    let ix := readRun s c.port (bits X 4 3) (c.reg 3) picks c.front (span (i * m) m)
    let x := ofBytes (ix.bytes.map (·.2))
    let v := if sc then readRun ix.st c.port L.1 L.2 picks ix.front (span (i * n) n) else readRun ix.st c.port B.1 B.2 picks ix.front (span (x * n) n)
    let keep : Byte := if fmtBits (ptrFmt (c.reg 2)) = 6 then 63#8 else 255#8
    let bytes := v.bytes.map (fun e => (e.2 &&& keep, 255#8))
    let w := if sc then writeRun v.st c.port B.1 B.2 v.front ((span (x * n) n).zip bytes)
      else writeRun v.st c.port L.1 L.2 v.front ((span (i * n) n).zip bytes)
    ix.stop = none → v.stop = none → w.stop = none →
    performCommand s c picks 0 1 = if i + 1 = c.count then .inl ⟨w.st, w.front, c.count * n, ⟨0, 0, 0⟩⟩
      else .inr (setCommand w.st { c with front := w.front, nwrit := i + 1 })) ∧
  (∀ (s : State) (c : Command) (picks : List (Nat × Nat)) (a b : Reg) (t u q : Bool), c.instr = some (.qnt a b t u q) → qntStop c = none →
    c.nread = 0 → c.nwrit = 0 → c.buf = [] → c.ended = none →
    let Q := c.reg 4
    let sf := ptrFmt (c.reg 2)
    let df := ptrFmt (c.reg 3)
    let len := ptrLen (c.reg 3)
    let dst := fun (i : Nat) => elemPlace df (bits Q 28 3) len i
    let rd := readRun s c.port (bits Q 24 3) (c.reg 2) picks c.front (elemOffsets sf (bits Q 24 3) 0 0 c.count)
    let xs := rotateRun (hadLen (bits Q 20 2)) ((span 0 c.count).map (fun i => elemValue sf 0 (codeAt rd.bytes (elemPlace sf (bits Q 24 3) 0 i))))
    let clip := clipExp (bits Q 0 16) xs
    let blk := fun (k : Nat) => quantBlock df (bits Q 16 4) clip ((xs.drop (k * len)).take len)
    rd.stop = none →
    ∃ cells : List (Nat × Byte × Byte),
      (∀ k < c.count / len, ∀ o, (dst (k * len)).scale = some o → alGet cells o = some (BitVec.ofNat 8 (blk k).1, 255#8)) ∧
      (∀ i < c.count, codeAt (cells.map (fun e => (e.1, e.2.1))) (dst i) = (blk (i / len)).2.getD (i % len) 0 % 2 ^ (dst i).width) ∧
      (∀ e ∈ cells, e.2.2 = 255#8 ∧ ∃ i < c.count, (dst i).scale = some e.1 ∨ (dst i).byte ≤ e.1 ∧ e.1 < (dst i).byte + (dst i).bytes) ∧
      ∀ w, writeRun rd.st c.port (bits Q 28 3) (c.reg 3) rd.front cells = w → w.stop = none →
        performCommand s c picks 0 0 = .inl ⟨w.st, w.front, c.count / len * (1 + len * slotBits df (bits Q 28 3) / 8),
          ⟨0, 0, ofInt 16 (clip.getD (-32768))⟩⟩) ∧
  (∀ (types : Nat) (clip : Option Int) (xs : List FVal) (m : Int), (∃ t < 4, types.testBit t = true) → xs.any (·.isNan) = false →
    let inf := xs.any (fun x => match x with | .inf _ => true | _ => false)
    (inf = true ∧ m = 127) ∨ (inf = false ∧ m ∈ xs.filterMap expOf ∧ ∀ e ∈ xs.filterMap expOf, e ≤ m) →
    let s := match clip with | none => m | some e => min m e
    let byte := fun (t : Nat) => 64 * t + (max 0 (min 62 (s - (if t < 2 then 2 else 3) + 32))).toNat
    let less := fun (t u : Nat) => let a := typedError (byte t) xs; let b := typedError (byte u) xs; ltScaled a.1 a.2 b.1 b.2
    ∃ t < 4, types.testBit t = true ∧ quantBlock 14 types clip xs = (byte t, xs.map (typedEncode (byte t))) ∧
      ∀ u < 4, types.testBit u = true → less u t = false ∧ (less t u = false → t ≤ u)) ∧
  (∀ (types : Nat) (clip : Option Int) (xs : List FVal), (xs.any (·.isNan) = true → quantBlock 14 types clip xs = (0x3F, xs.map (fun _ => 0))) ∧
    (xs.any (·.isNan) = false → xs.any (fun x => match x with | .inf _ => true | _ => false) = false → xs.filterMap expOf = [] →
      quantBlock 14 types clip xs = (0, xs.map (fun _ => 0)))) ∧
  (∀ (f types : Nat) (clip : Option Int) (xs : List FVal), 15 ≤ f → f ≤ 18 →
    let blk := quantBlock f types clip xs
    let zeros := xs.map (fun _ => 0)
    let inf := xs.any (fun x => match x with | .inf _ => true | _ => false)
    let top : Int := [8, 15, 4, 2].getD (f - 15) 0
    (xs.any (·.isNan) = true → blk = (0x3F, zeros)) ∧
    (xs.any (·.isNan) = false → inf = false → xs.filterMap expOf = [] → blk = (0, zeros)) ∧
    (∀ m, xs.any (·.isNan) = false → (inf = true ∧ m = 127) ∨ (inf = false ∧ m ∈ xs.filterMap expOf ∧ ∀ e ∈ xs.filterMap expOf, e ≤ m) →
      let s := match clip with | none => m | some e => min m e
      blk.1 = (max 0 (min 62 (s - top + 32))).toNat ∧ blk.2 = xs.map (quantElem f blk.1))) ∧
  (∀ (s : State) (c : Command) (picks : List (Nat × Nat)) (a b : Reg) (t u : Bool) (K rows size : Nat), c.instr = some (.tld a b t u) → tldStop c = none →
    memoryCanonical s → c.nwrit < c.count → tileShape (ptrFmt (c.reg 2)) = some (K, rows, size) →
    let W := c.reg 3
    let f := ptrFmt (c.reg 2)
    let len := ptrLen (c.reg 2)
    let shift := c.nwrit * wStride W
    let row := wRow0 W + c.nwrit
    let z : Slot := ⟨rowOfQueue c.queue, wSlot W, gangOfQueue c.queue, false, true, f, bits (c.reg 2) 53 3⟩
    let base := slotBase z.row z.num
    let rd := readRun s c.port (wSpace W) (c.reg 2) picks c.front ((elemOffsets f (wSpace W) len 0 K).map (· + shift))
    let bs := rd.bytes.map (fun e => (e.1 - shift, e.2))
    rd.stop = none → memoryCanonical rd.st →
    ∃ s1, (performCommand s c picks 0 1 = .inl ⟨s1, rd.front, (tldBytes f len c.count).getD c.count, ⟨0, 0, 0⟩⟩ ∧ c.nwrit + 1 = c.count ∧
          (s.slotOf z.row z.num ≠ none → ∃ y, s1.slotOf z.row z.num = some y ∧ y.ready = true ∧ y.fmt = f ∧ y.blen = z.blen) ∨
        (∃ s2, performCommand s c picks 0 1 = .inr s2 ∧ s2.mem = s1.mem ∧ c.nwrit + 1 ≠ c.count)) ∧
      (∀ k < K, tileCode s1 z row k = codeAt bs (elemPlace f (wSpace W) len k)) ∧
      (fmtBlocked f = true → ∀ k < K, tileScale s1 z row k = scaleAt bs (elemPlace f (wSpace W) len (k / len * len))) ∧
      ∀ y, (y < base + size * row ∨ base + size * (row + 1) ≤ y) → (y < base + 32768 + 16 * row ∨ base + 32768 + 16 * (row + 1) ≤ y) →
        memGet s1.mem y = memGet rd.st.mem y) ∧
  (∀ (s : State) (c : Command) (picks : List (Nat × Nat)) (a b : Reg) (t u : Bool), accStop c = none → memoryCanonical s →
    let W := c.reg 3
    let acc := accAt (rowOfQueue c.queue) (gangOfQueue c.queue) (bits W 52 1)
    let key := accKey (rowOfQueue c.queue) (gangOfQueue c.queue) (bits W 52 1)
    (c.instr = some (.acst a b t u) → key ∉ s.accPoison → c.nwrit = 0 → c.count ≠ 0 →
      (∀ r < c.count, ∀ j < 512, (r * wStride W + j, memGet s.mem (acc + 512 * (wRow0 W + r) + j), 255#8) ∈ (acstUnits s c).flatten) ∧
      ∀ w, writeCells c.port (wSpace W) (c.reg 2) (acstUnits s c) s c.front = w → w.stop = none →
        performCommand s c picks 0 0 = .inl ⟨w.st, w.front, 512 * c.count, ⟨0, 0, 0⟩⟩) ∧
    (c.instr = some (.acld a b t u) → c.nwrit < c.count →
      let rd := readRun s c.port (wSpace W) (c.reg 2) picks c.front (span (c.nwrit * wStride W) 512)
      let lo := acc + 512 * (wRow0 W + c.nwrit)
      rd.stop = none → memoryCanonical rd.st → rd.bytes.length = 512 →
      ∃ s1, ((∃ s2, performCommand s c picks 0 1 = .inr s2 ∧ s2.mem = s1.mem ∧ c.nwrit + 1 ≠ c.count) ∨
          (performCommand s c picks 0 1 = .inl ⟨s1, rd.front, 512 * c.count, ⟨0, 0, 0⟩⟩ ∧ key ∉ s1.accPoison ∧ c.nwrit + 1 = c.count)) ∧
        (∀ j < 512, memGet s1.mem (lo + j) = (rd.bytes.map (·.2)).getD j 0) ∧
        ∀ y, y < lo ∨ lo + 512 ≤ y → memGet s1.mem y = memGet rd.st.mem y)) ∧
  (∀ (s : State) (c : Command) (picks : List (Nat × Nat)) (a b : Reg) (t u x h : Bool) (k : BitVec 4) (A B : Slot),
    c.instr = some (.mma a b t u k x h) → mmaStop s c k.toNat = none → memoryCanonical s → s.slotOf (rowOfQueue c.queue) (mA (c.reg 2)) = some A →
    s.slotOf (rowOfQueue c.queue) (mB (c.reg 2)) = some B →
    let m := c.reg 2
    let cls := k.toNat
    let g := c.kg
    let n := if cls = 0 then 64 else 128
    let size := if cls = 0 then 8 else 4
    let acc := accAt (rowOfQueue c.queue) (gangOfQueue c.queue) (mAcc m)
    let groups := min c.count (((tileShape A.fmt).getD (0, 0, 0)).1 / 16)
    let had := if h then 16 * 2 ^ mHsize m else 0
    let av := fun (i k : Nat) => (tileRow s A had i).getD k (.fin false 0 0)
    let bv := fun (j k : Nat) => (tileRow s B had j).getD k (.fin false 0 0)
    let row := fun (j : Nat) => if x then j / 2 else j
    let terms := fun (i j : Nat) =>
      if x = false then (span (16 * g) 16).map (fun k => (av i k, bv j k))
      else (span (8 * g) 8).flatMap (fun k =>
        if j % 2 = 0 then [(av i (2 * k), bv (row j) (2 * k)), ((av i (2 * k + 1)).neg, bv (row j) (2 * k + 1))]
        else [(av i (2 * k), bv (row j) (2 * k + 1)), (av i (2 * k + 1), bv (row j) (2 * k))])
    let old := fun (i j : Nat) => peek s (acc + size * (n * i + j)) size
    let puts := fun (s1 : State) (v : Nat → Nat → Nat) => (∀ i < n, ∀ j < n, peek s1 (acc + size * (n * i + j)) size = v i j % 2 ^ (8 * size)) ∧
      ∀ y, y < acc ∨ acc + size * n * n ≤ y → memGet s1.mem y = memGet s.mem y
    let ends := fun (v : Nat → Nat → Nat) => ∃ s1, puts s1 v ∧
      (groups ≤ g + 1 → performCommand s c picks 0 0 = .inl ⟨s1, c.front, size * n * n, ⟨0, 0, 0⟩⟩) ∧
      (g + 1 < groups → ∃ s2, performCommand s c picks 0 0 = .inr s2 ∧ s2.mem = s1.mem ∧
        ∀ y ∈ s.cmds, y.id = c.id → { y with kg := g + 1 } ∈ s2.cmds)
    (mIpath m = false →
      (cls = 0 → ends (fun i j => (terms i j).foldl (fun z p => (f64.fma 0 false false p.1 p.2 (f64.decode z)).1) (old i j))) ∧
      (cls = 5 → ends (fun i j => ofInt 32 ((old i j : Int) + ((terms i j).map (fun p => valInt p.1 * valInt p.2)).sum))) ∧
      (cls ≠ 0 → cls ≠ 5 → ends (fun i j => (f32.add 0 (f32.decode (old i j))
        (f32.decode (f32.round 0 (sumVals ((terms i j).map (fun p => prodVal p.1 p.2)))).1)).1))) ∧
    (mIpath m = true → cls ≠ 0 →
      let e := fun (i j k : Nat) => (bits (wd (tileScale s A i k)) 0 6 : Int) + bits (wd (tileScale s B j k)) 0 6 - mXsum m
      let ok := fun (i j k : Nat) => bits (wd (tileScale s A i k)) 0 6 ≠ 63 ∧ bits (wd (tileScale s B j k)) 0 6 ≠ 63 ∧ 0 ≤ e i j k ∧ e i j k ≤ 31
      let term := fun (i j k : Nat) => typedEighths (tileScale s A i k) (tileCode s A i k) * typedEighths (tileScale s B j k) (tileCode s B j k) *
        2 ^ (e i j k).toNat
      ((∀ i < 128, ∀ j < 128, ∀ k, 16 * g ≤ k → k < 16 * g + 16 → ok i j k) →
        ends (fun i j => ofInt 32 ((old i j : Int) + ((span (16 * g) 16).map (term i j)).sum))) ∧
      ((∃ i < 128, ∃ j < 128, ∃ k, 16 * g ≤ k ∧ k < 16 * g + 16 ∧ ¬ ok i j k) → ∃ s1, s1.mem = s.mem ∧
        performCommand s c picks 0 0 = .inl ⟨s1, c.front, 65536, ⟨25, 0, 0⟩⟩)))
end

