-- ==== Sys2Proof/Laws/Lists.lean ====
section
/-! SUPPORT. Keyed lists and memory as a list of cells: what a read finds after a write, and that memory's writes keep its
canonical form. -/
namespace Sys2Proof.Machine

/-! ## Keyed lists -/

theorem alGet_alSet_self {α : Type} (l : List (Nat × α)) (x : Nat) (v : α) : alGet (alSet l x v) x = some v := by
  induction l with
  | nil => simp [alSet, alGet]
  | cons e l ih =>
    obtain ⟨k, w⟩ := e
    simp only [alSet]
    split
    · simp [alGet]
    · split
      · simp [alGet]
      · next h => simp [alGet, h, ih]

theorem alGet_alSet_other {α : Type} (l : List (Nat × α)) {x y : Nat} (v : α) (h : y ≠ x) :
    alGet (alSet l x v) y = alGet l y := by
  induction l with
  | nil => simp [alSet, alGet, Ne.symm h]
  | cons e l ih =>
    obtain ⟨k, w⟩ := e
    simp only [alSet]
    split
    · simp [alGet, Ne.symm h]
    · split
      · next hk => subst hk; simp [alGet, Ne.symm h]
      · simp [alGet, ih]

theorem alGet_alSet {α : Type} (l : List (Nat × α)) (x y : Nat) (v : α) :
    alGet (alSet l x v) y = if y = x then some v else alGet l y := by
  split
  · next h => subst h; exact alGet_alSet_self ..
  · next h => exact alGet_alSet_other _ _ h

theorem alGet_alDel {α : Type} (l : List (Nat × α)) (x y : Nat) :
    alGet (alDel l x) y = if y = x then none else alGet l y := by
  induction l with
  | nil => simp [alDel, alGet]
  | cons e l ih =>
    obtain ⟨k, w⟩ := e
    simp only [alDel, List.filter_cons] at ih ⊢
    by_cases hk : k = x
    · subst hk
      simp only [bne_self_eq_false, Bool.false_eq_true, if_false, alGet, ih]
      split
      · rfl
      · next hy => rw [if_neg (Ne.symm hy)]
    · simp only [bne_iff_ne, ne_eq, hk, not_false_eq_true, if_true, alGet, ih]
      split
      · next hy => rw [if_neg (hy ▸ hk)]
      · rfl

/-! ## Memory -/

theorem memGet_memSet_other (m : List Host.Cell) {x y : Nat} (v : Byte) (h : y ≠ x) : memGet (memSet m x v) y = memGet m y := by
  induction m with
  | nil => simp only [memSet]; split <;> simp [memGet, Ne.symm h]
  | cons e m ih =>
    obtain ⟨k, w⟩ := e
    simp only [memSet]
    split
    · split <;> simp [memGet, Ne.symm h]
    · split
      · next hk => subst hk; split <;> simp [memGet, Ne.symm h]
      · simp [memGet, ih]

/-- The canonical form as a property of lists: addresses strictly rising, no byte zero. -/
theorem memory_wf_iff (m : List Host.Cell) : Memory.wf m = true ↔ m.Pairwise (fun a b => a.1 < b.1) ∧ ∀ c ∈ m, c.2 ≠ 0 := by
  induction m with
  | nil => simp [Memory.wf]
  | cons e m ih =>
    obtain ⟨k, v⟩ := e
    cases m with
    | nil => simp [Memory.wf]
    | cons e2 m =>
      obtain ⟨k2, v2⟩ := e2
      simp only [Memory.wf, Bool.and_eq_true, bne_iff_ne, decide_eq_true_eq, ih, List.pairwise_cons, List.mem_cons, forall_eq_or_imp]
      constructor
      · rintro ⟨⟨h1, h2⟩, ⟨h3, h4⟩, h5, h6⟩
        exact ⟨⟨⟨h2, fun a ha => Nat.lt_trans h2 (h3 a ha)⟩, h3, h4⟩, h1, h5, h6⟩
      · rintro ⟨⟨⟨h2, -⟩, h3, h4⟩, h1, h5, h6⟩
        exact ⟨⟨h1, h2⟩, ⟨h3, h4⟩, h5, h6⟩

/-- Every entry of a written memory is the one written or one of the memory's own. -/
theorem mem_memSet {m : List Host.Cell} {x : Nat} {v : Byte} {c : Host.Cell} (h : c ∈ memSet m x v) :
    (c = (x, v) ∧ v ≠ 0) ∨ c ∈ m := by
  induction m with
  | nil =>
    simp only [memSet] at h
    split at h
    · simp at h
    · next hv => exact .inl ⟨by simpa using h, hv⟩
  | cons e m ih =>
    obtain ⟨k, w⟩ := e
    simp only [memSet] at h
    split at h
    · split at h
      · exact .inr h
      · next hv =>
        rcases List.mem_cons.mp h with h | h
        · exact .inl ⟨h, hv⟩
        · exact .inr h
    · split at h
      · split at h
        · exact .inr (List.mem_cons_of_mem _ h)
        · next hv =>
          rcases List.mem_cons.mp h with h | h
          · exact .inl ⟨h, hv⟩
          · exact .inr (List.mem_cons_of_mem _ h)
      · rcases List.mem_cons.mp h with h | h
        · exact .inr (h ▸ List.mem_cons_self ..)
        · rcases ih h with h | h
          · exact .inl h
          · exact .inr (List.mem_cons_of_mem _ h)

theorem memory_wf_memSet {m : List Host.Cell} (x : Nat) (v : Byte) (h : Memory.wf m = true) : Memory.wf (memSet m x v) = true := by
  rw [memory_wf_iff] at h ⊢
  obtain ⟨hp, hz⟩ := h
  refine ⟨?_, fun c hc => ?_⟩
  · clear hz
    induction m with
    | nil => simp only [memSet]; split <;> simp
    | cons e m ih =>
      obtain ⟨k, w⟩ := e
      have hk := List.pairwise_cons.mp hp
      simp only [memSet]
      split
      · next hx =>
        split
        · exact hp
        · exact List.pairwise_cons.mpr ⟨fun c hc => by
            rcases List.mem_cons.mp hc with rfl | hc
            · exact hx
            · exact Nat.lt_trans hx (hk.1 c hc), hp⟩
      · split
        · next hx =>
          subst hx
          split
          · exact hk.2
          · exact List.pairwise_cons.mpr ⟨hk.1, hk.2⟩
        · next hlt hne =>
          refine List.pairwise_cons.mpr ⟨fun c hc => ?_, ih hk.2⟩
          rcases mem_memSet hc with ⟨rfl, -⟩ | hc
          · exact Nat.lt_of_le_of_ne (Nat.le_of_not_lt hlt) hne
          · exact hk.1 c hc
  · rcases mem_memSet hc with ⟨rfl, hv⟩ | hc
    · exact hv
    · exact hz c hc

theorem memory_wf_filter {m : List Host.Cell} (p : Host.Cell → Bool) (h : Memory.wf m = true) : Memory.wf (m.filter p) = true := by
  rw [memory_wf_iff] at h ⊢
  exact ⟨h.1.filter p, fun c hc => h.2 c (List.mem_filter.mp hc).1⟩

/-- A location below or between the listed addresses reads zero. -/
theorem memGet_of_all_gt {m : List Host.Cell} {x : Nat} (h : ∀ c ∈ m, x < c.1) : memGet m x = 0 := by
  induction m with
  | nil => rfl
  | cons e m ih =>
    obtain ⟨k, w⟩ := e
    have hk : x < k := h (k, w) (List.mem_cons_self ..)
    simp only [memGet]
    rw [if_neg (Nat.ne_of_gt hk)]
    exact ih (fun c hc => h c (List.mem_cons_of_mem _ hc))

theorem memGet_memSet_self {m : List Host.Cell} (x : Nat) (v : Byte) (h : Memory.wf m = true) : memGet (memSet m x v) x = v := by
  have hp := ((memory_wf_iff m).mp h).1
  clear h
  induction m with
  | nil => simp only [memSet]; split <;> simp [memGet, *]
  | cons e m ih =>
    obtain ⟨k, w⟩ := e
    have hk := List.pairwise_cons.mp hp
    simp only [memSet]
    split
    · next hx =>
      split
      · next hv =>
        subst hv
        exact memGet_of_all_gt (fun c hc => by
          rcases List.mem_cons.mp hc with rfl | hc
          · exact hx
          · exact Nat.lt_trans hx (hk.1 c hc))
      · simp [memGet]
    · split
      · next hx =>
        subst hx
        split
        · next hv => subst hv; exact memGet_of_all_gt hk.1
        · simp [memGet]
      · next hne => simp only [memGet]; rw [if_neg hne]; exact ih hk.2

theorem memGet_memSet {m : List Host.Cell} (x y : Nat) (v : Byte) (h : Memory.wf m = true) :
    memGet (memSet m x v) y = if y = x then v else memGet m y := by
  split
  · next hx => subst hx; exact memGet_memSet_self _ _ h
  · next hx => exact memGet_memSet_other _ _ hx

/-- A memory without the cells of a range reads zero in it and as before outside it. -/
theorem memGet_filter (m : List Host.Cell) (lo hi x : Nat) :
    memGet (m.filter (fun c => !(decide (lo ≤ c.1) && decide (c.1 < hi)))) x = if lo ≤ x ∧ x < hi then 0 else memGet m x := by
  induction m with
  | nil => simp [memGet]
  | cons e m ih =>
    obtain ⟨k, w⟩ := e
    simp only [List.filter_cons]
    by_cases hk : lo ≤ k ∧ k < hi
    · simp only [hk.1, hk.2, decide_true, Bool.and_self, Bool.not_true, Bool.false_eq_true, if_false, ih, memGet]
      split
      · rfl
      · next hx =>
        rw [if_neg]
        intro hkx
        subst hkx
        exact hx hk
    · have hb : (!(decide (lo ≤ k) && decide (k < hi))) = true := by
        rw [Bool.not_eq_true', ← Bool.not_eq_true, Bool.and_eq_true, decide_eq_true_eq, decide_eq_true_eq]
        exact hk
      simp only [hb, if_true, memGet, ih]
      by_cases hkx : k = x
      · subst hkx
        rw [if_pos rfl, if_pos rfl, if_neg hk]
      · rw [if_neg hkx, if_neg hkx]

end Sys2Proof.Machine
end

