-- ==== Sys2Proof/Laws/State.lean ====
section
/-! SUPPORT. The state under its updates: one lemma per field per update, and what each container answers after one. -/
namespace Sys2Proof.Machine

/-! ## setThread -/

@[simp] theorem State.setThread_threads (s : State) (loc : Nat) (t : Thread) : (s.setThread loc t).threads = alSet s.threads loc t := rfl
@[simp] theorem State.setThread_cores (s : State) (loc : Nat) (t : Thread) : (s.setThread loc t).cores = s.cores := rfl
@[simp] theorem State.setThread_mem (s : State) (loc : Nat) (t : Thread) : (s.setThread loc t).mem = s.mem := rfl
@[simp] theorem State.setThread_wsets (s : State) (loc : Nat) (t : Thread) : (s.setThread loc t).wsets = s.wsets := rfl
@[simp] theorem State.setThread_fsc (s : State) (loc : Nat) (t : Thread) : (s.setThread loc t).fsc = s.fsc := rfl
@[simp] theorem State.setThread_poison (s : State) (loc : Nat) (t : Thread) : (s.setThread loc t).poison = s.poison := rfl
@[simp] theorem State.setThread_dir (s : State) (loc : Nat) (t : Thread) : (s.setThread loc t).dir = s.dir := rfl
@[simp] theorem State.setThread_homeTx (s : State) (loc : Nat) (t : Thread) : (s.setThread loc t).homeTx = s.homeTx := rfl
@[simp] theorem State.setThread_errInv (s : State) (loc : Nat) (t : Thread) : (s.setThread loc t).errInv = s.errInv := rfl
@[simp] theorem State.setThread_sliceMsgs (s : State) (loc : Nat) (t : Thread) : (s.setThread loc t).sliceMsgs = s.sliceMsgs := rfl
@[simp] theorem State.setThread_detached (s : State) (loc : Nat) (t : Thread) : (s.setThread loc t).detached = s.detached := rfl
@[simp] theorem State.setThread_l1d (s : State) (loc : Nat) (t : Thread) : (s.setThread loc t).l1d = s.l1d := rfl
@[simp] theorem State.setThread_l1i (s : State) (loc : Nat) (t : Thread) : (s.setThread loc t).l1i = s.l1i := rfl
@[simp] theorem State.setThread_l2 (s : State) (loc : Nat) (t : Thread) : (s.setThread loc t).l2 = s.l2 := rfl
@[simp] theorem State.setThread_tlb (s : State) (loc : Nat) (t : Thread) : (s.setThread loc t).tlb = s.tlb := rfl
@[simp] theorem State.setThread_cmds (s : State) (loc : Nat) (t : Thread) : (s.setThread loc t).cmds = s.cmds := rfl
@[simp] theorem State.setThread_qfront (s : State) (loc : Nat) (t : Thread) : (s.setThread loc t).qfront = s.qfront := rfl
@[simp] theorem State.setThread_peers (s : State) (loc : Nat) (t : Thread) : (s.setThread loc t).peers = s.peers := rfl
@[simp] theorem State.setThread_rmas (s : State) (loc : Nat) (t : Thread) : (s.setThread loc t).rmas = s.rmas := rfl
@[simp] theorem State.setThread_slices (s : State) (loc : Nat) (t : Thread) : (s.setThread loc t).slices = s.slices := rfl
@[simp] theorem State.setThread_dev (s : State) (loc : Nat) (t : Thread) : (s.setThread loc t).dev = s.dev := rfl
@[simp] theorem State.setThread_gangs (s : State) (loc : Nat) (t : Thread) : (s.setThread loc t).gangs = s.gangs := rfl
@[simp] theorem State.setThread_slots (s : State) (loc : Nat) (t : Thread) : (s.setThread loc t).slots = s.slots := rfl
@[simp] theorem State.setThread_claims (s : State) (loc : Nat) (t : Thread) : (s.setThread loc t).claims = s.claims := rfl
@[simp] theorem State.setThread_accPoison (s : State) (loc : Nat) (t : Thread) : (s.setThread loc t).accPoison = s.accPoison := rfl
@[simp] theorem State.setThread_rowErr (s : State) (loc : Nat) (t : Thread) : (s.setThread loc t).rowErr = s.rowErr := rfl
@[simp] theorem State.setThread_parts (s : State) (loc : Nat) (t : Thread) : (s.setThread loc t).parts = s.parts := rfl
@[simp] theorem State.setThread_launches (s : State) (loc : Nat) (t : Thread) : (s.setThread loc t).launches = s.launches := rfl
@[simp] theorem State.setThread_groups (s : State) (loc : Nat) (t : Thread) : (s.setThread loc t).groups = s.groups := rfl
@[simp] theorem State.setThread_saved (s : State) (loc : Nat) (t : Thread) : (s.setThread loc t).saved = s.saved := rfl
@[simp] theorem State.setThread_sgangs (s : State) (loc : Nat) (t : Thread) : (s.setThread loc t).sgangs = s.sgangs := rfl
@[simp] theorem State.setThread_spawns (s : State) (loc : Nat) (t : Thread) : (s.setThread loc t).spawns = s.spawns := rfl
@[simp] theorem State.setThread_operands (s : State) (loc : Nat) (t : Thread) : (s.setThread loc t).operands = s.operands := rfl
@[simp] theorem State.setThread_deliveries (s : State) (loc : Nat) (t : Thread) : (s.setThread loc t).deliveries = s.deliveries := rfl
@[simp] theorem State.setThread_markers (s : State) (loc : Nat) (t : Thread) : (s.setThread loc t).markers = s.markers := rfl
@[simp] theorem State.setThread_appends (s : State) (loc : Nat) (t : Thread) : (s.setThread loc t).appends = s.appends := rfl
@[simp] theorem State.setThread_halted (s : State) (loc : Nat) (t : Thread) : (s.setThread loc t).halted = s.halted := rfl
@[simp] theorem State.setThread_ranks (s : State) (loc : Nat) (t : Thread) : (s.setThread loc t).ranks = s.ranks := rfl
@[simp] theorem State.setThread_dieErr (s : State) (loc : Nat) (t : Thread) : (s.setThread loc t).dieErr = s.dieErr := rfl
@[simp] theorem State.setThread_mdieErr (s : State) (loc : Nat) (t : Thread) : (s.setThread loc t).mdieErr = s.mdieErr := rfl
@[simp] theorem State.setThread_hbmErr (s : State) (loc : Nat) (t : Thread) : (s.setThread loc t).hbmErr = s.hbmErr := rfl
@[simp] theorem State.setThread_carve (s : State) (loc : Nat) (t : Thread) : (s.setThread loc t).carve = s.carve := rfl
@[simp] theorem State.setThread_time (s : State) (loc : Nat) (t : Thread) : (s.setThread loc t).time = s.time := rfl
@[simp] theorem State.setThread_flash (s : State) (loc : Nat) (t : Thread) : (s.setThread loc t).flash = s.flash := rfl
@[simp] theorem State.setThread_mon (s : State) (loc : Nat) (t : Thread) : (s.setThread loc t).mon = s.mon := rfl
@[simp] theorem State.setThread_out (s : State) (loc : Nat) (t : Thread) : (s.setThread loc t).out = s.out := rfl
@[simp] theorem State.setThread_banks (s : State) (loc : Nat) (t : Thread) : (s.setThread loc t).banks = s.banks := rfl
@[simp] theorem State.setThread_moves (s : State) (loc : Nat) (t : Thread) : (s.setThread loc t).moves = s.moves := rfl
@[simp] theorem State.setThread_issue (s : State) (loc : Nat) (t : Thread) : (s.setThread loc t).issue = s.issue := rfl
@[simp] theorem State.setThread_picks (s : State) (loc : Nat) (t : Thread) : (s.setThread loc t).picks = s.picks := rfl
@[simp] theorem State.setThread_late (s : State) (loc : Nat) (t : Thread) : (s.setThread loc t).late = s.late := rfl
@[simp] theorem State.setThread_cur (s : State) (loc : Nat) (t : Thread) : (s.setThread loc t).cur = s.cur := rfl
@[simp] theorem State.setThread_ir (s : State) (loc : Nat) (t : Thread) : (s.setThread loc t).ir = s.ir := rfl
@[simp] theorem State.setThread_fresh (s : State) (loc : Nat) (t : Thread) : (s.setThread loc t).fresh = s.fresh := rfl
@[simp] theorem State.setThread_draws (s : State) (loc : Nat) (t : Thread) : (s.setThread loc t).draws = s.draws := rfl

/-! ## put -/

@[simp] theorem State.put_threads (s : State) (t : Thread) : (s.put t).threads = alSet s.threads s.cur t := rfl
@[simp] theorem State.put_cores (s : State) (t : Thread) : (s.put t).cores = s.cores := rfl
@[simp] theorem State.put_mem (s : State) (t : Thread) : (s.put t).mem = s.mem := rfl
@[simp] theorem State.put_wsets (s : State) (t : Thread) : (s.put t).wsets = s.wsets := rfl
@[simp] theorem State.put_fsc (s : State) (t : Thread) : (s.put t).fsc = s.fsc := rfl
@[simp] theorem State.put_poison (s : State) (t : Thread) : (s.put t).poison = s.poison := rfl
@[simp] theorem State.put_dir (s : State) (t : Thread) : (s.put t).dir = s.dir := rfl
@[simp] theorem State.put_homeTx (s : State) (t : Thread) : (s.put t).homeTx = s.homeTx := rfl
@[simp] theorem State.put_errInv (s : State) (t : Thread) : (s.put t).errInv = s.errInv := rfl
@[simp] theorem State.put_sliceMsgs (s : State) (t : Thread) : (s.put t).sliceMsgs = s.sliceMsgs := rfl
@[simp] theorem State.put_detached (s : State) (t : Thread) : (s.put t).detached = s.detached := rfl
@[simp] theorem State.put_l1d (s : State) (t : Thread) : (s.put t).l1d = s.l1d := rfl
@[simp] theorem State.put_l1i (s : State) (t : Thread) : (s.put t).l1i = s.l1i := rfl
@[simp] theorem State.put_l2 (s : State) (t : Thread) : (s.put t).l2 = s.l2 := rfl
@[simp] theorem State.put_tlb (s : State) (t : Thread) : (s.put t).tlb = s.tlb := rfl
@[simp] theorem State.put_cmds (s : State) (t : Thread) : (s.put t).cmds = s.cmds := rfl
@[simp] theorem State.put_qfront (s : State) (t : Thread) : (s.put t).qfront = s.qfront := rfl
@[simp] theorem State.put_peers (s : State) (t : Thread) : (s.put t).peers = s.peers := rfl
@[simp] theorem State.put_rmas (s : State) (t : Thread) : (s.put t).rmas = s.rmas := rfl
@[simp] theorem State.put_slices (s : State) (t : Thread) : (s.put t).slices = s.slices := rfl
@[simp] theorem State.put_dev (s : State) (t : Thread) : (s.put t).dev = s.dev := rfl
@[simp] theorem State.put_gangs (s : State) (t : Thread) : (s.put t).gangs = s.gangs := rfl
@[simp] theorem State.put_slots (s : State) (t : Thread) : (s.put t).slots = s.slots := rfl
@[simp] theorem State.put_claims (s : State) (t : Thread) : (s.put t).claims = s.claims := rfl
@[simp] theorem State.put_accPoison (s : State) (t : Thread) : (s.put t).accPoison = s.accPoison := rfl
@[simp] theorem State.put_rowErr (s : State) (t : Thread) : (s.put t).rowErr = s.rowErr := rfl
@[simp] theorem State.put_parts (s : State) (t : Thread) : (s.put t).parts = s.parts := rfl
@[simp] theorem State.put_launches (s : State) (t : Thread) : (s.put t).launches = s.launches := rfl
@[simp] theorem State.put_groups (s : State) (t : Thread) : (s.put t).groups = s.groups := rfl
@[simp] theorem State.put_saved (s : State) (t : Thread) : (s.put t).saved = s.saved := rfl
@[simp] theorem State.put_sgangs (s : State) (t : Thread) : (s.put t).sgangs = s.sgangs := rfl
@[simp] theorem State.put_spawns (s : State) (t : Thread) : (s.put t).spawns = s.spawns := rfl
@[simp] theorem State.put_operands (s : State) (t : Thread) : (s.put t).operands = s.operands := rfl
@[simp] theorem State.put_deliveries (s : State) (t : Thread) : (s.put t).deliveries = s.deliveries := rfl
@[simp] theorem State.put_markers (s : State) (t : Thread) : (s.put t).markers = s.markers := rfl
@[simp] theorem State.put_appends (s : State) (t : Thread) : (s.put t).appends = s.appends := rfl
@[simp] theorem State.put_halted (s : State) (t : Thread) : (s.put t).halted = s.halted := rfl
@[simp] theorem State.put_ranks (s : State) (t : Thread) : (s.put t).ranks = s.ranks := rfl
@[simp] theorem State.put_dieErr (s : State) (t : Thread) : (s.put t).dieErr = s.dieErr := rfl
@[simp] theorem State.put_mdieErr (s : State) (t : Thread) : (s.put t).mdieErr = s.mdieErr := rfl
@[simp] theorem State.put_hbmErr (s : State) (t : Thread) : (s.put t).hbmErr = s.hbmErr := rfl
@[simp] theorem State.put_carve (s : State) (t : Thread) : (s.put t).carve = s.carve := rfl
@[simp] theorem State.put_time (s : State) (t : Thread) : (s.put t).time = s.time := rfl
@[simp] theorem State.put_flash (s : State) (t : Thread) : (s.put t).flash = s.flash := rfl
@[simp] theorem State.put_mon (s : State) (t : Thread) : (s.put t).mon = s.mon := rfl
@[simp] theorem State.put_out (s : State) (t : Thread) : (s.put t).out = s.out := rfl
@[simp] theorem State.put_banks (s : State) (t : Thread) : (s.put t).banks = s.banks := rfl
@[simp] theorem State.put_moves (s : State) (t : Thread) : (s.put t).moves = s.moves := rfl
@[simp] theorem State.put_issue (s : State) (t : Thread) : (s.put t).issue = s.issue := rfl
@[simp] theorem State.put_picks (s : State) (t : Thread) : (s.put t).picks = s.picks := rfl
@[simp] theorem State.put_late (s : State) (t : Thread) : (s.put t).late = s.late := rfl
@[simp] theorem State.put_cur (s : State) (t : Thread) : (s.put t).cur = s.cur := rfl
@[simp] theorem State.put_ir (s : State) (t : Thread) : (s.put t).ir = s.ir := rfl
@[simp] theorem State.put_fresh (s : State) (t : Thread) : (s.put t).fresh = s.fresh := rfl
@[simp] theorem State.put_draws (s : State) (t : Thread) : (s.put t).draws = s.draws := rfl

/-! ## dropThread -/

@[simp] theorem State.dropThread_threads (s : State) (loc : Nat) : (s.dropThread loc).threads = alDel s.threads loc := rfl
@[simp] theorem State.dropThread_cores (s : State) (loc : Nat) : (s.dropThread loc).cores = s.cores := rfl
@[simp] theorem State.dropThread_mem (s : State) (loc : Nat) : (s.dropThread loc).mem = s.mem := rfl
@[simp] theorem State.dropThread_wsets (s : State) (loc : Nat) : (s.dropThread loc).wsets = s.wsets := rfl
@[simp] theorem State.dropThread_fsc (s : State) (loc : Nat) : (s.dropThread loc).fsc = s.fsc := rfl
@[simp] theorem State.dropThread_poison (s : State) (loc : Nat) : (s.dropThread loc).poison = s.poison := rfl
@[simp] theorem State.dropThread_dir (s : State) (loc : Nat) : (s.dropThread loc).dir = s.dir := rfl
@[simp] theorem State.dropThread_homeTx (s : State) (loc : Nat) : (s.dropThread loc).homeTx = s.homeTx := rfl
@[simp] theorem State.dropThread_errInv (s : State) (loc : Nat) : (s.dropThread loc).errInv = s.errInv := rfl
@[simp] theorem State.dropThread_sliceMsgs (s : State) (loc : Nat) : (s.dropThread loc).sliceMsgs = s.sliceMsgs := rfl
@[simp] theorem State.dropThread_detached (s : State) (loc : Nat) : (s.dropThread loc).detached = s.detached := rfl
@[simp] theorem State.dropThread_l1d (s : State) (loc : Nat) : (s.dropThread loc).l1d = s.l1d := rfl
@[simp] theorem State.dropThread_l1i (s : State) (loc : Nat) : (s.dropThread loc).l1i = s.l1i := rfl
@[simp] theorem State.dropThread_l2 (s : State) (loc : Nat) : (s.dropThread loc).l2 = s.l2 := rfl
@[simp] theorem State.dropThread_tlb (s : State) (loc : Nat) : (s.dropThread loc).tlb = s.tlb := rfl
@[simp] theorem State.dropThread_cmds (s : State) (loc : Nat) : (s.dropThread loc).cmds = s.cmds := rfl
@[simp] theorem State.dropThread_qfront (s : State) (loc : Nat) : (s.dropThread loc).qfront = s.qfront := rfl
@[simp] theorem State.dropThread_peers (s : State) (loc : Nat) : (s.dropThread loc).peers = s.peers := rfl
@[simp] theorem State.dropThread_rmas (s : State) (loc : Nat) : (s.dropThread loc).rmas = s.rmas := rfl
@[simp] theorem State.dropThread_slices (s : State) (loc : Nat) : (s.dropThread loc).slices = s.slices := rfl
@[simp] theorem State.dropThread_dev (s : State) (loc : Nat) : (s.dropThread loc).dev = s.dev := rfl
@[simp] theorem State.dropThread_gangs (s : State) (loc : Nat) : (s.dropThread loc).gangs = s.gangs := rfl
@[simp] theorem State.dropThread_slots (s : State) (loc : Nat) : (s.dropThread loc).slots = s.slots := rfl
@[simp] theorem State.dropThread_claims (s : State) (loc : Nat) : (s.dropThread loc).claims = s.claims := rfl
@[simp] theorem State.dropThread_accPoison (s : State) (loc : Nat) : (s.dropThread loc).accPoison = s.accPoison := rfl
@[simp] theorem State.dropThread_rowErr (s : State) (loc : Nat) : (s.dropThread loc).rowErr = s.rowErr := rfl
@[simp] theorem State.dropThread_parts (s : State) (loc : Nat) : (s.dropThread loc).parts = s.parts := rfl
@[simp] theorem State.dropThread_launches (s : State) (loc : Nat) : (s.dropThread loc).launches = s.launches := rfl
@[simp] theorem State.dropThread_groups (s : State) (loc : Nat) : (s.dropThread loc).groups = s.groups := rfl
@[simp] theorem State.dropThread_saved (s : State) (loc : Nat) : (s.dropThread loc).saved = s.saved := rfl
@[simp] theorem State.dropThread_sgangs (s : State) (loc : Nat) : (s.dropThread loc).sgangs = s.sgangs := rfl
@[simp] theorem State.dropThread_spawns (s : State) (loc : Nat) : (s.dropThread loc).spawns = s.spawns := rfl
@[simp] theorem State.dropThread_operands (s : State) (loc : Nat) : (s.dropThread loc).operands = s.operands := rfl
@[simp] theorem State.dropThread_deliveries (s : State) (loc : Nat) : (s.dropThread loc).deliveries = s.deliveries := rfl
@[simp] theorem State.dropThread_markers (s : State) (loc : Nat) : (s.dropThread loc).markers = s.markers := rfl
@[simp] theorem State.dropThread_appends (s : State) (loc : Nat) : (s.dropThread loc).appends = s.appends := rfl
@[simp] theorem State.dropThread_halted (s : State) (loc : Nat) : (s.dropThread loc).halted = s.halted := rfl
@[simp] theorem State.dropThread_ranks (s : State) (loc : Nat) : (s.dropThread loc).ranks = s.ranks := rfl
@[simp] theorem State.dropThread_dieErr (s : State) (loc : Nat) : (s.dropThread loc).dieErr = s.dieErr := rfl
@[simp] theorem State.dropThread_mdieErr (s : State) (loc : Nat) : (s.dropThread loc).mdieErr = s.mdieErr := rfl
@[simp] theorem State.dropThread_hbmErr (s : State) (loc : Nat) : (s.dropThread loc).hbmErr = s.hbmErr := rfl
@[simp] theorem State.dropThread_carve (s : State) (loc : Nat) : (s.dropThread loc).carve = s.carve := rfl
@[simp] theorem State.dropThread_time (s : State) (loc : Nat) : (s.dropThread loc).time = s.time := rfl
@[simp] theorem State.dropThread_flash (s : State) (loc : Nat) : (s.dropThread loc).flash = s.flash := rfl
@[simp] theorem State.dropThread_mon (s : State) (loc : Nat) : (s.dropThread loc).mon = s.mon := rfl
@[simp] theorem State.dropThread_out (s : State) (loc : Nat) : (s.dropThread loc).out = s.out := rfl
@[simp] theorem State.dropThread_banks (s : State) (loc : Nat) : (s.dropThread loc).banks = s.banks := rfl
@[simp] theorem State.dropThread_moves (s : State) (loc : Nat) : (s.dropThread loc).moves = s.moves := rfl
@[simp] theorem State.dropThread_issue (s : State) (loc : Nat) : (s.dropThread loc).issue = s.issue := rfl
@[simp] theorem State.dropThread_picks (s : State) (loc : Nat) : (s.dropThread loc).picks = s.picks := rfl
@[simp] theorem State.dropThread_late (s : State) (loc : Nat) : (s.dropThread loc).late = s.late.filter (· != loc) := rfl
@[simp] theorem State.dropThread_cur (s : State) (loc : Nat) : (s.dropThread loc).cur = s.cur := rfl
@[simp] theorem State.dropThread_ir (s : State) (loc : Nat) : (s.dropThread loc).ir = s.ir := rfl
@[simp] theorem State.dropThread_fresh (s : State) (loc : Nat) : (s.dropThread loc).fresh = s.fresh := rfl
@[simp] theorem State.dropThread_draws (s : State) (loc : Nat) : (s.dropThread loc).draws = s.draws := rfl

/-! ## setCore -/

@[simp] theorem State.setCore_threads (s : State) (c : Nat) (k : Core) : (s.setCore c k).threads = s.threads := rfl
@[simp] theorem State.setCore_cores (s : State) (c : Nat) (k : Core) : (s.setCore c k).cores = alSet s.cores c k := rfl
@[simp] theorem State.setCore_mem (s : State) (c : Nat) (k : Core) : (s.setCore c k).mem = s.mem := rfl
@[simp] theorem State.setCore_wsets (s : State) (c : Nat) (k : Core) : (s.setCore c k).wsets = s.wsets := rfl
@[simp] theorem State.setCore_fsc (s : State) (c : Nat) (k : Core) : (s.setCore c k).fsc = s.fsc := rfl
@[simp] theorem State.setCore_poison (s : State) (c : Nat) (k : Core) : (s.setCore c k).poison = s.poison := rfl
@[simp] theorem State.setCore_dir (s : State) (c : Nat) (k : Core) : (s.setCore c k).dir = s.dir := rfl
@[simp] theorem State.setCore_homeTx (s : State) (c : Nat) (k : Core) : (s.setCore c k).homeTx = s.homeTx := rfl
@[simp] theorem State.setCore_errInv (s : State) (c : Nat) (k : Core) : (s.setCore c k).errInv = s.errInv := rfl
@[simp] theorem State.setCore_sliceMsgs (s : State) (c : Nat) (k : Core) : (s.setCore c k).sliceMsgs = s.sliceMsgs := rfl
@[simp] theorem State.setCore_detached (s : State) (c : Nat) (k : Core) : (s.setCore c k).detached = s.detached := rfl
@[simp] theorem State.setCore_l1d (s : State) (c : Nat) (k : Core) : (s.setCore c k).l1d = s.l1d := rfl
@[simp] theorem State.setCore_l1i (s : State) (c : Nat) (k : Core) : (s.setCore c k).l1i = s.l1i := rfl
@[simp] theorem State.setCore_l2 (s : State) (c : Nat) (k : Core) : (s.setCore c k).l2 = s.l2 := rfl
@[simp] theorem State.setCore_tlb (s : State) (c : Nat) (k : Core) : (s.setCore c k).tlb = s.tlb := rfl
@[simp] theorem State.setCore_cmds (s : State) (c : Nat) (k : Core) : (s.setCore c k).cmds = s.cmds := rfl
@[simp] theorem State.setCore_qfront (s : State) (c : Nat) (k : Core) : (s.setCore c k).qfront = s.qfront := rfl
@[simp] theorem State.setCore_peers (s : State) (c : Nat) (k : Core) : (s.setCore c k).peers = s.peers := rfl
@[simp] theorem State.setCore_rmas (s : State) (c : Nat) (k : Core) : (s.setCore c k).rmas = s.rmas := rfl
@[simp] theorem State.setCore_slices (s : State) (c : Nat) (k : Core) : (s.setCore c k).slices = s.slices := rfl
@[simp] theorem State.setCore_dev (s : State) (c : Nat) (k : Core) : (s.setCore c k).dev = s.dev := rfl
@[simp] theorem State.setCore_gangs (s : State) (c : Nat) (k : Core) : (s.setCore c k).gangs = s.gangs := rfl
@[simp] theorem State.setCore_slots (s : State) (c : Nat) (k : Core) : (s.setCore c k).slots = s.slots := rfl
@[simp] theorem State.setCore_claims (s : State) (c : Nat) (k : Core) : (s.setCore c k).claims = s.claims := rfl
@[simp] theorem State.setCore_accPoison (s : State) (c : Nat) (k : Core) : (s.setCore c k).accPoison = s.accPoison := rfl
@[simp] theorem State.setCore_rowErr (s : State) (c : Nat) (k : Core) : (s.setCore c k).rowErr = s.rowErr := rfl
@[simp] theorem State.setCore_parts (s : State) (c : Nat) (k : Core) : (s.setCore c k).parts = s.parts := rfl
@[simp] theorem State.setCore_launches (s : State) (c : Nat) (k : Core) : (s.setCore c k).launches = s.launches := rfl
@[simp] theorem State.setCore_groups (s : State) (c : Nat) (k : Core) : (s.setCore c k).groups = s.groups := rfl
@[simp] theorem State.setCore_saved (s : State) (c : Nat) (k : Core) : (s.setCore c k).saved = s.saved := rfl
@[simp] theorem State.setCore_sgangs (s : State) (c : Nat) (k : Core) : (s.setCore c k).sgangs = s.sgangs := rfl
@[simp] theorem State.setCore_spawns (s : State) (c : Nat) (k : Core) : (s.setCore c k).spawns = s.spawns := rfl
@[simp] theorem State.setCore_operands (s : State) (c : Nat) (k : Core) : (s.setCore c k).operands = s.operands := rfl
@[simp] theorem State.setCore_deliveries (s : State) (c : Nat) (k : Core) : (s.setCore c k).deliveries = s.deliveries := rfl
@[simp] theorem State.setCore_markers (s : State) (c : Nat) (k : Core) : (s.setCore c k).markers = s.markers := rfl
@[simp] theorem State.setCore_appends (s : State) (c : Nat) (k : Core) : (s.setCore c k).appends = s.appends := rfl
@[simp] theorem State.setCore_halted (s : State) (c : Nat) (k : Core) : (s.setCore c k).halted = s.halted := rfl
@[simp] theorem State.setCore_ranks (s : State) (c : Nat) (k : Core) : (s.setCore c k).ranks = s.ranks := rfl
@[simp] theorem State.setCore_dieErr (s : State) (c : Nat) (k : Core) : (s.setCore c k).dieErr = s.dieErr := rfl
@[simp] theorem State.setCore_mdieErr (s : State) (c : Nat) (k : Core) : (s.setCore c k).mdieErr = s.mdieErr := rfl
@[simp] theorem State.setCore_hbmErr (s : State) (c : Nat) (k : Core) : (s.setCore c k).hbmErr = s.hbmErr := rfl
@[simp] theorem State.setCore_carve (s : State) (c : Nat) (k : Core) : (s.setCore c k).carve = s.carve := rfl
@[simp] theorem State.setCore_time (s : State) (c : Nat) (k : Core) : (s.setCore c k).time = s.time := rfl
@[simp] theorem State.setCore_flash (s : State) (c : Nat) (k : Core) : (s.setCore c k).flash = s.flash := rfl
@[simp] theorem State.setCore_mon (s : State) (c : Nat) (k : Core) : (s.setCore c k).mon = s.mon := rfl
@[simp] theorem State.setCore_out (s : State) (c : Nat) (k : Core) : (s.setCore c k).out = s.out := rfl
@[simp] theorem State.setCore_banks (s : State) (c : Nat) (k : Core) : (s.setCore c k).banks = s.banks := rfl
@[simp] theorem State.setCore_moves (s : State) (c : Nat) (k : Core) : (s.setCore c k).moves = s.moves := rfl
@[simp] theorem State.setCore_issue (s : State) (c : Nat) (k : Core) : (s.setCore c k).issue = s.issue := rfl
@[simp] theorem State.setCore_picks (s : State) (c : Nat) (k : Core) : (s.setCore c k).picks = s.picks := rfl
@[simp] theorem State.setCore_late (s : State) (c : Nat) (k : Core) : (s.setCore c k).late = s.late := rfl
@[simp] theorem State.setCore_cur (s : State) (c : Nat) (k : Core) : (s.setCore c k).cur = s.cur := rfl
@[simp] theorem State.setCore_ir (s : State) (c : Nat) (k : Core) : (s.setCore c k).ir = s.ir := rfl
@[simp] theorem State.setCore_fresh (s : State) (c : Nat) (k : Core) : (s.setCore c k).fresh = s.fresh := rfl
@[simp] theorem State.setCore_draws (s : State) (c : Nat) (k : Core) : (s.setCore c k).draws = s.draws := rfl

/-! ## mapCore -/

@[simp] theorem State.mapCore_threads (s : State) (c : Nat) (f : Core → Core) : (s.mapCore c f).threads = s.threads := rfl
@[simp] theorem State.mapCore_cores (s : State) (c : Nat) (f : Core → Core) : (s.mapCore c f).cores = alSet s.cores c (f (s.core c)) := rfl
@[simp] theorem State.mapCore_mem (s : State) (c : Nat) (f : Core → Core) : (s.mapCore c f).mem = s.mem := rfl
@[simp] theorem State.mapCore_wsets (s : State) (c : Nat) (f : Core → Core) : (s.mapCore c f).wsets = s.wsets := rfl
@[simp] theorem State.mapCore_fsc (s : State) (c : Nat) (f : Core → Core) : (s.mapCore c f).fsc = s.fsc := rfl
@[simp] theorem State.mapCore_poison (s : State) (c : Nat) (f : Core → Core) : (s.mapCore c f).poison = s.poison := rfl
@[simp] theorem State.mapCore_dir (s : State) (c : Nat) (f : Core → Core) : (s.mapCore c f).dir = s.dir := rfl
@[simp] theorem State.mapCore_homeTx (s : State) (c : Nat) (f : Core → Core) : (s.mapCore c f).homeTx = s.homeTx := rfl
@[simp] theorem State.mapCore_errInv (s : State) (c : Nat) (f : Core → Core) : (s.mapCore c f).errInv = s.errInv := rfl
@[simp] theorem State.mapCore_sliceMsgs (s : State) (c : Nat) (f : Core → Core) : (s.mapCore c f).sliceMsgs = s.sliceMsgs := rfl
@[simp] theorem State.mapCore_detached (s : State) (c : Nat) (f : Core → Core) : (s.mapCore c f).detached = s.detached := rfl
@[simp] theorem State.mapCore_l1d (s : State) (c : Nat) (f : Core → Core) : (s.mapCore c f).l1d = s.l1d := rfl
@[simp] theorem State.mapCore_l1i (s : State) (c : Nat) (f : Core → Core) : (s.mapCore c f).l1i = s.l1i := rfl
@[simp] theorem State.mapCore_l2 (s : State) (c : Nat) (f : Core → Core) : (s.mapCore c f).l2 = s.l2 := rfl
@[simp] theorem State.mapCore_tlb (s : State) (c : Nat) (f : Core → Core) : (s.mapCore c f).tlb = s.tlb := rfl
@[simp] theorem State.mapCore_cmds (s : State) (c : Nat) (f : Core → Core) : (s.mapCore c f).cmds = s.cmds := rfl
@[simp] theorem State.mapCore_qfront (s : State) (c : Nat) (f : Core → Core) : (s.mapCore c f).qfront = s.qfront := rfl
@[simp] theorem State.mapCore_peers (s : State) (c : Nat) (f : Core → Core) : (s.mapCore c f).peers = s.peers := rfl
@[simp] theorem State.mapCore_rmas (s : State) (c : Nat) (f : Core → Core) : (s.mapCore c f).rmas = s.rmas := rfl
@[simp] theorem State.mapCore_slices (s : State) (c : Nat) (f : Core → Core) : (s.mapCore c f).slices = s.slices := rfl
@[simp] theorem State.mapCore_dev (s : State) (c : Nat) (f : Core → Core) : (s.mapCore c f).dev = s.dev := rfl
@[simp] theorem State.mapCore_gangs (s : State) (c : Nat) (f : Core → Core) : (s.mapCore c f).gangs = s.gangs := rfl
@[simp] theorem State.mapCore_slots (s : State) (c : Nat) (f : Core → Core) : (s.mapCore c f).slots = s.slots := rfl
@[simp] theorem State.mapCore_claims (s : State) (c : Nat) (f : Core → Core) : (s.mapCore c f).claims = s.claims := rfl
@[simp] theorem State.mapCore_accPoison (s : State) (c : Nat) (f : Core → Core) : (s.mapCore c f).accPoison = s.accPoison := rfl
@[simp] theorem State.mapCore_rowErr (s : State) (c : Nat) (f : Core → Core) : (s.mapCore c f).rowErr = s.rowErr := rfl
@[simp] theorem State.mapCore_parts (s : State) (c : Nat) (f : Core → Core) : (s.mapCore c f).parts = s.parts := rfl
@[simp] theorem State.mapCore_launches (s : State) (c : Nat) (f : Core → Core) : (s.mapCore c f).launches = s.launches := rfl
@[simp] theorem State.mapCore_groups (s : State) (c : Nat) (f : Core → Core) : (s.mapCore c f).groups = s.groups := rfl
@[simp] theorem State.mapCore_saved (s : State) (c : Nat) (f : Core → Core) : (s.mapCore c f).saved = s.saved := rfl
@[simp] theorem State.mapCore_sgangs (s : State) (c : Nat) (f : Core → Core) : (s.mapCore c f).sgangs = s.sgangs := rfl
@[simp] theorem State.mapCore_spawns (s : State) (c : Nat) (f : Core → Core) : (s.mapCore c f).spawns = s.spawns := rfl
@[simp] theorem State.mapCore_operands (s : State) (c : Nat) (f : Core → Core) : (s.mapCore c f).operands = s.operands := rfl
@[simp] theorem State.mapCore_deliveries (s : State) (c : Nat) (f : Core → Core) : (s.mapCore c f).deliveries = s.deliveries := rfl
@[simp] theorem State.mapCore_markers (s : State) (c : Nat) (f : Core → Core) : (s.mapCore c f).markers = s.markers := rfl
@[simp] theorem State.mapCore_appends (s : State) (c : Nat) (f : Core → Core) : (s.mapCore c f).appends = s.appends := rfl
@[simp] theorem State.mapCore_halted (s : State) (c : Nat) (f : Core → Core) : (s.mapCore c f).halted = s.halted := rfl
@[simp] theorem State.mapCore_ranks (s : State) (c : Nat) (f : Core → Core) : (s.mapCore c f).ranks = s.ranks := rfl
@[simp] theorem State.mapCore_dieErr (s : State) (c : Nat) (f : Core → Core) : (s.mapCore c f).dieErr = s.dieErr := rfl
@[simp] theorem State.mapCore_mdieErr (s : State) (c : Nat) (f : Core → Core) : (s.mapCore c f).mdieErr = s.mdieErr := rfl
@[simp] theorem State.mapCore_hbmErr (s : State) (c : Nat) (f : Core → Core) : (s.mapCore c f).hbmErr = s.hbmErr := rfl
@[simp] theorem State.mapCore_carve (s : State) (c : Nat) (f : Core → Core) : (s.mapCore c f).carve = s.carve := rfl
@[simp] theorem State.mapCore_time (s : State) (c : Nat) (f : Core → Core) : (s.mapCore c f).time = s.time := rfl
@[simp] theorem State.mapCore_flash (s : State) (c : Nat) (f : Core → Core) : (s.mapCore c f).flash = s.flash := rfl
@[simp] theorem State.mapCore_mon (s : State) (c : Nat) (f : Core → Core) : (s.mapCore c f).mon = s.mon := rfl
@[simp] theorem State.mapCore_out (s : State) (c : Nat) (f : Core → Core) : (s.mapCore c f).out = s.out := rfl
@[simp] theorem State.mapCore_banks (s : State) (c : Nat) (f : Core → Core) : (s.mapCore c f).banks = s.banks := rfl
@[simp] theorem State.mapCore_moves (s : State) (c : Nat) (f : Core → Core) : (s.mapCore c f).moves = s.moves := rfl
@[simp] theorem State.mapCore_issue (s : State) (c : Nat) (f : Core → Core) : (s.mapCore c f).issue = s.issue := rfl
@[simp] theorem State.mapCore_picks (s : State) (c : Nat) (f : Core → Core) : (s.mapCore c f).picks = s.picks := rfl
@[simp] theorem State.mapCore_late (s : State) (c : Nat) (f : Core → Core) : (s.mapCore c f).late = s.late := rfl
@[simp] theorem State.mapCore_cur (s : State) (c : Nat) (f : Core → Core) : (s.mapCore c f).cur = s.cur := rfl
@[simp] theorem State.mapCore_ir (s : State) (c : Nat) (f : Core → Core) : (s.mapCore c f).ir = s.ir := rfl
@[simp] theorem State.mapCore_fresh (s : State) (c : Nat) (f : Core → Core) : (s.mapCore c f).fresh = s.fresh := rfl
@[simp] theorem State.mapCore_draws (s : State) (c : Nat) (f : Core → Core) : (s.mapCore c f).draws = s.draws := rfl

/-! ## count -/

@[simp] theorem State.count_threads (s : State) (c code n : Nat) : (s.count c code n).threads = s.threads := rfl
@[simp] theorem State.count_mem (s : State) (c code n : Nat) : (s.count c code n).mem = s.mem := rfl
@[simp] theorem State.count_wsets (s : State) (c code n : Nat) : (s.count c code n).wsets = s.wsets := rfl
@[simp] theorem State.count_fsc (s : State) (c code n : Nat) : (s.count c code n).fsc = s.fsc := rfl
@[simp] theorem State.count_poison (s : State) (c code n : Nat) : (s.count c code n).poison = s.poison := rfl
@[simp] theorem State.count_dir (s : State) (c code n : Nat) : (s.count c code n).dir = s.dir := rfl
@[simp] theorem State.count_homeTx (s : State) (c code n : Nat) : (s.count c code n).homeTx = s.homeTx := rfl
@[simp] theorem State.count_errInv (s : State) (c code n : Nat) : (s.count c code n).errInv = s.errInv := rfl
@[simp] theorem State.count_sliceMsgs (s : State) (c code n : Nat) : (s.count c code n).sliceMsgs = s.sliceMsgs := rfl
@[simp] theorem State.count_detached (s : State) (c code n : Nat) : (s.count c code n).detached = s.detached := rfl
@[simp] theorem State.count_l1d (s : State) (c code n : Nat) : (s.count c code n).l1d = s.l1d := rfl
@[simp] theorem State.count_l1i (s : State) (c code n : Nat) : (s.count c code n).l1i = s.l1i := rfl
@[simp] theorem State.count_l2 (s : State) (c code n : Nat) : (s.count c code n).l2 = s.l2 := rfl
@[simp] theorem State.count_tlb (s : State) (c code n : Nat) : (s.count c code n).tlb = s.tlb := rfl
@[simp] theorem State.count_cmds (s : State) (c code n : Nat) : (s.count c code n).cmds = s.cmds := rfl
@[simp] theorem State.count_qfront (s : State) (c code n : Nat) : (s.count c code n).qfront = s.qfront := rfl
@[simp] theorem State.count_peers (s : State) (c code n : Nat) : (s.count c code n).peers = s.peers := rfl
@[simp] theorem State.count_rmas (s : State) (c code n : Nat) : (s.count c code n).rmas = s.rmas := rfl
@[simp] theorem State.count_slices (s : State) (c code n : Nat) : (s.count c code n).slices = s.slices := rfl
@[simp] theorem State.count_dev (s : State) (c code n : Nat) : (s.count c code n).dev = s.dev := rfl
@[simp] theorem State.count_gangs (s : State) (c code n : Nat) : (s.count c code n).gangs = s.gangs := rfl
@[simp] theorem State.count_slots (s : State) (c code n : Nat) : (s.count c code n).slots = s.slots := rfl
@[simp] theorem State.count_claims (s : State) (c code n : Nat) : (s.count c code n).claims = s.claims := rfl
@[simp] theorem State.count_accPoison (s : State) (c code n : Nat) : (s.count c code n).accPoison = s.accPoison := rfl
@[simp] theorem State.count_rowErr (s : State) (c code n : Nat) : (s.count c code n).rowErr = s.rowErr := rfl
@[simp] theorem State.count_parts (s : State) (c code n : Nat) : (s.count c code n).parts = s.parts := rfl
@[simp] theorem State.count_launches (s : State) (c code n : Nat) : (s.count c code n).launches = s.launches := rfl
@[simp] theorem State.count_groups (s : State) (c code n : Nat) : (s.count c code n).groups = s.groups := rfl
@[simp] theorem State.count_saved (s : State) (c code n : Nat) : (s.count c code n).saved = s.saved := rfl
@[simp] theorem State.count_sgangs (s : State) (c code n : Nat) : (s.count c code n).sgangs = s.sgangs := rfl
@[simp] theorem State.count_spawns (s : State) (c code n : Nat) : (s.count c code n).spawns = s.spawns := rfl
@[simp] theorem State.count_operands (s : State) (c code n : Nat) : (s.count c code n).operands = s.operands := rfl
@[simp] theorem State.count_deliveries (s : State) (c code n : Nat) : (s.count c code n).deliveries = s.deliveries := rfl
@[simp] theorem State.count_markers (s : State) (c code n : Nat) : (s.count c code n).markers = s.markers := rfl
@[simp] theorem State.count_appends (s : State) (c code n : Nat) : (s.count c code n).appends = s.appends := rfl
@[simp] theorem State.count_halted (s : State) (c code n : Nat) : (s.count c code n).halted = s.halted := rfl
@[simp] theorem State.count_ranks (s : State) (c code n : Nat) : (s.count c code n).ranks = s.ranks := rfl
@[simp] theorem State.count_dieErr (s : State) (c code n : Nat) : (s.count c code n).dieErr = s.dieErr := rfl
@[simp] theorem State.count_mdieErr (s : State) (c code n : Nat) : (s.count c code n).mdieErr = s.mdieErr := rfl
@[simp] theorem State.count_hbmErr (s : State) (c code n : Nat) : (s.count c code n).hbmErr = s.hbmErr := rfl
@[simp] theorem State.count_carve (s : State) (c code n : Nat) : (s.count c code n).carve = s.carve := rfl
@[simp] theorem State.count_time (s : State) (c code n : Nat) : (s.count c code n).time = s.time := rfl
@[simp] theorem State.count_flash (s : State) (c code n : Nat) : (s.count c code n).flash = s.flash := rfl
@[simp] theorem State.count_mon (s : State) (c code n : Nat) : (s.count c code n).mon = s.mon := rfl
@[simp] theorem State.count_out (s : State) (c code n : Nat) : (s.count c code n).out = s.out := rfl
@[simp] theorem State.count_banks (s : State) (c code n : Nat) : (s.count c code n).banks = s.banks := rfl
@[simp] theorem State.count_moves (s : State) (c code n : Nat) : (s.count c code n).moves = s.moves := rfl
@[simp] theorem State.count_issue (s : State) (c code n : Nat) : (s.count c code n).issue = s.issue := rfl
@[simp] theorem State.count_picks (s : State) (c code n : Nat) : (s.count c code n).picks = s.picks := rfl
@[simp] theorem State.count_late (s : State) (c code n : Nat) : (s.count c code n).late = s.late := rfl
@[simp] theorem State.count_cur (s : State) (c code n : Nat) : (s.count c code n).cur = s.cur := rfl
@[simp] theorem State.count_ir (s : State) (c code n : Nat) : (s.count c code n).ir = s.ir := rfl
@[simp] theorem State.count_fresh (s : State) (c code n : Nat) : (s.count c code n).fresh = s.fresh := rfl
@[simp] theorem State.count_draws (s : State) (c code n : Nat) : (s.count c code n).draws = s.draws := rfl

/-! ## setPartition -/

@[simp] theorem State.setPartition_threads (s : State) (p : Partition) : (s.setPartition p).threads = s.threads := rfl
@[simp] theorem State.setPartition_cores (s : State) (p : Partition) : (s.setPartition p).cores = s.cores := rfl
@[simp] theorem State.setPartition_mem (s : State) (p : Partition) : (s.setPartition p).mem = s.mem := rfl
@[simp] theorem State.setPartition_wsets (s : State) (p : Partition) : (s.setPartition p).wsets = s.wsets := rfl
@[simp] theorem State.setPartition_fsc (s : State) (p : Partition) : (s.setPartition p).fsc = s.fsc := rfl
@[simp] theorem State.setPartition_poison (s : State) (p : Partition) : (s.setPartition p).poison = s.poison := rfl
@[simp] theorem State.setPartition_dir (s : State) (p : Partition) : (s.setPartition p).dir = s.dir := rfl
@[simp] theorem State.setPartition_homeTx (s : State) (p : Partition) : (s.setPartition p).homeTx = s.homeTx := rfl
@[simp] theorem State.setPartition_errInv (s : State) (p : Partition) : (s.setPartition p).errInv = s.errInv := rfl
@[simp] theorem State.setPartition_sliceMsgs (s : State) (p : Partition) : (s.setPartition p).sliceMsgs = s.sliceMsgs := rfl
@[simp] theorem State.setPartition_detached (s : State) (p : Partition) : (s.setPartition p).detached = s.detached := rfl
@[simp] theorem State.setPartition_l1d (s : State) (p : Partition) : (s.setPartition p).l1d = s.l1d := rfl
@[simp] theorem State.setPartition_l1i (s : State) (p : Partition) : (s.setPartition p).l1i = s.l1i := rfl
@[simp] theorem State.setPartition_l2 (s : State) (p : Partition) : (s.setPartition p).l2 = s.l2 := rfl
@[simp] theorem State.setPartition_tlb (s : State) (p : Partition) : (s.setPartition p).tlb = s.tlb := rfl
@[simp] theorem State.setPartition_cmds (s : State) (p : Partition) : (s.setPartition p).cmds = s.cmds := rfl
@[simp] theorem State.setPartition_qfront (s : State) (p : Partition) : (s.setPartition p).qfront = s.qfront := rfl
@[simp] theorem State.setPartition_peers (s : State) (p : Partition) : (s.setPartition p).peers = s.peers := rfl
@[simp] theorem State.setPartition_rmas (s : State) (p : Partition) : (s.setPartition p).rmas = s.rmas := rfl
@[simp] theorem State.setPartition_slices (s : State) (p : Partition) : (s.setPartition p).slices = s.slices := rfl
@[simp] theorem State.setPartition_dev (s : State) (p : Partition) : (s.setPartition p).dev = s.dev := rfl
@[simp] theorem State.setPartition_gangs (s : State) (p : Partition) : (s.setPartition p).gangs = s.gangs := rfl
@[simp] theorem State.setPartition_slots (s : State) (p : Partition) : (s.setPartition p).slots = s.slots := rfl
@[simp] theorem State.setPartition_claims (s : State) (p : Partition) : (s.setPartition p).claims = s.claims := rfl
@[simp] theorem State.setPartition_accPoison (s : State) (p : Partition) : (s.setPartition p).accPoison = s.accPoison := rfl
@[simp] theorem State.setPartition_rowErr (s : State) (p : Partition) : (s.setPartition p).rowErr = s.rowErr := rfl
@[simp] theorem State.setPartition_launches (s : State) (p : Partition) : (s.setPartition p).launches = s.launches := rfl
@[simp] theorem State.setPartition_groups (s : State) (p : Partition) : (s.setPartition p).groups = s.groups := rfl
@[simp] theorem State.setPartition_saved (s : State) (p : Partition) : (s.setPartition p).saved = s.saved := rfl
@[simp] theorem State.setPartition_sgangs (s : State) (p : Partition) : (s.setPartition p).sgangs = s.sgangs := rfl
@[simp] theorem State.setPartition_spawns (s : State) (p : Partition) : (s.setPartition p).spawns = s.spawns := rfl
@[simp] theorem State.setPartition_operands (s : State) (p : Partition) : (s.setPartition p).operands = s.operands := rfl
@[simp] theorem State.setPartition_deliveries (s : State) (p : Partition) : (s.setPartition p).deliveries = s.deliveries := rfl
@[simp] theorem State.setPartition_markers (s : State) (p : Partition) : (s.setPartition p).markers = s.markers := rfl
@[simp] theorem State.setPartition_appends (s : State) (p : Partition) : (s.setPartition p).appends = s.appends := rfl
@[simp] theorem State.setPartition_halted (s : State) (p : Partition) : (s.setPartition p).halted = s.halted := rfl
@[simp] theorem State.setPartition_ranks (s : State) (p : Partition) : (s.setPartition p).ranks = s.ranks := rfl
@[simp] theorem State.setPartition_dieErr (s : State) (p : Partition) : (s.setPartition p).dieErr = s.dieErr := rfl
@[simp] theorem State.setPartition_mdieErr (s : State) (p : Partition) : (s.setPartition p).mdieErr = s.mdieErr := rfl
@[simp] theorem State.setPartition_hbmErr (s : State) (p : Partition) : (s.setPartition p).hbmErr = s.hbmErr := rfl
@[simp] theorem State.setPartition_carve (s : State) (p : Partition) : (s.setPartition p).carve = s.carve := rfl
@[simp] theorem State.setPartition_time (s : State) (p : Partition) : (s.setPartition p).time = s.time := rfl
@[simp] theorem State.setPartition_flash (s : State) (p : Partition) : (s.setPartition p).flash = s.flash := rfl
@[simp] theorem State.setPartition_mon (s : State) (p : Partition) : (s.setPartition p).mon = s.mon := rfl
@[simp] theorem State.setPartition_out (s : State) (p : Partition) : (s.setPartition p).out = s.out := rfl
@[simp] theorem State.setPartition_banks (s : State) (p : Partition) : (s.setPartition p).banks = s.banks := rfl
@[simp] theorem State.setPartition_moves (s : State) (p : Partition) : (s.setPartition p).moves = s.moves := rfl
@[simp] theorem State.setPartition_issue (s : State) (p : Partition) : (s.setPartition p).issue = s.issue := rfl
@[simp] theorem State.setPartition_picks (s : State) (p : Partition) : (s.setPartition p).picks = s.picks := rfl
@[simp] theorem State.setPartition_late (s : State) (p : Partition) : (s.setPartition p).late = s.late := rfl
@[simp] theorem State.setPartition_cur (s : State) (p : Partition) : (s.setPartition p).cur = s.cur := rfl
@[simp] theorem State.setPartition_ir (s : State) (p : Partition) : (s.setPartition p).ir = s.ir := rfl
@[simp] theorem State.setPartition_fresh (s : State) (p : Partition) : (s.setPartition p).fresh = s.fresh := rfl
@[simp] theorem State.setPartition_draws (s : State) (p : Partition) : (s.setPartition p).draws = s.draws := rfl

/-! ## setGroup -/

@[simp] theorem State.setGroup_threads (s : State) (g : Group) : (s.setGroup g).threads = s.threads := rfl
@[simp] theorem State.setGroup_cores (s : State) (g : Group) : (s.setGroup g).cores = s.cores := rfl
@[simp] theorem State.setGroup_mem (s : State) (g : Group) : (s.setGroup g).mem = s.mem := rfl
@[simp] theorem State.setGroup_wsets (s : State) (g : Group) : (s.setGroup g).wsets = s.wsets := rfl
@[simp] theorem State.setGroup_fsc (s : State) (g : Group) : (s.setGroup g).fsc = s.fsc := rfl
@[simp] theorem State.setGroup_poison (s : State) (g : Group) : (s.setGroup g).poison = s.poison := rfl
@[simp] theorem State.setGroup_dir (s : State) (g : Group) : (s.setGroup g).dir = s.dir := rfl
@[simp] theorem State.setGroup_homeTx (s : State) (g : Group) : (s.setGroup g).homeTx = s.homeTx := rfl
@[simp] theorem State.setGroup_errInv (s : State) (g : Group) : (s.setGroup g).errInv = s.errInv := rfl
@[simp] theorem State.setGroup_sliceMsgs (s : State) (g : Group) : (s.setGroup g).sliceMsgs = s.sliceMsgs := rfl
@[simp] theorem State.setGroup_detached (s : State) (g : Group) : (s.setGroup g).detached = s.detached := rfl
@[simp] theorem State.setGroup_l1d (s : State) (g : Group) : (s.setGroup g).l1d = s.l1d := rfl
@[simp] theorem State.setGroup_l1i (s : State) (g : Group) : (s.setGroup g).l1i = s.l1i := rfl
@[simp] theorem State.setGroup_l2 (s : State) (g : Group) : (s.setGroup g).l2 = s.l2 := rfl
@[simp] theorem State.setGroup_tlb (s : State) (g : Group) : (s.setGroup g).tlb = s.tlb := rfl
@[simp] theorem State.setGroup_cmds (s : State) (g : Group) : (s.setGroup g).cmds = s.cmds := rfl
@[simp] theorem State.setGroup_qfront (s : State) (g : Group) : (s.setGroup g).qfront = s.qfront := rfl
@[simp] theorem State.setGroup_peers (s : State) (g : Group) : (s.setGroup g).peers = s.peers := rfl
@[simp] theorem State.setGroup_rmas (s : State) (g : Group) : (s.setGroup g).rmas = s.rmas := rfl
@[simp] theorem State.setGroup_slices (s : State) (g : Group) : (s.setGroup g).slices = s.slices := rfl
@[simp] theorem State.setGroup_dev (s : State) (g : Group) : (s.setGroup g).dev = s.dev := rfl
@[simp] theorem State.setGroup_gangs (s : State) (g : Group) : (s.setGroup g).gangs = s.gangs := rfl
@[simp] theorem State.setGroup_slots (s : State) (g : Group) : (s.setGroup g).slots = s.slots := rfl
@[simp] theorem State.setGroup_claims (s : State) (g : Group) : (s.setGroup g).claims = s.claims := rfl
@[simp] theorem State.setGroup_accPoison (s : State) (g : Group) : (s.setGroup g).accPoison = s.accPoison := rfl
@[simp] theorem State.setGroup_rowErr (s : State) (g : Group) : (s.setGroup g).rowErr = s.rowErr := rfl
@[simp] theorem State.setGroup_parts (s : State) (g : Group) : (s.setGroup g).parts = s.parts := rfl
@[simp] theorem State.setGroup_launches (s : State) (g : Group) : (s.setGroup g).launches = s.launches := rfl
@[simp] theorem State.setGroup_saved (s : State) (g : Group) : (s.setGroup g).saved = s.saved := rfl
@[simp] theorem State.setGroup_sgangs (s : State) (g : Group) : (s.setGroup g).sgangs = s.sgangs := rfl
@[simp] theorem State.setGroup_spawns (s : State) (g : Group) : (s.setGroup g).spawns = s.spawns := rfl
@[simp] theorem State.setGroup_operands (s : State) (g : Group) : (s.setGroup g).operands = s.operands := rfl
@[simp] theorem State.setGroup_deliveries (s : State) (g : Group) : (s.setGroup g).deliveries = s.deliveries := rfl
@[simp] theorem State.setGroup_markers (s : State) (g : Group) : (s.setGroup g).markers = s.markers := rfl
@[simp] theorem State.setGroup_appends (s : State) (g : Group) : (s.setGroup g).appends = s.appends := rfl
@[simp] theorem State.setGroup_halted (s : State) (g : Group) : (s.setGroup g).halted = s.halted := rfl
@[simp] theorem State.setGroup_ranks (s : State) (g : Group) : (s.setGroup g).ranks = s.ranks := rfl
@[simp] theorem State.setGroup_dieErr (s : State) (g : Group) : (s.setGroup g).dieErr = s.dieErr := rfl
@[simp] theorem State.setGroup_mdieErr (s : State) (g : Group) : (s.setGroup g).mdieErr = s.mdieErr := rfl
@[simp] theorem State.setGroup_hbmErr (s : State) (g : Group) : (s.setGroup g).hbmErr = s.hbmErr := rfl
@[simp] theorem State.setGroup_carve (s : State) (g : Group) : (s.setGroup g).carve = s.carve := rfl
@[simp] theorem State.setGroup_time (s : State) (g : Group) : (s.setGroup g).time = s.time := rfl
@[simp] theorem State.setGroup_flash (s : State) (g : Group) : (s.setGroup g).flash = s.flash := rfl
@[simp] theorem State.setGroup_mon (s : State) (g : Group) : (s.setGroup g).mon = s.mon := rfl
@[simp] theorem State.setGroup_out (s : State) (g : Group) : (s.setGroup g).out = s.out := rfl
@[simp] theorem State.setGroup_banks (s : State) (g : Group) : (s.setGroup g).banks = s.banks := rfl
@[simp] theorem State.setGroup_moves (s : State) (g : Group) : (s.setGroup g).moves = s.moves := rfl
@[simp] theorem State.setGroup_issue (s : State) (g : Group) : (s.setGroup g).issue = s.issue := rfl
@[simp] theorem State.setGroup_picks (s : State) (g : Group) : (s.setGroup g).picks = s.picks := rfl
@[simp] theorem State.setGroup_late (s : State) (g : Group) : (s.setGroup g).late = s.late := rfl
@[simp] theorem State.setGroup_cur (s : State) (g : Group) : (s.setGroup g).cur = s.cur := rfl
@[simp] theorem State.setGroup_ir (s : State) (g : Group) : (s.setGroup g).ir = s.ir := rfl
@[simp] theorem State.setGroup_fresh (s : State) (g : Group) : (s.setGroup g).fresh = s.fresh := rfl
@[simp] theorem State.setGroup_draws (s : State) (g : Group) : (s.setGroup g).draws = s.draws := rfl

/-! ## setLaunch -/

@[simp] theorem State.setLaunch_threads (s : State) (l : Launch) : (s.setLaunch l).threads = s.threads := rfl
@[simp] theorem State.setLaunch_cores (s : State) (l : Launch) : (s.setLaunch l).cores = s.cores := rfl
@[simp] theorem State.setLaunch_mem (s : State) (l : Launch) : (s.setLaunch l).mem = s.mem := rfl
@[simp] theorem State.setLaunch_wsets (s : State) (l : Launch) : (s.setLaunch l).wsets = s.wsets := rfl
@[simp] theorem State.setLaunch_fsc (s : State) (l : Launch) : (s.setLaunch l).fsc = s.fsc := rfl
@[simp] theorem State.setLaunch_poison (s : State) (l : Launch) : (s.setLaunch l).poison = s.poison := rfl
@[simp] theorem State.setLaunch_dir (s : State) (l : Launch) : (s.setLaunch l).dir = s.dir := rfl
@[simp] theorem State.setLaunch_homeTx (s : State) (l : Launch) : (s.setLaunch l).homeTx = s.homeTx := rfl
@[simp] theorem State.setLaunch_errInv (s : State) (l : Launch) : (s.setLaunch l).errInv = s.errInv := rfl
@[simp] theorem State.setLaunch_sliceMsgs (s : State) (l : Launch) : (s.setLaunch l).sliceMsgs = s.sliceMsgs := rfl
@[simp] theorem State.setLaunch_detached (s : State) (l : Launch) : (s.setLaunch l).detached = s.detached := rfl
@[simp] theorem State.setLaunch_l1d (s : State) (l : Launch) : (s.setLaunch l).l1d = s.l1d := rfl
@[simp] theorem State.setLaunch_l1i (s : State) (l : Launch) : (s.setLaunch l).l1i = s.l1i := rfl
@[simp] theorem State.setLaunch_l2 (s : State) (l : Launch) : (s.setLaunch l).l2 = s.l2 := rfl
@[simp] theorem State.setLaunch_tlb (s : State) (l : Launch) : (s.setLaunch l).tlb = s.tlb := rfl
@[simp] theorem State.setLaunch_cmds (s : State) (l : Launch) : (s.setLaunch l).cmds = s.cmds := rfl
@[simp] theorem State.setLaunch_qfront (s : State) (l : Launch) : (s.setLaunch l).qfront = s.qfront := rfl
@[simp] theorem State.setLaunch_peers (s : State) (l : Launch) : (s.setLaunch l).peers = s.peers := rfl
@[simp] theorem State.setLaunch_rmas (s : State) (l : Launch) : (s.setLaunch l).rmas = s.rmas := rfl
@[simp] theorem State.setLaunch_slices (s : State) (l : Launch) : (s.setLaunch l).slices = s.slices := rfl
@[simp] theorem State.setLaunch_dev (s : State) (l : Launch) : (s.setLaunch l).dev = s.dev := rfl
@[simp] theorem State.setLaunch_gangs (s : State) (l : Launch) : (s.setLaunch l).gangs = s.gangs := rfl
@[simp] theorem State.setLaunch_slots (s : State) (l : Launch) : (s.setLaunch l).slots = s.slots := rfl
@[simp] theorem State.setLaunch_claims (s : State) (l : Launch) : (s.setLaunch l).claims = s.claims := rfl
@[simp] theorem State.setLaunch_accPoison (s : State) (l : Launch) : (s.setLaunch l).accPoison = s.accPoison := rfl
@[simp] theorem State.setLaunch_rowErr (s : State) (l : Launch) : (s.setLaunch l).rowErr = s.rowErr := rfl
@[simp] theorem State.setLaunch_parts (s : State) (l : Launch) : (s.setLaunch l).parts = s.parts := rfl
@[simp] theorem State.setLaunch_groups (s : State) (l : Launch) : (s.setLaunch l).groups = s.groups := rfl
@[simp] theorem State.setLaunch_saved (s : State) (l : Launch) : (s.setLaunch l).saved = s.saved := rfl
@[simp] theorem State.setLaunch_sgangs (s : State) (l : Launch) : (s.setLaunch l).sgangs = s.sgangs := rfl
@[simp] theorem State.setLaunch_spawns (s : State) (l : Launch) : (s.setLaunch l).spawns = s.spawns := rfl
@[simp] theorem State.setLaunch_operands (s : State) (l : Launch) : (s.setLaunch l).operands = s.operands := rfl
@[simp] theorem State.setLaunch_deliveries (s : State) (l : Launch) : (s.setLaunch l).deliveries = s.deliveries := rfl
@[simp] theorem State.setLaunch_markers (s : State) (l : Launch) : (s.setLaunch l).markers = s.markers := rfl
@[simp] theorem State.setLaunch_appends (s : State) (l : Launch) : (s.setLaunch l).appends = s.appends := rfl
@[simp] theorem State.setLaunch_halted (s : State) (l : Launch) : (s.setLaunch l).halted = s.halted := rfl
@[simp] theorem State.setLaunch_ranks (s : State) (l : Launch) : (s.setLaunch l).ranks = s.ranks := rfl
@[simp] theorem State.setLaunch_dieErr (s : State) (l : Launch) : (s.setLaunch l).dieErr = s.dieErr := rfl
@[simp] theorem State.setLaunch_mdieErr (s : State) (l : Launch) : (s.setLaunch l).mdieErr = s.mdieErr := rfl
@[simp] theorem State.setLaunch_hbmErr (s : State) (l : Launch) : (s.setLaunch l).hbmErr = s.hbmErr := rfl
@[simp] theorem State.setLaunch_carve (s : State) (l : Launch) : (s.setLaunch l).carve = s.carve := rfl
@[simp] theorem State.setLaunch_time (s : State) (l : Launch) : (s.setLaunch l).time = s.time := rfl
@[simp] theorem State.setLaunch_flash (s : State) (l : Launch) : (s.setLaunch l).flash = s.flash := rfl
@[simp] theorem State.setLaunch_mon (s : State) (l : Launch) : (s.setLaunch l).mon = s.mon := rfl
@[simp] theorem State.setLaunch_out (s : State) (l : Launch) : (s.setLaunch l).out = s.out := rfl
@[simp] theorem State.setLaunch_banks (s : State) (l : Launch) : (s.setLaunch l).banks = s.banks := rfl
@[simp] theorem State.setLaunch_moves (s : State) (l : Launch) : (s.setLaunch l).moves = s.moves := rfl
@[simp] theorem State.setLaunch_issue (s : State) (l : Launch) : (s.setLaunch l).issue = s.issue := rfl
@[simp] theorem State.setLaunch_picks (s : State) (l : Launch) : (s.setLaunch l).picks = s.picks := rfl
@[simp] theorem State.setLaunch_late (s : State) (l : Launch) : (s.setLaunch l).late = s.late := rfl
@[simp] theorem State.setLaunch_cur (s : State) (l : Launch) : (s.setLaunch l).cur = s.cur := rfl
@[simp] theorem State.setLaunch_ir (s : State) (l : Launch) : (s.setLaunch l).ir = s.ir := rfl
@[simp] theorem State.setLaunch_fresh (s : State) (l : Launch) : (s.setLaunch l).fresh = s.fresh := rfl
@[simp] theorem State.setLaunch_draws (s : State) (l : Launch) : (s.setLaunch l).draws = s.draws := rfl

/-! ## setDir -/

@[simp] theorem State.setDir_threads (s : State) (line : Nat) (e : DirEntry) : (s.setDir line e).threads = s.threads := rfl
@[simp] theorem State.setDir_cores (s : State) (line : Nat) (e : DirEntry) : (s.setDir line e).cores = s.cores := rfl
@[simp] theorem State.setDir_mem (s : State) (line : Nat) (e : DirEntry) : (s.setDir line e).mem = s.mem := rfl
@[simp] theorem State.setDir_wsets (s : State) (line : Nat) (e : DirEntry) : (s.setDir line e).wsets = s.wsets := rfl
@[simp] theorem State.setDir_fsc (s : State) (line : Nat) (e : DirEntry) : (s.setDir line e).fsc = s.fsc := rfl
@[simp] theorem State.setDir_poison (s : State) (line : Nat) (e : DirEntry) : (s.setDir line e).poison = s.poison := rfl
@[simp] theorem State.setDir_dir (s : State) (line : Nat) (e : DirEntry) : (s.setDir line e).dir = alSet s.dir line e := rfl
@[simp] theorem State.setDir_homeTx (s : State) (line : Nat) (e : DirEntry) : (s.setDir line e).homeTx = s.homeTx := rfl
@[simp] theorem State.setDir_errInv (s : State) (line : Nat) (e : DirEntry) : (s.setDir line e).errInv = s.errInv := rfl
@[simp] theorem State.setDir_sliceMsgs (s : State) (line : Nat) (e : DirEntry) : (s.setDir line e).sliceMsgs = s.sliceMsgs := rfl
@[simp] theorem State.setDir_detached (s : State) (line : Nat) (e : DirEntry) : (s.setDir line e).detached = s.detached := rfl
@[simp] theorem State.setDir_l1d (s : State) (line : Nat) (e : DirEntry) : (s.setDir line e).l1d = s.l1d := rfl
@[simp] theorem State.setDir_l1i (s : State) (line : Nat) (e : DirEntry) : (s.setDir line e).l1i = s.l1i := rfl
@[simp] theorem State.setDir_l2 (s : State) (line : Nat) (e : DirEntry) : (s.setDir line e).l2 = s.l2 := rfl
@[simp] theorem State.setDir_tlb (s : State) (line : Nat) (e : DirEntry) : (s.setDir line e).tlb = s.tlb := rfl
@[simp] theorem State.setDir_cmds (s : State) (line : Nat) (e : DirEntry) : (s.setDir line e).cmds = s.cmds := rfl
@[simp] theorem State.setDir_qfront (s : State) (line : Nat) (e : DirEntry) : (s.setDir line e).qfront = s.qfront := rfl
@[simp] theorem State.setDir_peers (s : State) (line : Nat) (e : DirEntry) : (s.setDir line e).peers = s.peers := rfl
@[simp] theorem State.setDir_rmas (s : State) (line : Nat) (e : DirEntry) : (s.setDir line e).rmas = s.rmas := rfl
@[simp] theorem State.setDir_slices (s : State) (line : Nat) (e : DirEntry) : (s.setDir line e).slices = s.slices := rfl
@[simp] theorem State.setDir_dev (s : State) (line : Nat) (e : DirEntry) : (s.setDir line e).dev = s.dev := rfl
@[simp] theorem State.setDir_gangs (s : State) (line : Nat) (e : DirEntry) : (s.setDir line e).gangs = s.gangs := rfl
@[simp] theorem State.setDir_slots (s : State) (line : Nat) (e : DirEntry) : (s.setDir line e).slots = s.slots := rfl
@[simp] theorem State.setDir_claims (s : State) (line : Nat) (e : DirEntry) : (s.setDir line e).claims = s.claims := rfl
@[simp] theorem State.setDir_accPoison (s : State) (line : Nat) (e : DirEntry) : (s.setDir line e).accPoison = s.accPoison := rfl
@[simp] theorem State.setDir_rowErr (s : State) (line : Nat) (e : DirEntry) : (s.setDir line e).rowErr = s.rowErr := rfl
@[simp] theorem State.setDir_parts (s : State) (line : Nat) (e : DirEntry) : (s.setDir line e).parts = s.parts := rfl
@[simp] theorem State.setDir_launches (s : State) (line : Nat) (e : DirEntry) : (s.setDir line e).launches = s.launches := rfl
@[simp] theorem State.setDir_groups (s : State) (line : Nat) (e : DirEntry) : (s.setDir line e).groups = s.groups := rfl
@[simp] theorem State.setDir_saved (s : State) (line : Nat) (e : DirEntry) : (s.setDir line e).saved = s.saved := rfl
@[simp] theorem State.setDir_sgangs (s : State) (line : Nat) (e : DirEntry) : (s.setDir line e).sgangs = s.sgangs := rfl
@[simp] theorem State.setDir_spawns (s : State) (line : Nat) (e : DirEntry) : (s.setDir line e).spawns = s.spawns := rfl
@[simp] theorem State.setDir_operands (s : State) (line : Nat) (e : DirEntry) : (s.setDir line e).operands = s.operands := rfl
@[simp] theorem State.setDir_deliveries (s : State) (line : Nat) (e : DirEntry) : (s.setDir line e).deliveries = s.deliveries := rfl
@[simp] theorem State.setDir_markers (s : State) (line : Nat) (e : DirEntry) : (s.setDir line e).markers = s.markers := rfl
@[simp] theorem State.setDir_appends (s : State) (line : Nat) (e : DirEntry) : (s.setDir line e).appends = s.appends := rfl
@[simp] theorem State.setDir_halted (s : State) (line : Nat) (e : DirEntry) : (s.setDir line e).halted = s.halted := rfl
@[simp] theorem State.setDir_ranks (s : State) (line : Nat) (e : DirEntry) : (s.setDir line e).ranks = s.ranks := rfl
@[simp] theorem State.setDir_dieErr (s : State) (line : Nat) (e : DirEntry) : (s.setDir line e).dieErr = s.dieErr := rfl
@[simp] theorem State.setDir_mdieErr (s : State) (line : Nat) (e : DirEntry) : (s.setDir line e).mdieErr = s.mdieErr := rfl
@[simp] theorem State.setDir_hbmErr (s : State) (line : Nat) (e : DirEntry) : (s.setDir line e).hbmErr = s.hbmErr := rfl
@[simp] theorem State.setDir_carve (s : State) (line : Nat) (e : DirEntry) : (s.setDir line e).carve = s.carve := rfl
@[simp] theorem State.setDir_time (s : State) (line : Nat) (e : DirEntry) : (s.setDir line e).time = s.time := rfl
@[simp] theorem State.setDir_flash (s : State) (line : Nat) (e : DirEntry) : (s.setDir line e).flash = s.flash := rfl
@[simp] theorem State.setDir_mon (s : State) (line : Nat) (e : DirEntry) : (s.setDir line e).mon = s.mon := rfl
@[simp] theorem State.setDir_out (s : State) (line : Nat) (e : DirEntry) : (s.setDir line e).out = s.out := rfl
@[simp] theorem State.setDir_banks (s : State) (line : Nat) (e : DirEntry) : (s.setDir line e).banks = s.banks := rfl
@[simp] theorem State.setDir_moves (s : State) (line : Nat) (e : DirEntry) : (s.setDir line e).moves = s.moves := rfl
@[simp] theorem State.setDir_issue (s : State) (line : Nat) (e : DirEntry) : (s.setDir line e).issue = s.issue := rfl
@[simp] theorem State.setDir_picks (s : State) (line : Nat) (e : DirEntry) : (s.setDir line e).picks = s.picks := rfl
@[simp] theorem State.setDir_late (s : State) (line : Nat) (e : DirEntry) : (s.setDir line e).late = s.late := rfl
@[simp] theorem State.setDir_cur (s : State) (line : Nat) (e : DirEntry) : (s.setDir line e).cur = s.cur := rfl
@[simp] theorem State.setDir_ir (s : State) (line : Nat) (e : DirEntry) : (s.setDir line e).ir = s.ir := rfl
@[simp] theorem State.setDir_fresh (s : State) (line : Nat) (e : DirEntry) : (s.setDir line e).fresh = s.fresh := rfl
@[simp] theorem State.setDir_draws (s : State) (line : Nat) (e : DirEntry) : (s.setDir line e).draws = s.draws := rfl

/-! ## setGang -/

@[simp] theorem State.setGang_threads (s : State) (g : Gang) : (s.setGang g).threads = s.threads := rfl
@[simp] theorem State.setGang_cores (s : State) (g : Gang) : (s.setGang g).cores = s.cores := rfl
@[simp] theorem State.setGang_mem (s : State) (g : Gang) : (s.setGang g).mem = s.mem := rfl
@[simp] theorem State.setGang_wsets (s : State) (g : Gang) : (s.setGang g).wsets = s.wsets := rfl
@[simp] theorem State.setGang_fsc (s : State) (g : Gang) : (s.setGang g).fsc = s.fsc := rfl
@[simp] theorem State.setGang_poison (s : State) (g : Gang) : (s.setGang g).poison = s.poison := rfl
@[simp] theorem State.setGang_dir (s : State) (g : Gang) : (s.setGang g).dir = s.dir := rfl
@[simp] theorem State.setGang_homeTx (s : State) (g : Gang) : (s.setGang g).homeTx = s.homeTx := rfl
@[simp] theorem State.setGang_errInv (s : State) (g : Gang) : (s.setGang g).errInv = s.errInv := rfl
@[simp] theorem State.setGang_sliceMsgs (s : State) (g : Gang) : (s.setGang g).sliceMsgs = s.sliceMsgs := rfl
@[simp] theorem State.setGang_detached (s : State) (g : Gang) : (s.setGang g).detached = s.detached := rfl
@[simp] theorem State.setGang_l1d (s : State) (g : Gang) : (s.setGang g).l1d = s.l1d := rfl
@[simp] theorem State.setGang_l1i (s : State) (g : Gang) : (s.setGang g).l1i = s.l1i := rfl
@[simp] theorem State.setGang_l2 (s : State) (g : Gang) : (s.setGang g).l2 = s.l2 := rfl
@[simp] theorem State.setGang_tlb (s : State) (g : Gang) : (s.setGang g).tlb = s.tlb := rfl
@[simp] theorem State.setGang_cmds (s : State) (g : Gang) : (s.setGang g).cmds = s.cmds := rfl
@[simp] theorem State.setGang_qfront (s : State) (g : Gang) : (s.setGang g).qfront = s.qfront := rfl
@[simp] theorem State.setGang_peers (s : State) (g : Gang) : (s.setGang g).peers = s.peers := rfl
@[simp] theorem State.setGang_rmas (s : State) (g : Gang) : (s.setGang g).rmas = s.rmas := rfl
@[simp] theorem State.setGang_slices (s : State) (g : Gang) : (s.setGang g).slices = s.slices := rfl
@[simp] theorem State.setGang_dev (s : State) (g : Gang) : (s.setGang g).dev = s.dev := rfl
@[simp] theorem State.setGang_slots (s : State) (g : Gang) : (s.setGang g).slots = s.slots := rfl
@[simp] theorem State.setGang_claims (s : State) (g : Gang) : (s.setGang g).claims = s.claims := rfl
@[simp] theorem State.setGang_accPoison (s : State) (g : Gang) : (s.setGang g).accPoison = s.accPoison := rfl
@[simp] theorem State.setGang_rowErr (s : State) (g : Gang) : (s.setGang g).rowErr = s.rowErr := rfl
@[simp] theorem State.setGang_parts (s : State) (g : Gang) : (s.setGang g).parts = s.parts := rfl
@[simp] theorem State.setGang_launches (s : State) (g : Gang) : (s.setGang g).launches = s.launches := rfl
@[simp] theorem State.setGang_groups (s : State) (g : Gang) : (s.setGang g).groups = s.groups := rfl
@[simp] theorem State.setGang_saved (s : State) (g : Gang) : (s.setGang g).saved = s.saved := rfl
@[simp] theorem State.setGang_sgangs (s : State) (g : Gang) : (s.setGang g).sgangs = s.sgangs := rfl
@[simp] theorem State.setGang_spawns (s : State) (g : Gang) : (s.setGang g).spawns = s.spawns := rfl
@[simp] theorem State.setGang_operands (s : State) (g : Gang) : (s.setGang g).operands = s.operands := rfl
@[simp] theorem State.setGang_deliveries (s : State) (g : Gang) : (s.setGang g).deliveries = s.deliveries := rfl
@[simp] theorem State.setGang_markers (s : State) (g : Gang) : (s.setGang g).markers = s.markers := rfl
@[simp] theorem State.setGang_appends (s : State) (g : Gang) : (s.setGang g).appends = s.appends := rfl
@[simp] theorem State.setGang_halted (s : State) (g : Gang) : (s.setGang g).halted = s.halted := rfl
@[simp] theorem State.setGang_ranks (s : State) (g : Gang) : (s.setGang g).ranks = s.ranks := rfl
@[simp] theorem State.setGang_dieErr (s : State) (g : Gang) : (s.setGang g).dieErr = s.dieErr := rfl
@[simp] theorem State.setGang_mdieErr (s : State) (g : Gang) : (s.setGang g).mdieErr = s.mdieErr := rfl
@[simp] theorem State.setGang_hbmErr (s : State) (g : Gang) : (s.setGang g).hbmErr = s.hbmErr := rfl
@[simp] theorem State.setGang_carve (s : State) (g : Gang) : (s.setGang g).carve = s.carve := rfl
@[simp] theorem State.setGang_time (s : State) (g : Gang) : (s.setGang g).time = s.time := rfl
@[simp] theorem State.setGang_flash (s : State) (g : Gang) : (s.setGang g).flash = s.flash := rfl
@[simp] theorem State.setGang_mon (s : State) (g : Gang) : (s.setGang g).mon = s.mon := rfl
@[simp] theorem State.setGang_out (s : State) (g : Gang) : (s.setGang g).out = s.out := rfl
@[simp] theorem State.setGang_banks (s : State) (g : Gang) : (s.setGang g).banks = s.banks := rfl
@[simp] theorem State.setGang_moves (s : State) (g : Gang) : (s.setGang g).moves = s.moves := rfl
@[simp] theorem State.setGang_issue (s : State) (g : Gang) : (s.setGang g).issue = s.issue := rfl
@[simp] theorem State.setGang_picks (s : State) (g : Gang) : (s.setGang g).picks = s.picks := rfl
@[simp] theorem State.setGang_late (s : State) (g : Gang) : (s.setGang g).late = s.late := rfl
@[simp] theorem State.setGang_cur (s : State) (g : Gang) : (s.setGang g).cur = s.cur := rfl
@[simp] theorem State.setGang_ir (s : State) (g : Gang) : (s.setGang g).ir = s.ir := rfl
@[simp] theorem State.setGang_fresh (s : State) (g : Gang) : (s.setGang g).fresh = s.fresh := rfl
@[simp] theorem State.setGang_draws (s : State) (g : Gang) : (s.setGang g).draws = s.draws := rfl

/-! ## What the containers answer -/

theorem State.thread_setThread (s : State) (l loc : Nat) (t : Thread) : (s.setThread loc t).thread l = if l = loc then some t else s.thread l :=
  alGet_alSet ..
@[simp] theorem State.thread_setThread_self (s : State) (loc : Nat) (t : Thread) : (s.setThread loc t).thread loc = some t :=
  alGet_alSet_self ..
theorem State.thread_put (s : State) (l : Nat) (t : Thread) : (s.put t).thread l = if l = s.cur then some t else s.thread l := alGet_alSet ..
@[simp] theorem State.thread_put_self (s : State) (t : Thread) : (s.put t).thread s.cur = some t := alGet_alSet_self ..
theorem State.thread_dropThread (s : State) (l loc : Nat) : (s.dropThread loc).thread l = if l = loc then none else s.thread l := alGet_alDel ..
theorem State.core_setCore (s : State) (c d : Nat) (k : Core) : (s.setCore c k).core d = if d = c then k else s.core d := by
  simp only [State.core, State.setCore, alGet_alSet]; split <;> rfl
@[simp] theorem State.core_setCore_self (s : State) (c : Nat) (k : Core) : (s.setCore c k).core c = k := by simp [State.core_setCore]
theorem State.dirEntry_setDir (s : State) (l m : Nat) (e : DirEntry) : (s.setDir l e).dirEntry m = if m = l then e else s.dirEntry m := by
  simp only [State.dirEntry, State.setDir, alGet_alSet]; split <;> rfl
@[simp] theorem State.thread_setCore (s : State) (c loc : Nat) (k : Core) : (s.setCore c k).thread loc = s.thread loc := rfl
@[simp] theorem State.thread_count (s : State) (c code n loc : Nat) : (s.count c code n).thread loc = s.thread loc := rfl
@[simp] theorem State.core_setThread (s : State) (c loc : Nat) (t : Thread) : (s.setThread loc t).core c = s.core c := rfl
@[simp] theorem State.core_put (s : State) (c : Nat) (t : Thread) : (s.put t).core c = s.core c := rfl
@[simp] theorem State.dirEntry_setThread (s : State) (l loc : Nat) (t : Thread) : (s.setThread loc t).dirEntry l = s.dirEntry l := rfl
@[simp] theorem State.dirEntry_put (s : State) (l : Nat) (t : Thread) : (s.put t).dirEntry l = s.dirEntry l := rfl
@[simp] theorem State.partition_setThread (s : State) (p loc : Nat) (t : Thread) : (s.setThread loc t).partition p = s.partition p := rfl
@[simp] theorem State.partition_put (s : State) (p : Nat) (t : Thread) : (s.put t).partition p = s.partition p := rfl
@[simp] theorem State.poisoned_setThread (s : State) (x loc : Nat) (t : Thread) : (s.setThread loc t).poisoned x = s.poisoned x := rfl
@[simp] theorem State.poisoned_put (s : State) (x : Nat) (t : Thread) : (s.put t).poisoned x = s.poisoned x := rfl

/-- Changing a thread in place leaves every other thread and everything else as it was. -/
theorem State.mapThread_cases (s : State) (loc : Nat) (f : Thread → Thread) :
    (∃ t, s.thread loc = some t ∧ s.mapThread loc f = s.setThread loc (f t)) ∨ (s.thread loc = none ∧ s.mapThread loc f = s) := by
  unfold State.mapThread
  split
  · next t h => exact .inl ⟨t, h, rfl⟩
  · next h => exact .inr ⟨h, rfl⟩

/-! ## A thread under its updates -/


@[simp] theorem Thread.setG_pc (t : Thread) (r : Reg) (v : Word) : (t.setG r v).pc = t.pc := by unfold Thread.setG; split <;> rfl
@[simp] theorem Thread.setG_p (t : Thread) (r : Reg) (v : Word) : (t.setG r v).p = t.p := by unfold Thread.setG; split <;> rfl
@[simp] theorem Thread.setG_b (t : Thread) (r : Reg) (v : Word) : (t.setG r v).b = t.b := by unfold Thread.setG; split <;> rfl
@[simp] theorem Thread.setG_d (t : Thread) (r : Reg) (v : Word) : (t.setG r v).d = t.d := by unfold Thread.setG; split <;> rfl
@[simp] theorem Thread.setG_e (t : Thread) (r : Reg) (v : Word) : (t.setG r v).e = t.e := by unfold Thread.setG; split <;> rfl
@[simp] theorem Thread.setG_status (t : Thread) (r : Reg) (v : Word) : (t.setG r v).status = t.status := by unfold Thread.setG; split <;> rfl
@[simp] theorem Thread.setG_gid (t : Thread) (r : Reg) (v : Word) : (t.setG r v).gid = t.gid := by unfold Thread.setG; split <;> rfl
@[simp] theorem Thread.setG_launch (t : Thread) (r : Reg) (v : Word) : (t.setG r v).launch = t.launch := by unfold Thread.setG; split <;> rfl
@[simp] theorem Thread.setG_part (t : Thread) (r : Reg) (v : Word) : (t.setG r v).part = t.part := by unfold Thread.setG; split <;> rfl
@[simp] theorem Thread.setG_asid (t : Thread) (r : Reg) (v : Word) : (t.setG r v).asid = t.asid := by unfold Thread.setG; split <;> rfl
@[simp] theorem Thread.setG_fcsr (t : Thread) (r : Reg) (v : Word) : (t.setG r v).fcsr = t.fcsr := by unfold Thread.setG; split <;> rfl
@[simp] theorem Thread.setG_alcove (t : Thread) (r : Reg) (v : Word) : (t.setG r v).alcove = t.alcove := by unfold Thread.setG; split <;> rfl
@[simp] theorem Thread.setG_pix (t : Thread) (r : Reg) (v : Word) : (t.setG r v).pix = t.pix := by unfold Thread.setG; split <;> rfl
@[simp] theorem Thread.setG_tfp (t : Thread) (r : Reg) (v : Word) : (t.setG r v).tfp = t.tfp := by unfold Thread.setG; split <;> rfl
@[simp] theorem Thread.setG_cause (t : Thread) (r : Reg) (v : Word) : (t.setG r v).cause = t.cause := by unfold Thread.setG; split <;> rfl
@[simp] theorem Thread.setG_info (t : Thread) (r : Reg) (v : Word) : (t.setG r v).info = t.info := by unfold Thread.setG; split <;> rfl
@[simp] theorem Thread.setG_faddr (t : Thread) (r : Reg) (v : Word) : (t.setG r v).faddr = t.faddr := by unfold Thread.setG; split <;> rfl
@[simp] theorem Thread.setG_save0 (t : Thread) (r : Reg) (v : Word) : (t.setG r v).save0 = t.save0 := by unfold Thread.setG; split <;> rfl
@[simp] theorem Thread.setG_save1 (t : Thread) (r : Reg) (v : Word) : (t.setG r v).save1 = t.save1 := by unfold Thread.setG; split <;> rfl
@[simp] theorem Thread.setG_watch0 (t : Thread) (r : Reg) (v : Word) : (t.setG r v).watch0 = t.watch0 := by unfold Thread.setG; split <;> rfl
@[simp] theorem Thread.setG_watch1 (t : Thread) (r : Reg) (v : Word) : (t.setG r v).watch1 = t.watch1 := by unfold Thread.setG; split <;> rfl
@[simp] theorem Thread.setG_cyc (t : Thread) (r : Reg) (v : Word) : (t.setG r v).cyc = t.cyc := by unfold Thread.setG; split <;> rfl
@[simp] theorem Thread.setG_started (t : Thread) (r : Reg) (v : Word) : (t.setG r v).started = t.started := by unfold Thread.setG; split <;> rfl
@[simp] theorem Thread.setG_replay (t : Thread) (r : Reg) (v : Word) : (t.setG r v).replay = t.replay := by unfold Thread.setG; split <;> rfl
@[simp] theorem Thread.setG_sb (t : Thread) (r : Reg) (v : Word) : (t.setG r v).sb = t.sb := by unfold Thread.setG; split <;> rfl
@[simp] theorem Thread.setG_nt (t : Thread) (r : Reg) (v : Word) : (t.setG r v).nt = t.nt := by unfold Thread.setG; split <;> rfl
@[simp] theorem Thread.setG_front (t : Thread) (r : Reg) (v : Word) : (t.setG r v).front = t.front := by unfold Thread.setG; split <;> rfl
@[simp] theorem Thread.setG_obs (t : Thread) (r : Reg) (v : Word) : (t.setG r v).obs = t.obs := by unfold Thread.setG; split <;> rfl
@[simp] theorem Thread.setG_fence (t : Thread) (r : Reg) (v : Word) : (t.setG r v).fence = t.fence := by unfold Thread.setG; split <;> rfl
@[simp] theorem Thread.setG_joined (t : Thread) (r : Reg) (v : Word) : (t.setG r v).joined = t.joined := by unfold Thread.setG; split <;> rfl
@[simp] theorem Thread.setG_alcBank (t : Thread) (r : Reg) (v : Word) : (t.setG r v).alcBank = t.alcBank := by unfold Thread.setG; split <;> rfl
@[simp] theorem Thread.setG_grp (t : Thread) (r : Reg) (v : Word) : (t.setG r v).grp = t.grp := by unfold Thread.setG; split <;> rfl
@[simp] theorem Thread.setG_linger (t : Thread) (r : Reg) (v : Word) : (t.setG r v).linger = t.linger := by unfold Thread.setG; split <;> rfl
@[simp] theorem Thread.setG_issueAt (t : Thread) (r : Reg) (v : Word) : (t.setG r v).issueAt = t.issueAt := by unfold Thread.setG; split <;> rfl
@[simp] theorem Thread.setG_rep (t : Thread) (r : Reg) (v : Word) : (t.setG r v).rep = t.rep := by unfold Thread.setG; split <;> rfl
@[simp] theorem Thread.setG_check (t : Thread) (r : Reg) (v : Word) : (t.setG r v).check = t.check := by unfold Thread.setG; split <;> rfl
@[simp] theorem Thread.setG_guard (t : Thread) (r : Reg) (v : Word) : (t.setG r v).guard = t.guard := by unfold Thread.setG; split <;> rfl
@[simp] theorem Thread.setG_stamp (t : Thread) (r : Reg) (v : Word) : (t.setG r v).stamp = t.stamp := by unfold Thread.setG; split <;> rfl
@[simp] theorem Thread.setG_trapReq (t : Thread) (r : Reg) (v : Word) : (t.setG r v).trapReq = t.trapReq := by unfold Thread.setG; split <;> rfl
@[simp] theorem Thread.setG_stop (t : Thread) (r : Reg) (v : Word) : (t.setG r v).stop = t.stop := by unfold Thread.setG; split <;> rfl
@[simp] theorem Thread.setG_held (t : Thread) (r : Reg) (v : Word) : (t.setG r v).held = t.held := by unfold Thread.setG; split <;> rfl
@[simp] theorem Thread.setG_recordOwed (t : Thread) (r : Reg) (v : Word) : (t.setG r v).recordOwed = t.recordOwed := by unfold Thread.setG; split <;> rfl
@[simp] theorem Thread.setG_gang (t : Thread) (r : Reg) (v : Word) : (t.setG r v).gang = t.gang := by unfold Thread.setG; split <;> rfl
@[simp] theorem Thread.setG_muster (t : Thread) (r : Reg) (v : Word) : (t.setG r v).muster = t.muster := by unfold Thread.setG; split <;> rfl
@[simp] theorem Thread.setG_gangCmd (t : Thread) (r : Reg) (v : Word) : (t.setG r v).gangCmd = t.gangCmd := by unfold Thread.setG; split <;> rfl
@[simp] theorem Thread.setG_atBar (t : Thread) (r : Reg) (v : Word) : (t.setG r v).atBar = t.atBar := by unfold Thread.setG; split <;> rfl
@[simp] theorem Thread.setG_released (t : Thread) (r : Reg) (v : Word) : (t.setG r v).released = t.released := by unfold Thread.setG; split <;> rfl
@[simp] theorem Thread.setG_quitting (t : Thread) (r : Reg) (v : Word) : (t.setG r v).quitting = t.quitting := by unfold Thread.setG; split <;> rfl
@[simp] theorem Thread.setG_yielding (t : Thread) (r : Reg) (v : Word) : (t.setG r v).yielding = t.yielding := by unfold Thread.setG; split <;> rfl
@[simp] theorem Thread.setG_forced (t : Thread) (r : Reg) (v : Word) : (t.setG r v).forced = t.forced := by unfold Thread.setG; split <;> rfl
@[simp] theorem Thread.setG_passedA (t : Thread) (r : Reg) (v : Word) : (t.setG r v).passedA = t.passedA := by unfold Thread.setG; split <;> rfl
@[simp] theorem Thread.setG_passedM (t : Thread) (r : Reg) (v : Word) : (t.setG r v).passedM = t.passedM := by unfold Thread.setG; split <;> rfl

@[simp] theorem Thread.setOwed_pc (t : Thread) (r : Reg) : (t.setOwed r).pc = t.pc := by unfold Thread.setOwed; split <;> rfl
@[simp] theorem Thread.setOwed_g (t : Thread) (r : Reg) : (t.setOwed r).g = t.g := by unfold Thread.setOwed; split <;> rfl
@[simp] theorem Thread.setOwed_p (t : Thread) (r : Reg) : (t.setOwed r).p = t.p := by unfold Thread.setOwed; split <;> rfl
@[simp] theorem Thread.setOwed_b (t : Thread) (r : Reg) : (t.setOwed r).b = t.b := by unfold Thread.setOwed; split <;> rfl
@[simp] theorem Thread.setOwed_d (t : Thread) (r : Reg) : (t.setOwed r).d = t.d := by unfold Thread.setOwed; split <;> rfl
@[simp] theorem Thread.setOwed_e (t : Thread) (r : Reg) : (t.setOwed r).e = t.e := by unfold Thread.setOwed; split <;> rfl
@[simp] theorem Thread.setOwed_status (t : Thread) (r : Reg) : (t.setOwed r).status = t.status := by unfold Thread.setOwed; split <;> rfl
@[simp] theorem Thread.setOwed_gid (t : Thread) (r : Reg) : (t.setOwed r).gid = t.gid := by unfold Thread.setOwed; split <;> rfl
@[simp] theorem Thread.setOwed_launch (t : Thread) (r : Reg) : (t.setOwed r).launch = t.launch := by unfold Thread.setOwed; split <;> rfl
@[simp] theorem Thread.setOwed_part (t : Thread) (r : Reg) : (t.setOwed r).part = t.part := by unfold Thread.setOwed; split <;> rfl
@[simp] theorem Thread.setOwed_asid (t : Thread) (r : Reg) : (t.setOwed r).asid = t.asid := by unfold Thread.setOwed; split <;> rfl
@[simp] theorem Thread.setOwed_fcsr (t : Thread) (r : Reg) : (t.setOwed r).fcsr = t.fcsr := by unfold Thread.setOwed; split <;> rfl
@[simp] theorem Thread.setOwed_alcove (t : Thread) (r : Reg) : (t.setOwed r).alcove = t.alcove := by unfold Thread.setOwed; split <;> rfl
@[simp] theorem Thread.setOwed_pix (t : Thread) (r : Reg) : (t.setOwed r).pix = t.pix := by unfold Thread.setOwed; split <;> rfl
@[simp] theorem Thread.setOwed_tfp (t : Thread) (r : Reg) : (t.setOwed r).tfp = t.tfp := by unfold Thread.setOwed; split <;> rfl
@[simp] theorem Thread.setOwed_cause (t : Thread) (r : Reg) : (t.setOwed r).cause = t.cause := by unfold Thread.setOwed; split <;> rfl
@[simp] theorem Thread.setOwed_info (t : Thread) (r : Reg) : (t.setOwed r).info = t.info := by unfold Thread.setOwed; split <;> rfl
@[simp] theorem Thread.setOwed_faddr (t : Thread) (r : Reg) : (t.setOwed r).faddr = t.faddr := by unfold Thread.setOwed; split <;> rfl
@[simp] theorem Thread.setOwed_save0 (t : Thread) (r : Reg) : (t.setOwed r).save0 = t.save0 := by unfold Thread.setOwed; split <;> rfl
@[simp] theorem Thread.setOwed_save1 (t : Thread) (r : Reg) : (t.setOwed r).save1 = t.save1 := by unfold Thread.setOwed; split <;> rfl
@[simp] theorem Thread.setOwed_watch0 (t : Thread) (r : Reg) : (t.setOwed r).watch0 = t.watch0 := by unfold Thread.setOwed; split <;> rfl
@[simp] theorem Thread.setOwed_watch1 (t : Thread) (r : Reg) : (t.setOwed r).watch1 = t.watch1 := by unfold Thread.setOwed; split <;> rfl
@[simp] theorem Thread.setOwed_cyc (t : Thread) (r : Reg) : (t.setOwed r).cyc = t.cyc := by unfold Thread.setOwed; split <;> rfl
@[simp] theorem Thread.setOwed_started (t : Thread) (r : Reg) : (t.setOwed r).started = t.started := by unfold Thread.setOwed; split <;> rfl
@[simp] theorem Thread.setOwed_replay (t : Thread) (r : Reg) : (t.setOwed r).replay = t.replay := by unfold Thread.setOwed; split <;> rfl
@[simp] theorem Thread.setOwed_oplog (t : Thread) (r : Reg) : (t.setOwed r).oplog = t.oplog := by unfold Thread.setOwed; split <;> rfl
@[simp] theorem Thread.setOwed_sb (t : Thread) (r : Reg) : (t.setOwed r).sb = t.sb := by unfold Thread.setOwed; split <;> rfl
@[simp] theorem Thread.setOwed_nt (t : Thread) (r : Reg) : (t.setOwed r).nt = t.nt := by unfold Thread.setOwed; split <;> rfl
@[simp] theorem Thread.setOwed_front (t : Thread) (r : Reg) : (t.setOwed r).front = t.front := by unfold Thread.setOwed; split <;> rfl
@[simp] theorem Thread.setOwed_obs (t : Thread) (r : Reg) : (t.setOwed r).obs = t.obs := by unfold Thread.setOwed; split <;> rfl
@[simp] theorem Thread.setOwed_fence (t : Thread) (r : Reg) : (t.setOwed r).fence = t.fence := by unfold Thread.setOwed; split <;> rfl
@[simp] theorem Thread.setOwed_joined (t : Thread) (r : Reg) : (t.setOwed r).joined = t.joined := by unfold Thread.setOwed; split <;> rfl
@[simp] theorem Thread.setOwed_alcBank (t : Thread) (r : Reg) : (t.setOwed r).alcBank = t.alcBank := by unfold Thread.setOwed; split <;> rfl
@[simp] theorem Thread.setOwed_grp (t : Thread) (r : Reg) : (t.setOwed r).grp = t.grp := by unfold Thread.setOwed; split <;> rfl
@[simp] theorem Thread.setOwed_linger (t : Thread) (r : Reg) : (t.setOwed r).linger = t.linger := by unfold Thread.setOwed; split <;> rfl
@[simp] theorem Thread.setOwed_issueAt (t : Thread) (r : Reg) : (t.setOwed r).issueAt = t.issueAt := by unfold Thread.setOwed; split <;> rfl
@[simp] theorem Thread.setOwed_rep (t : Thread) (r : Reg) : (t.setOwed r).rep = t.rep := by unfold Thread.setOwed; split <;> rfl
@[simp] theorem Thread.setOwed_check (t : Thread) (r : Reg) : (t.setOwed r).check = t.check := by unfold Thread.setOwed; split <;> rfl
@[simp] theorem Thread.setOwed_guard (t : Thread) (r : Reg) : (t.setOwed r).guard = t.guard := by unfold Thread.setOwed; split <;> rfl
@[simp] theorem Thread.setOwed_stamp (t : Thread) (r : Reg) : (t.setOwed r).stamp = t.stamp := by unfold Thread.setOwed; split <;> rfl
@[simp] theorem Thread.setOwed_trapReq (t : Thread) (r : Reg) : (t.setOwed r).trapReq = t.trapReq := by unfold Thread.setOwed; split <;> rfl
@[simp] theorem Thread.setOwed_stop (t : Thread) (r : Reg) : (t.setOwed r).stop = t.stop := by unfold Thread.setOwed; split <;> rfl
@[simp] theorem Thread.setOwed_held (t : Thread) (r : Reg) : (t.setOwed r).held = t.held := by unfold Thread.setOwed; split <;> rfl
@[simp] theorem Thread.setOwed_recordOwed (t : Thread) (r : Reg) : (t.setOwed r).recordOwed = t.recordOwed := by unfold Thread.setOwed; split <;> rfl
@[simp] theorem Thread.setOwed_gang (t : Thread) (r : Reg) : (t.setOwed r).gang = t.gang := by unfold Thread.setOwed; split <;> rfl
@[simp] theorem Thread.setOwed_muster (t : Thread) (r : Reg) : (t.setOwed r).muster = t.muster := by unfold Thread.setOwed; split <;> rfl
@[simp] theorem Thread.setOwed_gangCmd (t : Thread) (r : Reg) : (t.setOwed r).gangCmd = t.gangCmd := by unfold Thread.setOwed; split <;> rfl
@[simp] theorem Thread.setOwed_atBar (t : Thread) (r : Reg) : (t.setOwed r).atBar = t.atBar := by unfold Thread.setOwed; split <;> rfl
@[simp] theorem Thread.setOwed_released (t : Thread) (r : Reg) : (t.setOwed r).released = t.released := by unfold Thread.setOwed; split <;> rfl
@[simp] theorem Thread.setOwed_quitting (t : Thread) (r : Reg) : (t.setOwed r).quitting = t.quitting := by unfold Thread.setOwed; split <;> rfl
@[simp] theorem Thread.setOwed_yielding (t : Thread) (r : Reg) : (t.setOwed r).yielding = t.yielding := by unfold Thread.setOwed; split <;> rfl
@[simp] theorem Thread.setOwed_forced (t : Thread) (r : Reg) : (t.setOwed r).forced = t.forced := by unfold Thread.setOwed; split <;> rfl
@[simp] theorem Thread.setOwed_passedA (t : Thread) (r : Reg) : (t.setOwed r).passedA = t.passedA := by unfold Thread.setOwed; split <;> rfl
@[simp] theorem Thread.setOwed_passedM (t : Thread) (r : Reg) : (t.setOwed r).passedM = t.passedM := by unfold Thread.setOwed; split <;> rfl

@[simp] theorem Thread.setP_pc (t : Thread) (k : BitVec 3) (v : Bool) : (t.setP k v).pc = t.pc := by unfold Thread.setP; split <;> rfl
@[simp] theorem Thread.setP_g (t : Thread) (k : BitVec 3) (v : Bool) : (t.setP k v).g = t.g := by unfold Thread.setP; split <;> rfl
@[simp] theorem Thread.setP_gs (t : Thread) (k : BitVec 3) (v : Bool) : (t.setP k v).gs = t.gs := by unfold Thread.setP; split <;> rfl
@[simp] theorem Thread.setP_b (t : Thread) (k : BitVec 3) (v : Bool) : (t.setP k v).b = t.b := by unfold Thread.setP; split <;> rfl
@[simp] theorem Thread.setP_d (t : Thread) (k : BitVec 3) (v : Bool) : (t.setP k v).d = t.d := by unfold Thread.setP; split <;> rfl
@[simp] theorem Thread.setP_e (t : Thread) (k : BitVec 3) (v : Bool) : (t.setP k v).e = t.e := by unfold Thread.setP; split <;> rfl
@[simp] theorem Thread.setP_status (t : Thread) (k : BitVec 3) (v : Bool) : (t.setP k v).status = t.status := by unfold Thread.setP; split <;> rfl
@[simp] theorem Thread.setP_gid (t : Thread) (k : BitVec 3) (v : Bool) : (t.setP k v).gid = t.gid := by unfold Thread.setP; split <;> rfl
@[simp] theorem Thread.setP_launch (t : Thread) (k : BitVec 3) (v : Bool) : (t.setP k v).launch = t.launch := by unfold Thread.setP; split <;> rfl
@[simp] theorem Thread.setP_part (t : Thread) (k : BitVec 3) (v : Bool) : (t.setP k v).part = t.part := by unfold Thread.setP; split <;> rfl
@[simp] theorem Thread.setP_asid (t : Thread) (k : BitVec 3) (v : Bool) : (t.setP k v).asid = t.asid := by unfold Thread.setP; split <;> rfl
@[simp] theorem Thread.setP_fcsr (t : Thread) (k : BitVec 3) (v : Bool) : (t.setP k v).fcsr = t.fcsr := by unfold Thread.setP; split <;> rfl
@[simp] theorem Thread.setP_alcove (t : Thread) (k : BitVec 3) (v : Bool) : (t.setP k v).alcove = t.alcove := by unfold Thread.setP; split <;> rfl
@[simp] theorem Thread.setP_pix (t : Thread) (k : BitVec 3) (v : Bool) : (t.setP k v).pix = t.pix := by unfold Thread.setP; split <;> rfl
@[simp] theorem Thread.setP_tfp (t : Thread) (k : BitVec 3) (v : Bool) : (t.setP k v).tfp = t.tfp := by unfold Thread.setP; split <;> rfl
@[simp] theorem Thread.setP_cause (t : Thread) (k : BitVec 3) (v : Bool) : (t.setP k v).cause = t.cause := by unfold Thread.setP; split <;> rfl
@[simp] theorem Thread.setP_info (t : Thread) (k : BitVec 3) (v : Bool) : (t.setP k v).info = t.info := by unfold Thread.setP; split <;> rfl
@[simp] theorem Thread.setP_faddr (t : Thread) (k : BitVec 3) (v : Bool) : (t.setP k v).faddr = t.faddr := by unfold Thread.setP; split <;> rfl
@[simp] theorem Thread.setP_save0 (t : Thread) (k : BitVec 3) (v : Bool) : (t.setP k v).save0 = t.save0 := by unfold Thread.setP; split <;> rfl
@[simp] theorem Thread.setP_save1 (t : Thread) (k : BitVec 3) (v : Bool) : (t.setP k v).save1 = t.save1 := by unfold Thread.setP; split <;> rfl
@[simp] theorem Thread.setP_watch0 (t : Thread) (k : BitVec 3) (v : Bool) : (t.setP k v).watch0 = t.watch0 := by unfold Thread.setP; split <;> rfl
@[simp] theorem Thread.setP_watch1 (t : Thread) (k : BitVec 3) (v : Bool) : (t.setP k v).watch1 = t.watch1 := by unfold Thread.setP; split <;> rfl
@[simp] theorem Thread.setP_cyc (t : Thread) (k : BitVec 3) (v : Bool) : (t.setP k v).cyc = t.cyc := by unfold Thread.setP; split <;> rfl
@[simp] theorem Thread.setP_started (t : Thread) (k : BitVec 3) (v : Bool) : (t.setP k v).started = t.started := by unfold Thread.setP; split <;> rfl
@[simp] theorem Thread.setP_replay (t : Thread) (k : BitVec 3) (v : Bool) : (t.setP k v).replay = t.replay := by unfold Thread.setP; split <;> rfl
@[simp] theorem Thread.setP_oplog (t : Thread) (k : BitVec 3) (v : Bool) : (t.setP k v).oplog = t.oplog := by unfold Thread.setP; split <;> rfl
@[simp] theorem Thread.setP_sb (t : Thread) (k : BitVec 3) (v : Bool) : (t.setP k v).sb = t.sb := by unfold Thread.setP; split <;> rfl
@[simp] theorem Thread.setP_nt (t : Thread) (k : BitVec 3) (v : Bool) : (t.setP k v).nt = t.nt := by unfold Thread.setP; split <;> rfl
@[simp] theorem Thread.setP_front (t : Thread) (k : BitVec 3) (v : Bool) : (t.setP k v).front = t.front := by unfold Thread.setP; split <;> rfl
@[simp] theorem Thread.setP_obs (t : Thread) (k : BitVec 3) (v : Bool) : (t.setP k v).obs = t.obs := by unfold Thread.setP; split <;> rfl
@[simp] theorem Thread.setP_fence (t : Thread) (k : BitVec 3) (v : Bool) : (t.setP k v).fence = t.fence := by unfold Thread.setP; split <;> rfl
@[simp] theorem Thread.setP_joined (t : Thread) (k : BitVec 3) (v : Bool) : (t.setP k v).joined = t.joined := by unfold Thread.setP; split <;> rfl
@[simp] theorem Thread.setP_alcBank (t : Thread) (k : BitVec 3) (v : Bool) : (t.setP k v).alcBank = t.alcBank := by unfold Thread.setP; split <;> rfl
@[simp] theorem Thread.setP_grp (t : Thread) (k : BitVec 3) (v : Bool) : (t.setP k v).grp = t.grp := by unfold Thread.setP; split <;> rfl
@[simp] theorem Thread.setP_linger (t : Thread) (k : BitVec 3) (v : Bool) : (t.setP k v).linger = t.linger := by unfold Thread.setP; split <;> rfl
@[simp] theorem Thread.setP_issueAt (t : Thread) (k : BitVec 3) (v : Bool) : (t.setP k v).issueAt = t.issueAt := by unfold Thread.setP; split <;> rfl
@[simp] theorem Thread.setP_rep (t : Thread) (k : BitVec 3) (v : Bool) : (t.setP k v).rep = t.rep := by unfold Thread.setP; split <;> rfl
@[simp] theorem Thread.setP_check (t : Thread) (k : BitVec 3) (v : Bool) : (t.setP k v).check = t.check := by unfold Thread.setP; split <;> rfl
@[simp] theorem Thread.setP_guard (t : Thread) (k : BitVec 3) (v : Bool) : (t.setP k v).guard = t.guard := by unfold Thread.setP; split <;> rfl
@[simp] theorem Thread.setP_stamp (t : Thread) (k : BitVec 3) (v : Bool) : (t.setP k v).stamp = t.stamp := by unfold Thread.setP; split <;> rfl
@[simp] theorem Thread.setP_trapReq (t : Thread) (k : BitVec 3) (v : Bool) : (t.setP k v).trapReq = t.trapReq := by unfold Thread.setP; split <;> rfl
@[simp] theorem Thread.setP_stop (t : Thread) (k : BitVec 3) (v : Bool) : (t.setP k v).stop = t.stop := by unfold Thread.setP; split <;> rfl
@[simp] theorem Thread.setP_held (t : Thread) (k : BitVec 3) (v : Bool) : (t.setP k v).held = t.held := by unfold Thread.setP; split <;> rfl
@[simp] theorem Thread.setP_recordOwed (t : Thread) (k : BitVec 3) (v : Bool) : (t.setP k v).recordOwed = t.recordOwed := by unfold Thread.setP; split <;> rfl
@[simp] theorem Thread.setP_gang (t : Thread) (k : BitVec 3) (v : Bool) : (t.setP k v).gang = t.gang := by unfold Thread.setP; split <;> rfl
@[simp] theorem Thread.setP_muster (t : Thread) (k : BitVec 3) (v : Bool) : (t.setP k v).muster = t.muster := by unfold Thread.setP; split <;> rfl
@[simp] theorem Thread.setP_gangCmd (t : Thread) (k : BitVec 3) (v : Bool) : (t.setP k v).gangCmd = t.gangCmd := by unfold Thread.setP; split <;> rfl
@[simp] theorem Thread.setP_atBar (t : Thread) (k : BitVec 3) (v : Bool) : (t.setP k v).atBar = t.atBar := by unfold Thread.setP; split <;> rfl
@[simp] theorem Thread.setP_released (t : Thread) (k : BitVec 3) (v : Bool) : (t.setP k v).released = t.released := by unfold Thread.setP; split <;> rfl
@[simp] theorem Thread.setP_quitting (t : Thread) (k : BitVec 3) (v : Bool) : (t.setP k v).quitting = t.quitting := by unfold Thread.setP; split <;> rfl
@[simp] theorem Thread.setP_yielding (t : Thread) (k : BitVec 3) (v : Bool) : (t.setP k v).yielding = t.yielding := by unfold Thread.setP; split <;> rfl
@[simp] theorem Thread.setP_forced (t : Thread) (k : BitVec 3) (v : Bool) : (t.setP k v).forced = t.forced := by unfold Thread.setP; split <;> rfl
@[simp] theorem Thread.setP_passedA (t : Thread) (k : BitVec 3) (v : Bool) : (t.setP k v).passedA = t.passedA := by unfold Thread.setP; split <;> rfl
@[simp] theorem Thread.setP_passedM (t : Thread) (k : BitVec 3) (v : Bool) : (t.setP k v).passedM = t.passedM := by unfold Thread.setP; split <;> rfl

@[simp] theorem Thread.advance_g (t : Thread) (now : Word) (lat : Nat) : (t.advance now lat).g = t.g := by
  simp only [Thread.advance]; split <;> (first | rfl | (split <;> rfl))
@[simp] theorem Thread.advance_gs (t : Thread) (now : Word) (lat : Nat) : (t.advance now lat).gs = t.gs := by
  simp only [Thread.advance]; split <;> (first | rfl | (split <;> rfl))
@[simp] theorem Thread.advance_p (t : Thread) (now : Word) (lat : Nat) : (t.advance now lat).p = t.p := by
  simp only [Thread.advance]; split <;> (first | rfl | (split <;> rfl))
@[simp] theorem Thread.advance_b (t : Thread) (now : Word) (lat : Nat) : (t.advance now lat).b = t.b := by
  simp only [Thread.advance]; split <;> (first | rfl | (split <;> rfl))
@[simp] theorem Thread.advance_d (t : Thread) (now : Word) (lat : Nat) : (t.advance now lat).d = t.d := by
  simp only [Thread.advance]; split <;> (first | rfl | (split <;> rfl))
@[simp] theorem Thread.advance_e (t : Thread) (now : Word) (lat : Nat) : (t.advance now lat).e = t.e := by
  simp only [Thread.advance]; split <;> (first | rfl | (split <;> rfl))
@[simp] theorem Thread.advance_gid (t : Thread) (now : Word) (lat : Nat) : (t.advance now lat).gid = t.gid := by
  simp only [Thread.advance]; split <;> (first | rfl | (split <;> rfl))
@[simp] theorem Thread.advance_launch (t : Thread) (now : Word) (lat : Nat) : (t.advance now lat).launch = t.launch := by
  simp only [Thread.advance]; split <;> (first | rfl | (split <;> rfl))
@[simp] theorem Thread.advance_part (t : Thread) (now : Word) (lat : Nat) : (t.advance now lat).part = t.part := by
  simp only [Thread.advance]; split <;> (first | rfl | (split <;> rfl))
@[simp] theorem Thread.advance_asid (t : Thread) (now : Word) (lat : Nat) : (t.advance now lat).asid = t.asid := by
  simp only [Thread.advance]; split <;> (first | rfl | (split <;> rfl))
@[simp] theorem Thread.advance_fcsr (t : Thread) (now : Word) (lat : Nat) : (t.advance now lat).fcsr = t.fcsr := by
  simp only [Thread.advance]; split <;> (first | rfl | (split <;> rfl))
@[simp] theorem Thread.advance_alcove (t : Thread) (now : Word) (lat : Nat) : (t.advance now lat).alcove = t.alcove := by
  simp only [Thread.advance]; split <;> (first | rfl | (split <;> rfl))
@[simp] theorem Thread.advance_tfp (t : Thread) (now : Word) (lat : Nat) : (t.advance now lat).tfp = t.tfp := by
  simp only [Thread.advance]; split <;> (first | rfl | (split <;> rfl))
@[simp] theorem Thread.advance_cause (t : Thread) (now : Word) (lat : Nat) : (t.advance now lat).cause = t.cause := by
  simp only [Thread.advance]; split <;> (first | rfl | (split <;> rfl))
@[simp] theorem Thread.advance_info (t : Thread) (now : Word) (lat : Nat) : (t.advance now lat).info = t.info := by
  simp only [Thread.advance]; split <;> (first | rfl | (split <;> rfl))
@[simp] theorem Thread.advance_faddr (t : Thread) (now : Word) (lat : Nat) : (t.advance now lat).faddr = t.faddr := by
  simp only [Thread.advance]; split <;> (first | rfl | (split <;> rfl))
@[simp] theorem Thread.advance_save0 (t : Thread) (now : Word) (lat : Nat) : (t.advance now lat).save0 = t.save0 := by
  simp only [Thread.advance]; split <;> (first | rfl | (split <;> rfl))
@[simp] theorem Thread.advance_save1 (t : Thread) (now : Word) (lat : Nat) : (t.advance now lat).save1 = t.save1 := by
  simp only [Thread.advance]; split <;> (first | rfl | (split <;> rfl))
@[simp] theorem Thread.advance_watch0 (t : Thread) (now : Word) (lat : Nat) : (t.advance now lat).watch0 = t.watch0 := by
  simp only [Thread.advance]; split <;> (first | rfl | (split <;> rfl))
@[simp] theorem Thread.advance_watch1 (t : Thread) (now : Word) (lat : Nat) : (t.advance now lat).watch1 = t.watch1 := by
  simp only [Thread.advance]; split <;> (first | rfl | (split <;> rfl))
@[simp] theorem Thread.advance_cyc (t : Thread) (now : Word) (lat : Nat) : (t.advance now lat).cyc = t.cyc := by
  simp only [Thread.advance]; split <;> (first | rfl | (split <;> rfl))
@[simp] theorem Thread.advance_started (t : Thread) (now : Word) (lat : Nat) : (t.advance now lat).started = t.started := by
  simp only [Thread.advance]; split <;> (first | rfl | (split <;> rfl))
@[simp] theorem Thread.advance_replay (t : Thread) (now : Word) (lat : Nat) : (t.advance now lat).replay = t.replay := by
  simp only [Thread.advance]; split <;> (first | rfl | (split <;> rfl))
@[simp] theorem Thread.advance_oplog (t : Thread) (now : Word) (lat : Nat) : (t.advance now lat).oplog = t.oplog := by
  simp only [Thread.advance]; split <;> (first | rfl | (split <;> rfl))
@[simp] theorem Thread.advance_sb (t : Thread) (now : Word) (lat : Nat) : (t.advance now lat).sb = t.sb := by
  simp only [Thread.advance]; split <;> (first | rfl | (split <;> rfl))
@[simp] theorem Thread.advance_nt (t : Thread) (now : Word) (lat : Nat) : (t.advance now lat).nt = t.nt := by
  simp only [Thread.advance]; split <;> (first | rfl | (split <;> rfl))
@[simp] theorem Thread.advance_front (t : Thread) (now : Word) (lat : Nat) : (t.advance now lat).front = t.front := by
  simp only [Thread.advance]; split <;> (first | rfl | (split <;> rfl))
@[simp] theorem Thread.advance_obs (t : Thread) (now : Word) (lat : Nat) : (t.advance now lat).obs = t.obs := by
  simp only [Thread.advance]; split <;> (first | rfl | (split <;> rfl))
@[simp] theorem Thread.advance_fence (t : Thread) (now : Word) (lat : Nat) : (t.advance now lat).fence = t.fence := by
  simp only [Thread.advance]; split <;> (first | rfl | (split <;> rfl))
@[simp] theorem Thread.advance_joined (t : Thread) (now : Word) (lat : Nat) : (t.advance now lat).joined = t.joined := by
  simp only [Thread.advance]; split <;> (first | rfl | (split <;> rfl))
@[simp] theorem Thread.advance_alcBank (t : Thread) (now : Word) (lat : Nat) : (t.advance now lat).alcBank = t.alcBank := by
  simp only [Thread.advance]; split <;> (first | rfl | (split <;> rfl))
@[simp] theorem Thread.advance_grp (t : Thread) (now : Word) (lat : Nat) : (t.advance now lat).grp = t.grp := by
  simp only [Thread.advance]; split <;> (first | rfl | (split <;> rfl))
@[simp] theorem Thread.advance_linger (t : Thread) (now : Word) (lat : Nat) : (t.advance now lat).linger = t.linger := by
  simp only [Thread.advance]; split <;> (first | rfl | (split <;> rfl))
@[simp] theorem Thread.advance_stamp (t : Thread) (now : Word) (lat : Nat) : (t.advance now lat).stamp = t.stamp := by
  simp only [Thread.advance]; split <;> (first | rfl | (split <;> rfl))
@[simp] theorem Thread.advance_trapReq (t : Thread) (now : Word) (lat : Nat) : (t.advance now lat).trapReq = t.trapReq := by
  simp only [Thread.advance]; split <;> (first | rfl | (split <;> rfl))
@[simp] theorem Thread.advance_stop (t : Thread) (now : Word) (lat : Nat) : (t.advance now lat).stop = t.stop := by
  simp only [Thread.advance]; split <;> (first | rfl | (split <;> rfl))
@[simp] theorem Thread.advance_held (t : Thread) (now : Word) (lat : Nat) : (t.advance now lat).held = t.held := by
  simp only [Thread.advance]; split <;> (first | rfl | (split <;> rfl))
@[simp] theorem Thread.advance_recordOwed (t : Thread) (now : Word) (lat : Nat) : (t.advance now lat).recordOwed = t.recordOwed := by
  simp only [Thread.advance]; split <;> (first | rfl | (split <;> rfl))
@[simp] theorem Thread.advance_gang (t : Thread) (now : Word) (lat : Nat) : (t.advance now lat).gang = t.gang := by
  simp only [Thread.advance]; split <;> (first | rfl | (split <;> rfl))
@[simp] theorem Thread.advance_muster (t : Thread) (now : Word) (lat : Nat) : (t.advance now lat).muster = t.muster := by
  simp only [Thread.advance]; split <;> (first | rfl | (split <;> rfl))
@[simp] theorem Thread.advance_gangCmd (t : Thread) (now : Word) (lat : Nat) : (t.advance now lat).gangCmd = t.gangCmd := by
  simp only [Thread.advance]; split <;> (first | rfl | (split <;> rfl))
@[simp] theorem Thread.advance_atBar (t : Thread) (now : Word) (lat : Nat) : (t.advance now lat).atBar = t.atBar := by
  simp only [Thread.advance]; split <;> (first | rfl | (split <;> rfl))
@[simp] theorem Thread.advance_released (t : Thread) (now : Word) (lat : Nat) : (t.advance now lat).released = t.released := by
  simp only [Thread.advance]; split <;> (first | rfl | (split <;> rfl))
@[simp] theorem Thread.advance_quitting (t : Thread) (now : Word) (lat : Nat) : (t.advance now lat).quitting = t.quitting := by
  simp only [Thread.advance]; split <;> (first | rfl | (split <;> rfl))
@[simp] theorem Thread.advance_yielding (t : Thread) (now : Word) (lat : Nat) : (t.advance now lat).yielding = t.yielding := by
  simp only [Thread.advance]; split <;> (first | rfl | (split <;> rfl))
@[simp] theorem Thread.advance_forced (t : Thread) (now : Word) (lat : Nat) : (t.advance now lat).forced = t.forced := by
  simp only [Thread.advance]; split <;> (first | rfl | (split <;> rfl))
@[simp] theorem Thread.advance_passedA (t : Thread) (now : Word) (lat : Nat) : (t.advance now lat).passedA = t.passedA := by
  simp only [Thread.advance]; split <;> (first | rfl | (split <;> rfl))
@[simp] theorem Thread.advance_passedM (t : Thread) (now : Word) (lat : Nat) : (t.advance now lat).passedM = t.passedM := by
  simp only [Thread.advance]; split <;> (first | rfl | (split <;> rfl))

@[simp] theorem Thread.mapEntry_pc (t : Thread) (id : Nat) (f : ReplayEntry → ReplayEntry) : (t.mapEntry id f).pc = t.pc := rfl
@[simp] theorem Thread.dropEntry_pc (t : Thread) (id : Nat) : (t.dropEntry id).pc = t.pc := rfl
@[simp] theorem Thread.mapEntry_g (t : Thread) (id : Nat) (f : ReplayEntry → ReplayEntry) : (t.mapEntry id f).g = t.g := rfl
@[simp] theorem Thread.dropEntry_g (t : Thread) (id : Nat) : (t.dropEntry id).g = t.g := rfl
@[simp] theorem Thread.mapEntry_gs (t : Thread) (id : Nat) (f : ReplayEntry → ReplayEntry) : (t.mapEntry id f).gs = t.gs := rfl
@[simp] theorem Thread.dropEntry_gs (t : Thread) (id : Nat) : (t.dropEntry id).gs = t.gs := rfl
@[simp] theorem Thread.mapEntry_p (t : Thread) (id : Nat) (f : ReplayEntry → ReplayEntry) : (t.mapEntry id f).p = t.p := rfl
@[simp] theorem Thread.dropEntry_p (t : Thread) (id : Nat) : (t.dropEntry id).p = t.p := rfl
@[simp] theorem Thread.mapEntry_b (t : Thread) (id : Nat) (f : ReplayEntry → ReplayEntry) : (t.mapEntry id f).b = t.b := rfl
@[simp] theorem Thread.dropEntry_b (t : Thread) (id : Nat) : (t.dropEntry id).b = t.b := rfl
@[simp] theorem Thread.mapEntry_d (t : Thread) (id : Nat) (f : ReplayEntry → ReplayEntry) : (t.mapEntry id f).d = t.d := rfl
@[simp] theorem Thread.dropEntry_d (t : Thread) (id : Nat) : (t.dropEntry id).d = t.d := rfl
@[simp] theorem Thread.mapEntry_e (t : Thread) (id : Nat) (f : ReplayEntry → ReplayEntry) : (t.mapEntry id f).e = t.e := rfl
@[simp] theorem Thread.dropEntry_e (t : Thread) (id : Nat) : (t.dropEntry id).e = t.e := rfl
@[simp] theorem Thread.mapEntry_status (t : Thread) (id : Nat) (f : ReplayEntry → ReplayEntry) : (t.mapEntry id f).status = t.status := rfl
@[simp] theorem Thread.dropEntry_status (t : Thread) (id : Nat) : (t.dropEntry id).status = t.status := rfl
@[simp] theorem Thread.mapEntry_gid (t : Thread) (id : Nat) (f : ReplayEntry → ReplayEntry) : (t.mapEntry id f).gid = t.gid := rfl
@[simp] theorem Thread.dropEntry_gid (t : Thread) (id : Nat) : (t.dropEntry id).gid = t.gid := rfl
@[simp] theorem Thread.mapEntry_launch (t : Thread) (id : Nat) (f : ReplayEntry → ReplayEntry) : (t.mapEntry id f).launch = t.launch := rfl
@[simp] theorem Thread.dropEntry_launch (t : Thread) (id : Nat) : (t.dropEntry id).launch = t.launch := rfl
@[simp] theorem Thread.mapEntry_part (t : Thread) (id : Nat) (f : ReplayEntry → ReplayEntry) : (t.mapEntry id f).part = t.part := rfl
@[simp] theorem Thread.dropEntry_part (t : Thread) (id : Nat) : (t.dropEntry id).part = t.part := rfl
@[simp] theorem Thread.mapEntry_asid (t : Thread) (id : Nat) (f : ReplayEntry → ReplayEntry) : (t.mapEntry id f).asid = t.asid := rfl
@[simp] theorem Thread.dropEntry_asid (t : Thread) (id : Nat) : (t.dropEntry id).asid = t.asid := rfl
@[simp] theorem Thread.mapEntry_fcsr (t : Thread) (id : Nat) (f : ReplayEntry → ReplayEntry) : (t.mapEntry id f).fcsr = t.fcsr := rfl
@[simp] theorem Thread.dropEntry_fcsr (t : Thread) (id : Nat) : (t.dropEntry id).fcsr = t.fcsr := rfl
@[simp] theorem Thread.mapEntry_alcove (t : Thread) (id : Nat) (f : ReplayEntry → ReplayEntry) : (t.mapEntry id f).alcove = t.alcove := rfl
@[simp] theorem Thread.dropEntry_alcove (t : Thread) (id : Nat) : (t.dropEntry id).alcove = t.alcove := rfl
@[simp] theorem Thread.mapEntry_pix (t : Thread) (id : Nat) (f : ReplayEntry → ReplayEntry) : (t.mapEntry id f).pix = t.pix := rfl
@[simp] theorem Thread.dropEntry_pix (t : Thread) (id : Nat) : (t.dropEntry id).pix = t.pix := rfl
@[simp] theorem Thread.mapEntry_tfp (t : Thread) (id : Nat) (f : ReplayEntry → ReplayEntry) : (t.mapEntry id f).tfp = t.tfp := rfl
@[simp] theorem Thread.dropEntry_tfp (t : Thread) (id : Nat) : (t.dropEntry id).tfp = t.tfp := rfl
@[simp] theorem Thread.mapEntry_cause (t : Thread) (id : Nat) (f : ReplayEntry → ReplayEntry) : (t.mapEntry id f).cause = t.cause := rfl
@[simp] theorem Thread.dropEntry_cause (t : Thread) (id : Nat) : (t.dropEntry id).cause = t.cause := rfl
@[simp] theorem Thread.mapEntry_info (t : Thread) (id : Nat) (f : ReplayEntry → ReplayEntry) : (t.mapEntry id f).info = t.info := rfl
@[simp] theorem Thread.dropEntry_info (t : Thread) (id : Nat) : (t.dropEntry id).info = t.info := rfl
@[simp] theorem Thread.mapEntry_faddr (t : Thread) (id : Nat) (f : ReplayEntry → ReplayEntry) : (t.mapEntry id f).faddr = t.faddr := rfl
@[simp] theorem Thread.dropEntry_faddr (t : Thread) (id : Nat) : (t.dropEntry id).faddr = t.faddr := rfl
@[simp] theorem Thread.mapEntry_save0 (t : Thread) (id : Nat) (f : ReplayEntry → ReplayEntry) : (t.mapEntry id f).save0 = t.save0 := rfl
@[simp] theorem Thread.dropEntry_save0 (t : Thread) (id : Nat) : (t.dropEntry id).save0 = t.save0 := rfl
@[simp] theorem Thread.mapEntry_save1 (t : Thread) (id : Nat) (f : ReplayEntry → ReplayEntry) : (t.mapEntry id f).save1 = t.save1 := rfl
@[simp] theorem Thread.dropEntry_save1 (t : Thread) (id : Nat) : (t.dropEntry id).save1 = t.save1 := rfl
@[simp] theorem Thread.mapEntry_watch0 (t : Thread) (id : Nat) (f : ReplayEntry → ReplayEntry) : (t.mapEntry id f).watch0 = t.watch0 := rfl
@[simp] theorem Thread.dropEntry_watch0 (t : Thread) (id : Nat) : (t.dropEntry id).watch0 = t.watch0 := rfl
@[simp] theorem Thread.mapEntry_watch1 (t : Thread) (id : Nat) (f : ReplayEntry → ReplayEntry) : (t.mapEntry id f).watch1 = t.watch1 := rfl
@[simp] theorem Thread.dropEntry_watch1 (t : Thread) (id : Nat) : (t.dropEntry id).watch1 = t.watch1 := rfl
@[simp] theorem Thread.mapEntry_cyc (t : Thread) (id : Nat) (f : ReplayEntry → ReplayEntry) : (t.mapEntry id f).cyc = t.cyc := rfl
@[simp] theorem Thread.dropEntry_cyc (t : Thread) (id : Nat) : (t.dropEntry id).cyc = t.cyc := rfl
@[simp] theorem Thread.mapEntry_started (t : Thread) (id : Nat) (f : ReplayEntry → ReplayEntry) : (t.mapEntry id f).started = t.started := rfl
@[simp] theorem Thread.dropEntry_started (t : Thread) (id : Nat) : (t.dropEntry id).started = t.started := rfl
@[simp] theorem Thread.mapEntry_oplog (t : Thread) (id : Nat) (f : ReplayEntry → ReplayEntry) : (t.mapEntry id f).oplog = t.oplog := rfl
@[simp] theorem Thread.dropEntry_oplog (t : Thread) (id : Nat) : (t.dropEntry id).oplog = t.oplog := rfl
@[simp] theorem Thread.mapEntry_sb (t : Thread) (id : Nat) (f : ReplayEntry → ReplayEntry) : (t.mapEntry id f).sb = t.sb := rfl
@[simp] theorem Thread.dropEntry_sb (t : Thread) (id : Nat) : (t.dropEntry id).sb = t.sb := rfl
@[simp] theorem Thread.mapEntry_nt (t : Thread) (id : Nat) (f : ReplayEntry → ReplayEntry) : (t.mapEntry id f).nt = t.nt := rfl
@[simp] theorem Thread.dropEntry_nt (t : Thread) (id : Nat) : (t.dropEntry id).nt = t.nt := rfl
@[simp] theorem Thread.mapEntry_front (t : Thread) (id : Nat) (f : ReplayEntry → ReplayEntry) : (t.mapEntry id f).front = t.front := rfl
@[simp] theorem Thread.dropEntry_front (t : Thread) (id : Nat) : (t.dropEntry id).front = t.front := rfl
@[simp] theorem Thread.mapEntry_obs (t : Thread) (id : Nat) (f : ReplayEntry → ReplayEntry) : (t.mapEntry id f).obs = t.obs := rfl
@[simp] theorem Thread.dropEntry_obs (t : Thread) (id : Nat) : (t.dropEntry id).obs = t.obs := rfl
@[simp] theorem Thread.mapEntry_fence (t : Thread) (id : Nat) (f : ReplayEntry → ReplayEntry) : (t.mapEntry id f).fence = t.fence := rfl
@[simp] theorem Thread.dropEntry_fence (t : Thread) (id : Nat) : (t.dropEntry id).fence = t.fence := rfl
@[simp] theorem Thread.mapEntry_joined (t : Thread) (id : Nat) (f : ReplayEntry → ReplayEntry) : (t.mapEntry id f).joined = t.joined := rfl
@[simp] theorem Thread.dropEntry_joined (t : Thread) (id : Nat) : (t.dropEntry id).joined = t.joined := rfl
@[simp] theorem Thread.mapEntry_alcBank (t : Thread) (id : Nat) (f : ReplayEntry → ReplayEntry) : (t.mapEntry id f).alcBank = t.alcBank := rfl
@[simp] theorem Thread.dropEntry_alcBank (t : Thread) (id : Nat) : (t.dropEntry id).alcBank = t.alcBank := rfl
@[simp] theorem Thread.mapEntry_grp (t : Thread) (id : Nat) (f : ReplayEntry → ReplayEntry) : (t.mapEntry id f).grp = t.grp := rfl
@[simp] theorem Thread.dropEntry_grp (t : Thread) (id : Nat) : (t.dropEntry id).grp = t.grp := rfl
@[simp] theorem Thread.mapEntry_linger (t : Thread) (id : Nat) (f : ReplayEntry → ReplayEntry) : (t.mapEntry id f).linger = t.linger := rfl
@[simp] theorem Thread.dropEntry_linger (t : Thread) (id : Nat) : (t.dropEntry id).linger = t.linger := rfl
@[simp] theorem Thread.mapEntry_issueAt (t : Thread) (id : Nat) (f : ReplayEntry → ReplayEntry) : (t.mapEntry id f).issueAt = t.issueAt := rfl
@[simp] theorem Thread.dropEntry_issueAt (t : Thread) (id : Nat) : (t.dropEntry id).issueAt = t.issueAt := rfl
@[simp] theorem Thread.mapEntry_rep (t : Thread) (id : Nat) (f : ReplayEntry → ReplayEntry) : (t.mapEntry id f).rep = t.rep := rfl
@[simp] theorem Thread.dropEntry_rep (t : Thread) (id : Nat) : (t.dropEntry id).rep = t.rep := rfl
@[simp] theorem Thread.mapEntry_check (t : Thread) (id : Nat) (f : ReplayEntry → ReplayEntry) : (t.mapEntry id f).check = t.check := rfl
@[simp] theorem Thread.dropEntry_check (t : Thread) (id : Nat) : (t.dropEntry id).check = t.check := rfl
@[simp] theorem Thread.mapEntry_guard (t : Thread) (id : Nat) (f : ReplayEntry → ReplayEntry) : (t.mapEntry id f).guard = t.guard := rfl
@[simp] theorem Thread.dropEntry_guard (t : Thread) (id : Nat) : (t.dropEntry id).guard = t.guard := rfl
@[simp] theorem Thread.mapEntry_stamp (t : Thread) (id : Nat) (f : ReplayEntry → ReplayEntry) : (t.mapEntry id f).stamp = t.stamp := rfl
@[simp] theorem Thread.dropEntry_stamp (t : Thread) (id : Nat) : (t.dropEntry id).stamp = t.stamp := rfl
@[simp] theorem Thread.mapEntry_trapReq (t : Thread) (id : Nat) (f : ReplayEntry → ReplayEntry) : (t.mapEntry id f).trapReq = t.trapReq := rfl
@[simp] theorem Thread.dropEntry_trapReq (t : Thread) (id : Nat) : (t.dropEntry id).trapReq = t.trapReq := rfl
@[simp] theorem Thread.mapEntry_stop (t : Thread) (id : Nat) (f : ReplayEntry → ReplayEntry) : (t.mapEntry id f).stop = t.stop := rfl
@[simp] theorem Thread.dropEntry_stop (t : Thread) (id : Nat) : (t.dropEntry id).stop = t.stop := rfl
@[simp] theorem Thread.mapEntry_held (t : Thread) (id : Nat) (f : ReplayEntry → ReplayEntry) : (t.mapEntry id f).held = t.held := rfl
@[simp] theorem Thread.dropEntry_held (t : Thread) (id : Nat) : (t.dropEntry id).held = t.held := rfl
@[simp] theorem Thread.mapEntry_recordOwed (t : Thread) (id : Nat) (f : ReplayEntry → ReplayEntry) : (t.mapEntry id f).recordOwed = t.recordOwed := rfl
@[simp] theorem Thread.dropEntry_recordOwed (t : Thread) (id : Nat) : (t.dropEntry id).recordOwed = t.recordOwed := rfl
@[simp] theorem Thread.mapEntry_gang (t : Thread) (id : Nat) (f : ReplayEntry → ReplayEntry) : (t.mapEntry id f).gang = t.gang := rfl
@[simp] theorem Thread.dropEntry_gang (t : Thread) (id : Nat) : (t.dropEntry id).gang = t.gang := rfl
@[simp] theorem Thread.mapEntry_muster (t : Thread) (id : Nat) (f : ReplayEntry → ReplayEntry) : (t.mapEntry id f).muster = t.muster := rfl
@[simp] theorem Thread.dropEntry_muster (t : Thread) (id : Nat) : (t.dropEntry id).muster = t.muster := rfl
@[simp] theorem Thread.mapEntry_gangCmd (t : Thread) (id : Nat) (f : ReplayEntry → ReplayEntry) : (t.mapEntry id f).gangCmd = t.gangCmd := rfl
@[simp] theorem Thread.dropEntry_gangCmd (t : Thread) (id : Nat) : (t.dropEntry id).gangCmd = t.gangCmd := rfl
@[simp] theorem Thread.mapEntry_atBar (t : Thread) (id : Nat) (f : ReplayEntry → ReplayEntry) : (t.mapEntry id f).atBar = t.atBar := rfl
@[simp] theorem Thread.dropEntry_atBar (t : Thread) (id : Nat) : (t.dropEntry id).atBar = t.atBar := rfl
@[simp] theorem Thread.mapEntry_released (t : Thread) (id : Nat) (f : ReplayEntry → ReplayEntry) : (t.mapEntry id f).released = t.released := rfl
@[simp] theorem Thread.dropEntry_released (t : Thread) (id : Nat) : (t.dropEntry id).released = t.released := rfl
@[simp] theorem Thread.mapEntry_quitting (t : Thread) (id : Nat) (f : ReplayEntry → ReplayEntry) : (t.mapEntry id f).quitting = t.quitting := rfl
@[simp] theorem Thread.dropEntry_quitting (t : Thread) (id : Nat) : (t.dropEntry id).quitting = t.quitting := rfl
@[simp] theorem Thread.mapEntry_yielding (t : Thread) (id : Nat) (f : ReplayEntry → ReplayEntry) : (t.mapEntry id f).yielding = t.yielding := rfl
@[simp] theorem Thread.dropEntry_yielding (t : Thread) (id : Nat) : (t.dropEntry id).yielding = t.yielding := rfl
@[simp] theorem Thread.mapEntry_forced (t : Thread) (id : Nat) (f : ReplayEntry → ReplayEntry) : (t.mapEntry id f).forced = t.forced := rfl
@[simp] theorem Thread.dropEntry_forced (t : Thread) (id : Nat) : (t.dropEntry id).forced = t.forced := rfl
@[simp] theorem Thread.mapEntry_passedA (t : Thread) (id : Nat) (f : ReplayEntry → ReplayEntry) : (t.mapEntry id f).passedA = t.passedA := rfl
@[simp] theorem Thread.dropEntry_passedA (t : Thread) (id : Nat) : (t.dropEntry id).passedA = t.passedA := rfl
@[simp] theorem Thread.mapEntry_passedM (t : Thread) (id : Nat) (f : ReplayEntry → ReplayEntry) : (t.mapEntry id f).passedM = t.passedM := rfl
@[simp] theorem Thread.dropEntry_passedM (t : Thread) (id : Nat) : (t.dropEntry id).passedM = t.passedM := rfl

/-! ## Registers after a write -/

theorem Thread.gpr_setG_self (t : Thread) {r : Reg} (v : Word) (h : r ≠ 0) : (t.setG r v).gpr r = v := by
  unfold Thread.setG Thread.gpr
  rw [if_neg h, if_neg h]
  exact Vector.getElem_set_self ..
theorem Thread.gpr_setG_other (t : Thread) {r q : Reg} (v : Word) (h : q ≠ r) : (t.setG r v).gpr q = t.gpr q := by
  unfold Thread.setG
  split
  · rfl
  · simp only [Thread.gpr]
    split
    · rfl
    · rw [Vector.getElem_set_ne]
      exact fun e => h (BitVec.eq_of_toNat_eq e.symm)
theorem Thread.regState_setG_other (t : Thread) {r q : Reg} (v : Word) (h : q ≠ r) : (t.setG r v).regState q = t.regState q := by
  unfold Thread.setG
  split
  · rfl
  · simp only [Thread.regState]
    split
    · rfl
    · rw [Vector.getElem_set_ne]
      exact fun e => h (BitVec.eq_of_toNat_eq e.symm)
@[simp] theorem Thread.setG_zero (t : Thread) (v : Word) : t.setG 0 v = t := by simp [Thread.setG]
@[simp] theorem Thread.setOwed_zero (t : Thread) : t.setOwed 0 = t := by simp [Thread.setOwed]
@[simp] theorem Thread.setP_zero (t : Thread) (v : Bool) : t.setP 0 v = t := by simp [Thread.setP]
@[simp] theorem Thread.gpr_zero (t : Thread) : t.gpr 0 = 0 := by simp [Thread.gpr]
@[simp] theorem Thread.pred_zero (t : Thread) : t.pred 0 = true := by simp [Thread.pred]
theorem Thread.regState_zero (t : Thread) : t.regState 0 = if t.zeroMarked then .owed else .full := by simp [Thread.regState]
@[simp] theorem Thread.zeroMarked_advance (t : Thread) (now : Word) (lat : Nat) : (t.advance now lat).zeroMarked = t.zeroMarked := by
  simp [Thread.zeroMarked]
@[simp] theorem Thread.zeroMarked_setG (t : Thread) (r : Reg) (v : Word) : (t.setG r v).zeroMarked = t.zeroMarked := by simp [Thread.zeroMarked]
@[simp] theorem Thread.gpr_advance (t : Thread) (now : Word) (lat : Nat) (r : Reg) : (t.advance now lat).gpr r = t.gpr r := by simp [Thread.gpr]
@[simp] theorem Thread.regState_advance (t : Thread) (now : Word) (lat : Nat) (r : Reg) : (t.advance now lat).regState r = t.regState r := by
  simp [Thread.regState]
@[simp] theorem Thread.gpr_setOwed (t : Thread) (r q : Reg) : (t.setOwed r).gpr q = t.gpr q := by simp [Thread.gpr]
@[simp] theorem Thread.gpr_setP (t : Thread) (k : BitVec 3) (v : Bool) (q : Reg) : (t.setP k v).gpr q = t.gpr q := by simp [Thread.gpr]
@[simp] theorem Thread.pred_setG (t : Thread) (r : Reg) (v : Word) (k : BitVec 3) : (t.setG r v).pred k = t.pred k := by simp [Thread.pred]

/-! ## Reset -/

theorem memory_wf_reset : Memory.wf State.reset.mem = true := rfl
@[simp] theorem State.reset_thread (loc : Nat) : State.reset.thread loc = none := rfl

end Sys2Proof.Machine
end

