-- ==== Sys2Proof/Laws/Coherence.lean ====
section
/-! SUPPORT. What accesses do to the caches and the directory when they take a line in their own move: they change copies,
directory entries, messages and translation entries, and nothing else. -/
namespace Sys2Proof.Machine

/-- A state differs from another at most in its caches, its translation entries, its directory and the messages about lines. -/
def cachesOnly (s s' : State) : Prop :=
  s' = { s with l1d := s'.l1d, l2 := s'.l2, tlb := s'.tlb, dir := s'.dir, homeTx := s'.homeTx, sliceMsgs := s'.sliceMsgs, errInv := s'.errInv
                mdieErr := s'.mdieErr }

theorem cachesOnly_refl (s : State) : cachesOnly s s := rfl

theorem cachesOnly_trans {a b c : State} (h : cachesOnly a b) (g : cachesOnly b c) : cachesOnly a c := by
  unfold cachesOnly at *
  rw [g, h]

theorem cachesOnly_ite {s a b : State} {p : Prop} [Decidable p] (ha : cachesOnly s a) (hb : cachesOnly s b) : cachesOnly s (if p then a else b) := by
  split
  · exact ha
  · exact hb

theorem cachesOnly_foldl {α : Type} {f : State → α → State} (hf : ∀ s a, cachesOnly s (f s a)) (l : List α) (s : State) :
    cachesOnly s (l.foldl f s) := by
  induction l generalizing s with
  | nil => rfl
  | cons a l ih => exact cachesOnly_trans (hf s a) (ih _)

theorem cachesOnly_mem {s s' : State} (h : cachesOnly s s') : s'.mem = s.mem := by rw [h]
theorem cachesOnly_threads {s s' : State} (h : cachesOnly s s') : s'.threads = s.threads := by rw [h]

theorem removeCopy_only (s : State) (die line : Nat) : cachesOnly s (removeCopy s die line) := rfl

theorem downgrade_only (s : State) (die line : Nat) : cachesOnly s (s.downgrade die line) := rfl

theorem setDir_only (s : State) (line : Nat) (e : DirEntry) : cachesOnly s (s.setDir line e) := rfl

theorem errorInvalidate_only (s : State) (die line : Nat) : cachesOnly s (errorInvalidate s die line) := cachesOnly_ite rfl rfl

theorem sendMsg_only (s : State) (die line : Nat) (k : HomeKind) : cachesOnly s (sendMsg s die line k) := cachesOnly_ite rfl rfl

/-- A line lost without an owner to fence. -/
theorem loseOwner_only (s : State) (line : Nat) : cachesOnly s (loseOwner s line none) := rfl

/-- The eviction of a copy that is not detached. -/
theorem evict_only {s : State} {die line : Nat} (h : s.detachedBank die line = none) : cachesOnly s (evict s die line) := by
  unfold evict
  generalize hu : sendMsg s die line _ = u
  have hs : cachesOnly s u := hu ▸ sendMsg_only ..
  have hb : u.detachedBank die line = none := by rw [hs]; exact h
  have hd : dropCopy u die line = removeCopy u die line := by
    simp only [dropCopy]
    rw [show (removeCopy u die line).detachedBank die line = none from hb]
  rw [hd]
  exact cachesOnly_trans hs (removeCopy_only ..)

theorem makeRoom_only (s : State) (die line : Nat) : cachesOnly s (makeRoom s die line) := by
  unfold makeRoom
  dsimp only
  split
  · split
    · next l hl => exact evict_only (by have := List.find?_some hl; simp at this; exact this.1)
    · rfl
  · rfl

theorem addCopy_only (s : State) (die line va asid : Nat) (at' : Attrs) (m : Bool) : cachesOnly s (s.addCopy die line va asid at' m) := by
  unfold State.addCopy
  generalize hu : ({ s with l2 := s.l2.filter (fun l => !(l.die == die && l.pa == line)) } : State) = u
  have h : cachesOnly s u := by subst hu; rfl
  exact cachesOnly_trans (cachesOnly_trans h (makeRoom_only u die line)) rfl

theorem recallCopies_only (s : State) (die line : Nat) (keep : Bool) : cachesOnly s (recallCopies s die line keep) := by
  unfold recallCopies
  simp only
  split
  · exact loseOwner_only ..
  · split
    · refine cachesOnly_trans ?_ (setDir_only ..)
      split
      · exact cachesOnly_foldl (fun _ _ => downgrade_only ..) _ _
      · rfl
    · exact cachesOnly_trans (cachesOnly_foldl (fun _ _ => removeCopy_only ..) _ _) (setDir_only ..)

theorem touchRead_only (s : State) (die line va asid : Nat) (at' : Attrs) : cachesOnly s (touchRead s die line va asid at') := by
  unfold touchRead
  split
  · rfl
  · refine cachesOnly_trans (recallCopies_only s die line true) ?_
    dsimp only
    split
    · rfl
    · exact cachesOnly_trans (setDir_only ..) (addCopy_only ..)

theorem touchWrite_only (s : State) (die line va asid : Nat) (at' : Attrs) : cachesOnly s (touchWrite s die line va asid at') := by
  unfold touchWrite
  split
  · rfl
  · refine cachesOnly_trans (recallCopies_only s die line false) ?_
    dsimp only
    split
    · rfl
    · exact cachesOnly_trans (setDir_only ..) (addCopy_only ..)

theorem touchHome_only (s : State) (line : Nat) : cachesOnly s (touchHome s line) := by
  unfold touchHome
  split
  · rfl
  · exact recallCopies_only ..

/-- Taking the lines of an access. -/
theorem touch_only (s : State) (die asid va : Nat) (xs : List Nat) (as : List Attrs) (write : Bool) :
    cachesOnly s (touch s die asid va xs as write) := by
  refine cachesOnly_foldl (fun s e => ?_) _ _
  split
  · exact touchHome_only ..
  · split
    · exact touchWrite_only ..
    · exact touchRead_only ..

/-- A walk's reads of the tables. -/
theorem touchWalk_only (s : State) (p : Partition) (die asid va : Nat) : cachesOnly s (touchWalk s p die asid va) :=
  cachesOnly_foldl (fun _ _ => touchRead_only ..) _ _

theorem fillTlb_only (s : State) (die part asid va : Nat) : cachesOnly s (fillTlb s die part asid va) := by
  unfold fillTlb
  split
  · rfl
  · split
    · rfl
    · refine cachesOnly_trans ?_ (touchWalk_only ..)
      split
      · rfl
      · rfl

/-- The translation of the pages of an access. -/
theorem fillTlbs_only (s : State) (die part asid va n : Nat) : cachesOnly s (fillTlbs s die part asid va n) :=
  cachesOnly_foldl (fun _ _ => fillTlb_only ..) _ _

/-! ## Poison -/

/-- What is found in a list by key stands in it. -/
theorem mem_of_alGet {α : Type} {x : Nat} {v : α} : ∀ {l : List (Nat × α)}, alGet l x = some v → (x, v) ∈ l
  | [], h => nomatch h
  | (k, w) :: l, h => by
    by_cases hk : k = x
    · simp [alGet, hk] at h
      simp [hk, h]
    · exact List.mem_cons_of_mem _ (mem_of_alGet (by simpa [alGet, hk] using h))

/-- Where no listed directory entry is poisoned, no byte of HBM is. -/
theorem poisoned_hbm {s : State} (h : s.dir.all (fun e => !e.2.poison) = true) {x : Nat} (hx : bankOf x = 0) : s.poisoned x = false := by
  have hl : lineOf x = x / 64 := by rw [lineOf, if_neg (by omega)]
  rw [State.poisoned, if_pos (by simp [inLine, hx]), State.dirEntry, hl]
  cases hd : alGet s.dir (x / 64) with
  | none => rfl
  | some e => simpa using List.all_eq_true.mp h _ (mem_of_alGet hd)

end Sys2Proof.Machine
end

