-- ==== Sys2Proof/Laws/Issue.lean ====
section
/-! SUPPORT. The issue of an instruction: the gate it passes, and everything `issue` can answer. -/
namespace Sys2Proof.Machine

/-- The device has every feature that an encoding can belong to (R162, R223). -/
theorem missing_none (i : Instr) : i.missing = none := by
  have h : ∀ l : List Nat, (∀ f ∈ l, f < 16) → l.find? (fun f => !(Config.deviceMask.testBit f)) = none := by
    intro l hl
    rw [List.find?_eq_none]
    intro f hf
    have hb : ∀ f < 16, Config.deviceMask.testBit f = true := by decide
    simp [hb f (hl f hf)]
  refine h _ ?_
  unfold Instr.features
  (repeat' split) <;> simp

theorem firstGate_go : ∀ l : List Gate, firstGate l = .go ↔ ∀ g ∈ l, g = .go
  | [] => by simp [firstGate]
  | .go :: l => by simp [firstGate, firstGate_go l]
  | .stall :: l => by simp [firstGate]
  | .trap r :: l => by simp [firstGate]

theorem regGate_source (t : Thread) (r : Reg) (bang : Bool) : regGate t r bang false = .go ↔ t.regState r = .full := by
  unfold regGate
  split
  · simp [*]
  · simp [*]
  · next h => simp only [h]; split <;> (try split) <;> simp

theorem regGate_dest (t : Thread) (r : Reg) : regGate t r false true = .go ↔ t.regState r ≠ .owed := by
  unfold regGate
  split
  · simp [*]
  · simp [*]
  · next h => simp only [h]; split <;> simp

theorem operandGate_go (t : Thread) (i : Instr) :
    operandGate t i = .go ↔ (∀ p ∈ i.srcs, t.regState p.1 = .full) ∧ ∀ d, i.dst = some d → t.regState d ≠ .owed := by
  unfold operandGate
  rw [firstGate_go]
  constructor
  · intro h
    refine ⟨fun p hp => (regGate_source t p.1 p.2).mp (h _ (List.mem_append_left _ (List.mem_map.mpr ⟨p, hp, rfl⟩))), fun d hd => ?_⟩
    rw [hd] at h
    exact (regGate_dest t d).mp (h _ (List.mem_append_right _ (List.mem_singleton.mpr rfl)))
  · rintro ⟨h1, h2⟩ g hg
    rcases List.mem_append.mp hg with hg | hg
    · obtain ⟨p, hp, rfl⟩ := List.mem_map.mp hg
      exact (regGate_source ..).mpr (h1 p hp)
    · split at hg
      · next d hd =>
        rw [List.mem_singleton.mp hg]
        exact (regGate_dest ..).mpr (h2 d hd)
      · simp at hg

/-- The gate is open exactly where the thread can issue. -/
theorem gate_go (s : State) (t : Thread) (i : Instr) : gate s t i = .go ↔
    t.blocked s.time = false ∧ (i.supervisorOnly = true → t.super = true) ∧ operandGate t i = .go ∧ formStall t i = false := by
  unfold gate
  rw [missing_none]
  cases hb : t.blocked s.time
  · cases ho : i.supervisorOnly <;> cases hs : t.super <;> simp <;> (cases hg : operandGate t i <;> simp)
  · simp

theorem canIssue_iff (s : State) (t : Thread) (i : Instr) : CanIssue s i t ↔ s.thread s.cur = some t ∧ gate s t i = .go := by
  rw [gate_go, operandGate_go]
  constructor
  · rintro ⟨h1, h2, h3, h4, h5, h6⟩
    exact ⟨h1, h2, h5, ⟨h3, h4⟩, h6⟩
  · rintro ⟨h1, h2, h5, ⟨h3, h4⟩, h6⟩
    exact ⟨h1, h2, h3, h4, h5, h6⟩

/-- An instruction that can issue takes its effect. -/
theorem CanIssue.run {s : State} {t : Thread} {i : Instr} (h : CanIssue s i t) (k : Thread → Host.Outcome State Fault Refusal) :
    issue s i k = k t := by
  obtain ⟨h1, h2⟩ := (canIssue_iff s t i).mp h
  simp [issue, h1, h2]

theorem CanIssue.runLocal {s : State} {t : Thread} {i : Instr} (h : CanIssue s i t) (lat : Nat) (f : Thread → Thread) :
    issueLocal s i lat f = .next (ended s (f t) lat) := h.run _

/-- Everything an issue can answer: the fault with no thread, the instruction's effect, a stall, or a trap. -/
theorem issue_cases (s : State) (i : Instr) (k : Thread → Host.Outcome State Fault Refusal) :
    (s.thread s.cur = none ∧ issue s i k = .fault .noThread) ∨
    ∃ t, s.thread s.cur = some t ∧ ((CanIssue s i t ∧ issue s i k = k t) ∨ issue s i k = s.stalled t ∨
      ∃ r, gate s t i = .trap r ∧ issue s i k = .next (s.trap t r)) := by
  cases ht : s.thread s.cur with
  | none => exact .inl ⟨rfl, by simp [issue, ht]⟩
  | some t =>
    refine .inr ⟨t, rfl, ?_⟩
    cases hg : gate s t i with
    | go =>
      have hc := (canIssue_iff s t i).mpr ⟨ht, hg⟩
      exact .inl ⟨hc, hc.run k⟩
    | stall => exact .inr (.inl (by simp [issue, ht, hg]))
    | trap r => exact .inr (.inr ⟨r, rfl, by simp [issue, ht, hg]⟩)

/-- A thread all of whose registers are full, with no entry in its replay queue, at supervisor level and not blocked, can
issue any instruction. -/
theorem canIssue_plain {s : State} {t : Thread} (h1 : s.thread s.cur = some t) (h2 : t.blocked s.time = false)
    (h3 : t.gs = Vector.replicate 64 .full) (h4 : t.replay = []) (h5 : t.super = true) (i : Instr) : CanIssue s i t where
  cur := h1
  free := h2
  full := fun p _ => by simp [Thread.regState, Thread.zeroMarked, h3, h4]
  dest := fun d _ => by simp [Thread.regState, Thread.zeroMarked, h3, h4]
  level := fun _ => h5
  room := by simp [formStall, Thread.acquiring, h4, Config.replayDepth]

end Sys2Proof.Machine
end

