-- ==== Sys2Proof/Laws/Memory.lean ====
section
/-! SUPPORT. What each shared operation does to memory: the canonical form is kept by every operation that writes memory,
and the bytes outside the written ones read as before. -/
namespace Sys2Proof.Machine

/-! ## Entering writes -/

theorem memory_enterByte {s : State} (F : Frontier) (x : Nat) (v : Byte) (id : Nat) (top : Bool) (l : Option Label)
    (h : memoryCanonical s) : memoryCanonical (enterByte s F x v id top l) := memory_wf_memSet _ _ h

theorem memory_enterCells {s : State} (F : Frontier) (cells : List (Nat × Byte × Byte)) (id : Nat) (top : Bool) (l : Option Label)
    (h : memoryCanonical s) : memoryCanonical (enterCells s F cells id top l) := by
  unfold enterCells
  induction cells generalizing s with
  | nil => exact h
  | cons c cells ih => exact ih (memory_enterByte F _ _ id top l h)

/-- A byte outside the cells of a write reads as before. -/
theorem memGet_enterCells_other {s : State} (F : Frontier) {cells : List (Nat × Byte × Byte)} (id : Nat) (top : Bool)
    (l : Option Label) {x : Nat} (hx : x ∉ cells.map (·.1)) : memGet (enterCells s F cells id top l).mem x = memGet s.mem x := by
  unfold enterCells
  induction cells generalizing s with
  | nil => rfl
  | cons c cells ih =>
    simp only [List.map_cons, List.mem_cons, not_or] at hx
    simp only [List.foldl_cons]
    rw [ih hx.2]
    exact memGet_memSet_other _ _ hx.1

/-- The cells of a write of distinct bytes stand in memory under their masks. -/
theorem memGet_enterCells {s : State} (F : Frontier) {cells : List (Nat × Byte × Byte)} (id : Nat) (top : Bool) (l : Option Label)
    (h : memoryCanonical s) (hd : (cells.map (·.1)).Nodup) {c : Nat × Byte × Byte} (hc : c ∈ cells) :
    memGet (enterCells s F cells id top l).mem c.1 = ((c.2.1 &&& c.2.2) ||| (memGet s.mem c.1 &&& ~~~ c.2.2)) := by
  unfold enterCells
  induction cells generalizing s with
  | nil => simp at hc
  | cons d cells ih =>
    simp only [List.map_cons, List.nodup_cons] at hd
    simp only [List.foldl_cons]
    rcases List.mem_cons.mp hc with rfl | hc
    · have := memGet_enterCells_other (s := enterByte s F c.1 (cellValue s c) id top l) F id top l hd.1
      unfold enterCells at this
      rw [this]
      exact memGet_memSet_self _ _ h
    · rw [ih (memory_enterByte F _ _ id top l h) hd.2 hc]
      have hne : c.1 ≠ d.1 := fun e => hd.1 (List.mem_map.mpr ⟨c, hc, e⟩)
      rw [show memGet (enterByte s F d.1 (cellValue s d) id top l).mem c.1 = memGet s.mem c.1 from memGet_memSet_other _ _ hne]

theorem memory_land {s : State} (a : Agent) (F : Frontier) (cells : List (Nat × Byte × Byte)) (id : Nat) (top : Bool)
    (label : Frontier → Option Label) (counts : Bool) (h : memoryCanonical s) : memoryCanonical (land s a F cells id top label counts).1 := by
  unfold land
  split
  · exact h
  · simp only
    repeat' split
    all_goals first | exact h | exact memory_enterCells _ _ _ _ _ h

theorem memory_devWrite {s : State} (x : Nat) (bs : List Byte) (l : Option Label) (h : memoryCanonical s) :
    memoryCanonical (devWrite s x bs l) := memory_enterCells _ _ _ _ _ h

/-- The device's own writes change no byte outside those written. -/
theorem memGet_devWrite_other (s : State) {x : Nat} {bs : List Byte} (l : Option Label) {y : Nat} (h : y < x ∨ x + bs.length ≤ y) :
    memGet (devWrite s x bs l).mem y = memGet s.mem y := by
  refine memGet_enterCells_other (s := { s with fresh := s.fresh + 1, dev := fWrite s.dev (span x bs.length) s.fresh }) [] _ _ _ ?_
  simp only [List.map_map, List.mem_map, not_exists, not_and]
  rintro ⟨z, b⟩ hz rfl
  obtain ⟨i, hi, rfl⟩ := List.mem_map.mp (List.of_mem_zip hz).1
  simp only [Function.comp_apply, List.mem_range] at *
  omega

theorem memory_initByte {s : State} (x : Nat) (v : Byte) (h : memoryCanonical s) : memoryCanonical (initByte s x v) :=
  memory_wf_memSet _ _ h

theorem memory_zeroRange {s : State} (lo hi : Nat) (h : memoryCanonical s) : memoryCanonical (zeroRange s lo hi) :=
  memory_wf_filter _ h

theorem memGet_zeroRange (s : State) (lo hi x : Nat) :
    memGet (zeroRange s lo hi).mem x = if lo ≤ x ∧ x < hi then 0 else memGet s.mem x := memGet_filter _ _ _ _

theorem memory_freeBanks {s : State} (b n : Nat) (h : memoryCanonical s) : memoryCanonical (s.freeBanks b n) := memory_zeroRange _ _ h

theorem memory_moveBytes {s : State} (lo n dst : Nat) (h : memoryCanonical s) : memoryCanonical (moveBytes s lo n dst) := by
  unfold moveBytes memoryCanonical
  simp only
  generalize s.mem.filter _ = cells
  have h' := memory_zeroRange lo (lo + n) h
  unfold memoryCanonical at h'
  revert h'
  generalize (zeroRange s lo (lo + n)).mem = m
  intro hm
  induction cells generalizing m with
  | nil => exact hm
  | cons c cells ih => exact ih _ (memory_wf_memSet _ _ hm)

/-- A fold of operations that each keep memory canonical keeps it. -/
theorem memory_foldl {α : Type} {f : State → α → State} (hf : ∀ s a, memoryCanonical s → memoryCanonical (f s a)) (l : List α) {s : State}
    (h : memoryCanonical s) : memoryCanonical (l.foldl f s) := by
  induction l generalizing s with
  | nil => exact h
  | cons a l ih => exact ih (hf s a h)

theorem memory_copyByte {s : State} (dst src : Nat) (h : memoryCanonical s) : memoryCanonical (copyByte s dst src) :=
  memory_initByte _ _ h

theorem memory_detach {s : State} (die line : Nat) (h : memoryCanonical s) : memoryCanonical (detach s die line) := by
  unfold detach
  split
  · exact memory_foldl (fun _ _ h => memory_copyByte _ _ h) _ (memory_copyByte _ _ h)
  · exact h

/-! ## Gangs, records and traps -/

@[simp] theorem gangCleanup_mem (s : State) (row num : Nat) : (gangCleanup s row num).mem = s.mem := by
  unfold gangCleanup
  split
  · rfl
  · simp only; split
    · rfl
    · split <;> rfl

theorem mapThread_mem (s : State) (loc : Nat) (f : Thread → Thread) : (s.mapThread loc f).mem = s.mem := by
  unfold State.mapThread; split <;> rfl

/-- A fold of operations that each leave memory leaves it. -/
theorem mem_foldl {α : Type} {f : State → α → State} (hf : ∀ s a, (f s a).mem = s.mem) (l : List α) (s : State) : (l.foldl f s).mem = s.mem := by
  induction l generalizing s with
  | nil => rfl
  | cons a l ih => exact (ih (f s a)).trans (hf s a)

@[simp] theorem breakGang_mem (s : State) (loc : Nat) (t : Thread) : (breakGang s loc t).mem = s.mem := by
  unfold breakGang
  split
  · rfl
  · split
    · rfl
    · split
      · rfl
      · simp only [gangCleanup_mem]
        rw [mem_foldl]
        · rfl
        · intro s m
          split
          · rfl
          · exact mapThread_mem ..

@[simp] theorem leaveGang_mem (s : State) (loc : Nat) (t : Thread) (b : Bool) : (leaveGang s loc t b).mem = s.mem := by
  unfold leaveGang
  split
  · rfl
  · split
    · rfl
    · simp

@[simp] theorem trapRecord_mem (s : State) (part kind cause sub loc num : Nat) (w2 w3 : Word) (agent : Option Nat) (front : Frontier) :
    (trapRecord s part kind cause sub loc num w2 w3 agent front).mem = s.mem := rfl

/-- Holding a thread leaves memory as it is. -/
@[simp] theorem holdThread_mem (s : State) (loc : Nat) (t : Thread) (kind : Nat) (r : TrapReq) : (holdThread s loc t kind r).mem = s.mem := by
  simp [holdThread]

theorem memory_drainEntry {s : State} (loc : Nat) (t : Thread) (e : StoreEntry) (h : memoryCanonical s) :
    memoryCanonical (drainEntry s loc t e).1 := memory_land _ _ _ _ _ _ _ h

theorem watchWrite_mem (s : State) (xs : List Nat) (slice : Option Nat) (loc k p n : Nat) : (watchWrite s xs slice loc k p n).mem = s.mem := by
  unfold watchWrite
  exact mem_foldl (fun s e => by simp only; split <;> rfl) _ _

theorem memory_writeUnits (loc : Nat) (t : Thread) (us : List (List (Nat × Byte × Byte) × Option Nat)) {s : State} (F : Frontier)
    (h : memoryCanonical s) : memoryCanonical (writeUnits s loc t F us).1 := by
  induction us generalizing s F with
  | nil => exact h
  | cons u us ih =>
    unfold writeUnits
    dsimp only
    split
    · exact h
    · refine ih _ ?_
      unfold memoryCanonical
      rw [watchWrite_mem]
      exact memory_land (s := { s with fresh := s.fresh + 1 }) _ _ _ _ _ _ _ h

@[simp] theorem fillTlbs_mem (s : State) (die part asid va n : Nat) : (fillTlbs s die part asid va n).mem = s.mem :=
  cachesOnly_mem (fillTlbs_only ..)

@[simp] theorem touch_mem (s : State) (die asid va : Nat) (xs : List Nat) (as : List Attrs) (write : Bool) :
    (touch s die asid va xs as write).mem = s.mem := cachesOnly_mem (touch_only ..)

@[simp] theorem countFrame_mem (s : State) (loc : Nat) (t : Thread) (us : List (List (Nat × Byte × Byte) × Option Nat)) (s' : State) :
    (countFrame s loc t us s').mem = s'.mem := rfl

theorem memory_trapNow {s : State} (loc : Nat) (t : Thread) (r : TrapReq) (h : memoryCanonical s) : memoryCanonical (trapNow s loc t r) := by
  unfold trapNow
  simp only
  split
  · simpa [memoryCanonical] using h
  · split
    · simpa [memoryCanonical] using h
    · split
      · next p _ =>
        generalize t.sawTags s loc p.1 p.2 = t'
        have hw := memory_writeUnits loc t' (frameWrites loc t' r p) t'.front
          (s := touch (fillTlbs s (dieOf loc) t'.part t'.asid (bits t'.tfp 0 48) 512) (dieOf loc) t'.asid (bits t'.tfp 0 48) p.1 p.2 true)
          (by unfold memoryCanonical; rw [touch_mem, fillTlbs_mem]; exact h)
        split <;> simpa [memoryCanonical] using hw
      · simpa [memoryCanonical] using h

/-- TAKING A TRAP keeps memory canonical. -/
theorem memory_takeTrap {s : State} (loc : Nat) (t : Thread) (r : TrapReq) (h : memoryCanonical s) : memoryCanonical (takeTrap s loc t r) := by
  unfold takeTrap
  split
  · exact h
  · exact memory_trapNow _ _ _ h

/-! ## Reads and atomics -/

/-- What a read move changes: the reader's frontier and the releases it has seen, and for an sc read one sequential
frontier. -/
theorem readMove_cases {s s' : State} {loc : Nat} {t t' : Thread} {xs : List Nat} {picks : List (Nat × Nat)} {order scope : Nat} {top : Bool}
    {bs : List Byte} (h : readMove s loc t xs picks order scope top = some (s', t', bs)) :
    ∃ c F O, chooseRead s (if order = 4 then fMerge s t.front ((alGet s.fsc (fscKey (.thread loc) scope)).getD []) else t.front)
        ((xs.filter (fun x => !(t.forwards x))).map (s.resolve (.thread loc))) picks top = some c ∧
      t' = { t with front := F, obs := O } ∧ s' = { s with fsc := s'.fsc } ∧ (order ≠ 4 → s' = s) ∧
      bs = xs.map (fun x => t.forward x (choiceValue s' c (s'.resolve (.thread loc) x))) := by
  simp only [readMove] at h
  split at h
  · simp at h
  · next c hc =>
    simp only [Option.some.injEq, Prod.mk.injEq] at h
    obtain ⟨h1, h2, h3⟩ := h
    refine ⟨c, _, _, hc, h2.symm, ?_, fun ho => ?_, ?_⟩
    · subst h1; split <;> rfl
    · rw [if_neg ho] at h1; exact h1.symm
    · rw [← h3, ← h1]; split <;> rfl

/-- With no picks a read move is always made. -/
theorem readMove_default (s : State) (loc : Nat) (t : Thread) (xs : List Nat) (order scope : Nat) (top : Bool) :
    (readMove s loc t xs [] order scope top).isSome = true := by simp [readMove, chooseRead]

theorem readMove_mem {s s' : State} {loc : Nat} {t t' : Thread} {xs : List Nat} {picks : List (Nat × Nat)} {order scope : Nat} {top : Bool}
    {bs : List Byte} (h : readMove s loc t xs picks order scope top = some (s', t', bs)) : s'.mem = s.mem := by
  obtain ⟨c, F, O, -, -, hs, -⟩ := readMove_cases h
  rw [hs]

theorem memory_atomicMove {s s' : State} {loc : Nat} {t t' : Thread} {xs : List Nat} {picks : List (Nat × Nat)} {order scope : Nat}
    {new : List Byte → Option (List Byte)} {bs : List Byte} (hm : memoryCanonical s)
    (h : atomicMove s loc t xs picks order scope new = some (s', t', bs)) : memoryCanonical s' := by
  simp only [atomicMove] at h
  split at h
  · simp at h
  · next r hr =>
    have hr' : memoryCanonical r.1 := by
      unfold memoryCanonical
      rw [readMove_mem (s' := r.1) (t' := r.2.1) (bs := r.2.2) hr]
      exact hm
    split at h
    · simp only [Option.some.injEq, Prod.mk.injEq] at h
      exact h.1 ▸ hr'
    · simp only [Option.some.injEq, Prod.mk.injEq] at h
      rw [← h.1]
      have := fun F cells id l => memory_enterCells (s := { r.1 with fresh := r.1.fresh + 1 }) F cells id true l hr'
      split
      · exact this _ _ _ _
      · exact this _ _ _ _

/-- Entering a store's buffers draws identifiers and changes the buffers of its thread, and nothing else. -/
theorem pushGroups_cases (s : State) (t : Thread) (groups : List (Bool × Nat × List (Nat × Byte × Byte))) (rel : Option Nat) (seq nt : Bool) :
    (pushGroups s t groups rel seq nt).1 = { s with fresh := s.fresh + groups.length } ∧
    (pushGroups s t groups rel seq nt).2 =
      { t with sb := (pushGroups s t groups rel seq nt).2.sb, nt := (pushGroups s t groups rel seq nt).2.nt } := by
  unfold pushGroups
  generalize hf : s.fresh = first
  suffices h : ∀ (s : State) (t : Thread),
      (groups.foldl (fun acc g => pushGroup first g.1 g.2.1 rel seq nt acc g.2.2) (s, t)).1 = { s with fresh := s.fresh + groups.length } ∧
      (groups.foldl (fun acc g => pushGroup first g.1 g.2.1 rel seq nt acc g.2.2) (s, t)).2 =
        { t with sb := (groups.foldl (fun acc g => pushGroup first g.1 g.2.1 rel seq nt acc g.2.2) (s, t)).2.sb
                 nt := (groups.foldl (fun acc g => pushGroup first g.1 g.2.1 rel seq nt acc g.2.2) (s, t)).2.nt } from hf ▸ h s t
  clear hf
  induction groups with
  | nil => exact fun s t => ⟨rfl, rfl⟩
  | cons g gs ih =>
    intro s t
    simp only [List.foldl_cons]
    obtain ⟨h1, h2⟩ : (pushGroup first g.1 g.2.1 rel seq nt (s, t) g.2.2).1 = { s with fresh := s.fresh + 1 } ∧
        (pushGroup first g.1 g.2.1 rel seq nt (s, t) g.2.2).2 = { t with sb := (pushGroup first g.1 g.2.1 rel seq nt (s, t) g.2.2).2.sb
                                                                         nt := (pushGroup first g.1 g.2.1 rel seq nt (s, t) g.2.2).2.nt } :=
      ⟨rfl, by cases nt <;> rfl⟩
    obtain ⟨i1, i2⟩ := ih (pushGroup first g.1 g.2.1 rel seq nt (s, t) g.2.2).1 (pushGroup first g.1 g.2.1 rel seq nt (s, t) g.2.2).2
    refine ⟨?_, ?_⟩
    · rw [i1, h1]
      simp only [List.length_cons, State.mk.injEq, true_and, and_true]
      omega
    · rw [i2, h2]

/-! ## Bytes nothing lists -/

/-- A location that no cell lists reads zero. -/
theorem memGet_unlisted {x : Nat} : ∀ {m : List Host.Cell}, (∀ c ∈ m, c.1 ≠ x) → memGet m x = 0
  | [], _ => rfl
  | (k, v) :: l, h => by
    rw [memGet, if_neg (h (k, v) (by simp))]
    exact memGet_unlisted fun c hc => h c (by simp [hc])

theorem ofBytes_zero : ∀ {l : List Byte}, (∀ b ∈ l, b = 0) → ofBytes l = 0
  | [], _ => rfl
  | b :: l, h => by
    rw [ofBytes, h b (by simp), ofBytes_zero fun c hc => h c (by simp [hc])]
    rfl

/-- A number whose bytes no cell lists is zero. -/
theorem peek_unlisted {s : State} {x n : Nat} (h : ∀ c ∈ s.mem, c.1 < x ∨ x + n ≤ c.1) : peek s x n = 0 := by
  unfold peek peekBytes span
  refine ofBytes_zero fun b hb => ?_
  simp only [List.mem_map, List.mem_range] at hb
  obtain ⟨_, ⟨i, hi, rfl⟩, rfl⟩ := hb
  exact memGet_unlisted fun c hc => by have := h c hc; omega

/-- Only the listed part of a tag table holds live ranges (R156). -/
theorem tagRanges_prefix {s : State} {p : Partition} (k : Nat) (hk : k ≤ 4096)
    (h : ∀ c ∈ s.mem, c.1 < p.tagtab + 16 * k ∨ p.tagtab + 65536 ≤ c.1) :
    tagRanges s p = (List.range k).filterMap (fun i =>
      let w := peek s (p.tagtab + 16 * i + 8) 8
      if w % 2 = 1 then some ⟨i, peek s (p.tagtab + 16 * i) 8 % 2 ^ 32, w / 2 % 2 ^ 16, w / 2 ^ 17 % 32, w / 2 ^ 26 % 2 ^ 16⟩ else none) := by
  unfold tagRanges
  obtain ⟨j, hj⟩ := Nat.exists_eq_add_of_le hk
  rw [hj, List.range_add, List.filterMap_append]
  refine List.append_right_eq_self.mpr (List.filterMap_eq_nil_iff.mpr fun i hi => ?_)
  simp only [List.mem_map, List.mem_range] at hi
  obtain ⟨d, hd, rfl⟩ := hi
  rw [peek_unlisted fun c hc => by have := h c hc; omega]
  rfl

end Sys2Proof.Machine
end

