-- ==== Sys2Proof/Tests/Base.lean ====
section
/-! SUPPORT. A small machine for the tests and witnesses: one partition whose address space 0 maps the lowest pages onto
themselves, and one supervisor thread at 0x8000 with a trap vector and a mapped trap frame. -/
namespace Sys2Proof.Tests
set_option Elab.async false
open Sys2Proof Sys2Proof.Machine

/-- Partition 0: cluster 0 of die 0, its tables low in memory. -/
def p0 : Partition where
  num := 0
  desc := ([(0, 1), (2, 0x4000000000000), (10, 0x1000), (11, 0x100000), (12, 0x200000), (13, 0x300000), (14, 16512), (15, 0x0C00000000400000),
    (16, 0x500000), (17, 0x510000), (18, 0x520000), (19, 0x530000), (23, 0x540000)] : List (Fin 32 × Word)).foldl
      (fun v e => v.set e.1.val e.2 e.1.isLt) (Vector.replicate 32 0)
  lastNum := 0xFFFE
  cmdSeq := 0
  lastCluster := 127
  answered := 0
  cellar := []
  serving := none
  busied := none
  rings := []
  snapAt := 0
  snapDone := 0
  outNext := 0
  outbound := []

/-- The thread of context 0, with g1 to g4 holding 5 to 8. -/
def t0 : Thread := Thread.start 0x8000 true 0 0 0 0 #v[5, 6, 7, 8] 0 (alcoveWord 4096) 0x10000 0 16384 none []

/-- The machine, about to execute an instruction of the thread. -/
def w0 : State := { State.reset with
  mem := [(0x1000, 0x01), (0x1001, 0x20), (0x2000, 0x01), (0x2001, 0x30), (0x3000, 0x1F)]
  parts := [p0]
  banks := [16384]
  fresh := 20000
  cores := [(0, { Core.init with tvec := 0x4000 })]
  mon := { State.reset.mon with phase := .running }
  threads := [(0, t0)] }

/-- The machine with another thread in context 0. -/
def withT (t : Thread) : State := { w0 with threads := [(0, t)] }

theorem withT_thread (t : Thread) : (withT t).thread (withT t).cur = some t := by simp [withT, w0, State.reset, State.thread, alGet]
theorem withT_time (t : Thread) : (withT t).time = 0 := by simp [withT, w0, State.reset]

/-- A thread like t0 whose registers are full and whose replay queue is empty can issue any instruction. -/
theorem readyT (t : Thread) (hb : t.blocked 0 = false) (hg : t.gs = Vector.replicate 64 .full) (hr : t.replay = []) (hs : t.super = true) (i : Instr) :
    CanIssue (withT t) i t :=
  canIssue_plain (withT_thread t) (by rw [withT_time]; exact hb) hg hr hs i

/-- Every instruction can issue on the machine w0. -/
theorem ready (i : Instr) : CanIssue w0 i t0 :=
  canIssue_plain (by decide +kernel) (by decide +kernel) (by decide +kernel) (by decide +kernel) (by decide +kernel) i

/-- A computation that must succeed with a value. -/
theorem okOf {ε α : Type} {x : Except ε α} {a : α} (h : x.toOption = some a) : x = .ok a := by
  cases x with
  | ok b => simp [Except.toOption] at h; rw [h]
  | error e => simp [Except.toOption] at h

/-- The thread of context 0 after an outcome. -/
def after (o : Host.Outcome State Fault Refusal) : Option Thread := match o with | .next s => s.thread 0 | _ => none
/-- The state after an outcome. -/
def nextOf (o : Host.Outcome State Fault Refusal) : Option State := match o with | .next s => some s | _ => none

end Sys2Proof.Tests
end

