-- ==== Sys2Proof/Tests/Slice0.lean ====
section
/-! SUPPORT. Tests: one ill-formed term for each check of WellFormed, every encoded constructor's word written out from the
encoding tables, the spec's own worked words and values, and single steps. -/
namespace Sys2Proof.Tests
set_option Elab.async false
open Sys2Proof Sys2Proof.Machine

/-! ## WellFormed refuses -/

/-- Each term has one field value that the syntax excludes. -/
theorem test_wf_refuses : ([
    .sext 1 2 3 false, .zext 1 2 3 false, .cmp 6 1 2 3 false false, .cmpW 7 1 2 3 false false,
    .cmpi 6 1 2 false 0, .bfx 1 2 false 5 59, .bfi 1 2 false 63 1, .fadd 1 2 3 false false 1 5,
    .fsub 1 2 3 false false 1 5, .fmul 1 2 3 false false 1 5, .fdiv 1 2 3 false false 1 5, .fma 1 2 3 false false 1 5,
    .fms 1 2 3 false false 1 5, .fnma 1 2 3 false false 1 5, .fsqrt 1 2 false 1 6, .frcp 1 2 false 1 6,
    .frsq 1 2 false 1 6, .fex2 1 2 false 1 6, .flg2 1 2 false 1 6, .fsin 1 2 false 1 6,
    .fcos 1 2 false 1 6, .fcvt 1 2 1 false 1 5, .fcvti 1 2 1 false 1 5, .ficvt 1 2 1 false 1 5,
    .fcmp 5 1 2 3 false false 1, .padd 1 2 3 false false 3, .psub 1 2 3 false false 3, .pmul 1 2 3 false false 3,
    .pmin 1 2 3 false false 3, .pmax 1 2 3 false false 3, .pfadd 1 2 3 false false 3, .pfmul 1 2 3 false false 3,
    .pfma 1 2 3 false false 3, .ppack 1 2 3 false false 3, .fence 30, .arrive 1 2 3 false false,
    .arrive 0 2 3 false false, .ldb 1 2 3 false 7, .stn 1 2 false 13, .stn 1 2 false 18,
    .qstat 1 5, .mma 1 2 false false 7 false false, .ld 5 1 2 false 0 0, .ldn 5 1 2 false 0 0,
    .ldn 0 1 2 false 3 0, .st 5 1 2 false false 0 0, .ordLd 5 1 2 0 false 0, .ordLd 0 1 2 0 false 12,
    .ordLdn 0 1 2 3 false 0, .ordLdn 0 1 2 0 false 18, .ordSt 0 1 2 0 false 6, .ordSt 5 1 2 0 false 0,
    .amoAdd 5 1 2 true false 0, .amoAdd 0 1 2 true false 30, .amoMin 5 1 2 true false 0, .amoMin 0 1 2 true false 30,
    .amoMax 5 1 2 true false 0, .amoMax 0 1 2 true false 30, .amoMinn 5 1 2 true false 0, .amoMinn 0 1 2 true false 30,
    .amoMaxn 5 1 2 true false 0, .amoMaxn 0 1 2 true false 30, .amoAnd 5 1 2 true false 0, .amoAnd 0 1 2 true false 30,
    .amoOr 5 1 2 true false 0, .amoOr 0 1 2 true false 30, .amoXor 5 1 2 true false 0, .amoXor 0 1 2 true false 30,
    .amoXchg 5 1 2 true false 0, .amoXchg 0 1 2 true false 30, .amoFaddS 5 1 2 false 0, .amoFaddS 0 1 2 false 31,
    .amoFaddBf 5 1 2 false 0, .amoFaddBf 0 1 2 false 31, .cas 5 1 2 true false 0, .cas 0 1 2 true false 30,
    .ldx 5 1 2 3 false false, .stx 7 1 2 3 false false, .waita 0 1 2 3 false false 24, .waitge 0 1 2 3 false false 24] : List Instr).all (fun i => !i.wf) = true := by decide +kernel

/-- At the edge of the same checks the terms are accepted. -/
theorem test_wf_accepts : ([.sext 1 2 2 false, .cmp 5 1 2 3 false false, .bfx 1 2 false 5 58, .bfi 1 2 false 63 0, .fadd 1 2 3 false false 1 7,
    .fcmp 4 1 2 3 false false 1, .padd 1 2 3 false false 2, .ppack 1 2 3 false false 2, .fence 29, .arrive 4 2 3 false false, .ldb 1 2 3 false 6,
    .stn 1 2 false 14, .stn 1 2 false 17, .qstat 1 4, .mma 1 2 false false 6 true true, .ld 4 1 2 false 3 0, .ldn 4 1 2 false 2 0, .ordLd 4 1 2 3 false 29,
    .ordSt 0 1 2 3 false 12, .amoAdd 4 1 2 true false 29, .waita 0 1 2 3 false false 23] : List Instr).all (·.wf) = true := by decide +kernel

/-! ## Decoding -/

/-- Every word of a list decodes to the instruction beside it. -/
def decodesTo (l : List (Code × Instr)) : Bool := l.all (fun e => match decode e.1 with | .ok i => decide (i = e.2) | .error _ => false)

/-- Integer instructions, one word each, its bits grouped by the fields of the encoding tables. -/
theorem test_decode_integer : decodesTo [
    (0b000000_1_010001_100000_101111_1_0_00000#32, .add true 17 32 47 true false),
    (0b000000_1_010001_100000_101111_1_0_00001#32, .sub true 17 32 47 true false),
    (0b000000_1_010001_100000_101111_1_0_00010#32, .mul true 17 32 47 true false),
    (0b000000_1_010001_100000_101111_1_0_00011#32, .mulh true 17 32 47 true false),
    (0b000000_1_010001_100000_101111_1_0_00100#32, .mulhn true 17 32 47 true false),
    (0b000000_1_010001_100000_101111_1_0_00101#32, .div true 17 32 47 true false),
    (0b000000_1_010001_100000_101111_1_0_00110#32, .divn true 17 32 47 true false),
    (0b000000_1_010001_100000_101111_1_0_00111#32, .rem true 17 32 47 true false),
    (0b000000_1_010001_100000_101111_1_0_01000#32, .remn true 17 32 47 true false),
    (0b000000_1_010001_100000_101111_1_0_01001#32, .and true 17 32 47 true false),
    (0b000000_1_010001_100000_101111_1_0_01010#32, .or true 17 32 47 true false),
    (0b000000_1_010001_100000_101111_1_0_01011#32, .xor true 17 32 47 true false),
    (0b000000_1_010001_100000_101111_1_0_01100#32, .andn true 17 32 47 true false),
    (0b000000_1_010001_100000_101111_1_0_01101#32, .orn true 17 32 47 true false),
    (0b000000_1_010001_100000_101111_1_0_01110#32, .shl true 17 32 47 true false),
    (0b000000_1_010001_100000_101111_1_0_01111#32, .shr true 17 32 47 true false),
    (0b000000_1_010001_100000_101111_1_0_10000#32, .sra true 17 32 47 true false),
    (0b000000_1_010001_100000_101111_1_0_10001#32, .rot true 17 32 47 true false),
    (0b000000_1_010001_100000_101111_1_0_10010#32, .min true 17 32 47 true false),
    (0b000000_1_010001_100000_101111_1_0_10011#32, .minn true 17 32 47 true false),
    (0b000000_1_010001_100000_101111_1_0_10100#32, .max true 17 32 47 true false),
    (0b000000_1_010001_100000_101111_1_0_10101#32, .maxn true 17 32 47 true false),
    (0b000000_1_010001_100000_000000_1_010110#32, .clz true 17 32 true),
    (0b000000_1_010001_100000_000000_1_010111#32, .ctz true 17 32 true),
    (0b000000_1_010001_100000_000000_1_011000#32, .popc true 17 32 true),
    (0b000000_1_010001_100000_000000_1_011001#32, .brev true 17 32 true),
    (0b000000_1_010001_100000_000000_1_011010#32, .bswap true 17 32 true),
    (0b0000000_010001_100000_0000_10_1_011011#32, .sext 17 32 2 true),
    (0b0000000_010001_100000_0000_01_1_011100#32, .zext 17 32 1 true)] = true := by decide +kernel

/-- Compare instructions, one word each, its bits grouped by the fields of the encoding tables. -/
theorem test_decode_compare : decodesTo [
    (0b0000010_100_100_010001_100000_1_0_00000#32, .cmp 4 4 17 32 true false),
    (0b0000010_101_100_010001_100000_1_0_00001#32, .cmpW 5 4 17 32 true false),
    (0b0000010000_001_000_000_000_111_0000010#32, .pand 1 0 7),
    (0b0000010000_001_000_000_000_111_0000011#32, .por 1 0 7),
    (0b0000010000_001_000_000_000_111_0000100#32, .pxor 1 0 7),
    (0b0000010000_001_000_000_0000000000101#32, .pnot 1 0),
    (0b0000010000_001_100000_000000_1_000110#32, .movpToPred 1 32 true),
    (0b0000010_010001_000_000_0000000000111#32, .movpToGpr 17 0),
    (0b0000010_010001_100000_101111_1_0_01_110#32, .sel 17 32 47 true false 6)] = true := by decide +kernel

/-- Pointer instructions, one word each, its bits grouped by the fields of the encoding tables. -/
theorem test_decode_pointer : decodesTo [
    (0b0000011_010001_100000_101111_1_0_00000#32, .addp 17 32 47 true false),
    (0b0000011_010001_100000_101111_1_0_00001#32, .setf 17 32 47 true false),
    (0b0000011_010001_100000_000000_1_000010#32, .getf 17 32 true),
    (0b0000011_010001_100000_101111_1_0_00011#32, .settag 17 32 47 true false),
    (0b0000011_010001_100000_000000_1_000100#32, .gettag 17 32 true),
    (0b0000111_010001_100000_1_000000101111#32, .addpImm 17 32 true 47)] = true := by decide +kernel

/-- Immediate instructions, one word each, its bits grouped by the fields of the encoding tables. -/
theorem test_decode_immediate : decodesTo [
    (0b0000100_010001_0000000000000100000#32, .li 17 32),
    (0b0000101_010001_0000000000000100000#32, .lic 17 32),
    (0b0000110_010_100_010001_1_000000100000#32, .cmpi 2 4 17 true 32),
    (0b0001000_010001_100000_1_000000101111#32, .addImm 17 32 true 47),
    (0b0001001_010001_100000_1_000000101111#32, .andImm 17 32 true 47),
    (0b0001010_010001_100000_1_000000101111#32, .orImm 17 32 true 47),
    (0b0001011_010001_100000_1_000000101111#32, .xorImm 17 32 true 47),
    (0b0001100_010001_100000_1_000000_101111#32, .shlImm 17 32 true 47),
    (0b0001101_010001_100000_1_000000_101111#32, .shrImm 17 32 true 47),
    (0b0001110_010001_100000_1_000000_101111#32, .sraImm 17 32 true 47),
    (0b0001111_010001_100000_1_000000_101111#32, .rotImm 17 32 true 47),
    (0b0010000_010001_100000_1_000101_111010#32, .bfx 17 32 true 5 58),
    (0b0010001_010001_100000_1_111111_000000#32, .bfi 17 32 true 63 0)] = true := by decide +kernel

/-- Control instructions, one word each, its bits grouped by the fields of the encoding tables. -/
theorem test_decode_control : decodesTo [
    (0b0011000_100_1_000000000000000010001#32, .bp 4 true 17),
    (0b00110010000_000000000000000010001#32, .call 17),
    (0b0011010000_001_0000000000000100000#32, .pbr 1 32),
    (0b0011011000000000_001_0000000000001#32, .jb 1),
    (0b001101100_1_001_000_000_0000000000010#32, .jbp true 1 0),
    (0b0011011000000000_001_0000000000011#32, .callb 1),
    (0b0011011000_001_100000_000000_1_000101#32, .pbt 1 32 true),
    (0b00110110000000000_00010001_0001000#32, .rejoin 17),
    (0b0011011000000_000000010001_0001001#32, .trap 17),
    (0b0011011000000_000000010001_0001010#32, .ecall 17),
    (0b0011101_010001_01_01_01_0000000000000#32, .rpt 17 1 1 1)] = true := by decide +kernel

/-- Float instructions, one word each, its bits grouped by the fields of the encoding tables. -/
theorem test_decode_float : decodesTo [
    (0b0100000_010001_100000_101111_1_0_01_011#32, .fadd 17 32 47 true false 1 3),
    (0b0100001_010001_100000_101111_1_0_01_011#32, .fsub 17 32 47 true false 1 3),
    (0b0100010_010001_100000_101111_1_0_01_011#32, .fmul 17 32 47 true false 1 3),
    (0b0100011_010001_100000_101111_1_0_01_011#32, .fdiv 17 32 47 true false 1 3),
    (0b0100100_010001_100000_101111_1_0_01_011#32, .fma 17 32 47 true false 1 3),
    (0b0100101_010001_100000_101111_1_0_01_011#32, .fms 17 32 47 true false 1 3),
    (0b0100110_010001_100000_101111_1_0_01_011#32, .fnma 17 32 47 true false 1 3),
    (0b0100111_010001_100000_000000_1_0_01_011#32, .fsqrt 17 32 true 1 3),
    (0b0100111_010001_100000_001000_1_0_01_011#32, .frcp 17 32 true 1 3),
    (0b0100111_010001_100000_010000_1_0_01_011#32, .frsq 17 32 true 1 3),
    (0b0100111_010001_100000_011000_1_0_01_011#32, .fex2 17 32 true 1 3),
    (0b0100111_010001_100000_100000_1_0_01_011#32, .flg2 17 32 true 1 3),
    (0b0100111_010001_100000_101000_1_0_01_011#32, .fsin 17 32 true 1 3),
    (0b0100111_010001_100000_110000_1_0_01_011#32, .fcos 17 32 true 1 3),
    (0b0101000_010001_100000_0000_01_1_0_01_011#32, .fcvt 17 32 1 true 1 3),
    (0b0101000_010001_100000_010_111_1_0_01_011#32, .fcvti 17 32 7 true 1 3),
    (0b0101000_010001_100000_100_111_1_0_01_011#32, .ficvt 17 32 7 true 1 3),
    (0b0101001_010001_100000_101111_1_0_000_01#32, .fmin 17 32 47 true false 1),
    (0b0101001_010001_100000_101111_1_0_001_01#32, .fmax 17 32 47 true false 1),
    (0b0101001_010001_100000_000000_1_0010_01#32, .fneg 17 32 true 1),
    (0b0101001_100_100_010001_100000_1_0_011_01#32, .fcmp 4 4 17 32 true false 1),
    (0b0101001_010001_100000_000000_1_0100_01#32, .fclass 17 32 true 1)] = true := by decide +kernel

/-- Packed instructions, one word each, its bits grouped by the fields of the encoding tables. -/
theorem test_decode_packed : decodesTo [
    (0b0110000_010001_100000_101111_1_0_000_10#32, .padd 17 32 47 true false 2),
    (0b0110000_010001_100000_101111_1_0_001_10#32, .psub 17 32 47 true false 2),
    (0b0110000_010001_100000_101111_1_0_010_10#32, .pmul 17 32 47 true false 2),
    (0b0110000_010001_100000_101111_1_0_011_10#32, .pmin 17 32 47 true false 2),
    (0b0110000_010001_100000_101111_1_0_100_10#32, .pmax 17 32 47 true false 2),
    (0b0110000_010001_100000_101111_1_0_10100#32, .pdot4 17 32 47 true false),
    (0b0110001_010001_100000_101111_1_0_000_10#32, .pfadd 17 32 47 true false 2),
    (0b0110001_010001_100000_101111_1_0_001_10#32, .pfmul 17 32 47 true false 2),
    (0b0110001_010001_100000_101111_1_0_010_10#32, .pfma 17 32 47 true false 2),
    (0b0110010_010001_100000_101111_1_0_0000_1#32, .pshuf 17 32 47 true false true),
    (0b0110010_010001_100000_101111_1_0_001_10#32, .ppack 17 32 47 true false 2),
    (0b0110010_010001_100000_000000_1_0010_10#32, .punpk 17 32 true 2),
    (0b0110010_010001_100000_101111_1_0_011_01#32, .pfcvt 17 32 47 true false 1),
    (0b0110010_010001_100000_101111_1_0_100_01#32, .bxd 17 32 47 true false 1)] = true := by decide +kernel

/-- System instructions, one word each, its bits grouped by the fields of the encoding tables. -/
theorem test_decode_system : decodesTo [
    (0b0111000_010001_0000000_000000100000#32, .mfs 17 32),
    (0b0111001000000_010001_1_000000100000#32, .mts 17 true 32)] = true := by decide +kernel

/-- Sync instructions, one word each, its bits grouped by the fields of the encoding tables. -/
theorem test_decode_sync : decodesTo [
    (0b01110100000000000000_11101_0000000#32, .fence 29),
    (0b01110100000000000000_00011_0000001#32, .qfence 3),
    (0b0111010000000_010001_100000_1_0_00010#32, .cwb 17 32 true false),
    (0b0111010000000_010001_100000_1_0_00011#32, .cinv 17 32 true false),
    (0b0111010000000_010001_100000_1_0_00100#32, .icinv 17 32 true false),
    (0b0111010000_011_010001_100000_1_0_00111#32, .arrive 3 17 32 true false),
    (0b0111010000000_010001_000000_1_001001#32, .barc 17 true),
    (0b0111010_010001_0000000000000001010#32, .muster 17)] = true := by decide +kernel

/-- Memx instructions, one word each, its bits grouped by the fields of the encoding tables. -/
theorem test_decode_memx : decodesTo [
    (0b0111011_010001_100000_00_1111_1_000_101#32, .ldb 17 32 15 true 5),
    (0b0111011_010001_100000_00_1111_1_0010_01#32, .stb 17 32 15 true 1),
    (0b011101100_0001_100000_101111_1_0_01100#32, .mkd 1 32 47 true false),
    (0b011101100_0001_100000_101111_1_0_01101#32, .dnar 1 32 47 true false),
    (0b0111011_010001_100000_000000_1_0_10000#32, .stn 17 32 true 16),
    (0b0111011000000_010001_100000_1_0_10010#32, .stg 17 32 true false),
    (0b0111011_010001_100000_000000_1_010011#32, .ldg 17 32 true),
    (0b0111011_010001_100000_101111_1_0_10100#32, .rtag 17 32 47 true false)] = true := by decide +kernel

/-- Spawn instructions, one word each, its bits grouped by the fields of the encoding tables. -/
theorem test_decode_spawn : decodesTo [
    (0b0111100_010001_00_0000_0000000000000#32, .mfe 17 0),
    (0b011110000_0001_100000_000000_1_000001#32, .mte 1 32 true),
    (0b0111100_010001_100000_101111_1_0_00010#32, .spawn 17 32 47 true false),
    (0b0111100_010001_100000_101111_1_0_00011#32, .spawnCl 17 32 47 true false),
    (0b0111100_010001_100000_101111_1_0_00100#32, .taga 17 32 47 true false),
    (0b0111100000000_010001_100000_1_0_00101#32, .tagf 17 32 true false),
    (0b0111100_010001_000000000_100_0000110#32, .qstat 17 4)] = true := by decide +kernel

/-- Supervisor instructions, one word each, its bits grouped by the fields of the encoding tables. -/
theorem test_decode_supervisor : decodesTo [
    (0b0111101_010001_100000_000000_1_000000#32, .unpark 17 32 true),
    (0b0111101000000_010001_000000_1_000001#32, .kill 17 true),
    (0b0111101000000_010001_100000_1_0_00010#32, .reclaim 17 32 true false),
    (0b0111101000000_010001_100000_1_0_00011#32, .cinvT 17 32 true false),
    (0b0111101_010001_100000_000000_1_000100#32, .lsub 17 32 true),
    (0b0111101_010001_100000_000000_1_000101#32, .lprq 17 32 true),
    (0b0111101_010001_100000_000000_1_000110#32, .stop 17 32 true),
    (0b0111101_010001_100000_000000_1_000111#32, .lres 17 32 true)] = true := by decide +kernel

/-- Engine instructions, one word each, its bits grouped by the fields of the encoding tables. -/
theorem test_decode_engine : decodesTo [
    (0b0111110_010001_100000_1_0_00_0_00000001#32, .cpy 17 32 true false false),
    (0b0111110_010001_100000_1_0_00_0_00000010#32, .qnt 17 32 true false false),
    (0b0111110_010001_100000_1_0_01000001000#32, .gath 17 32 true false),
    (0b0111110_010001_100000_1_0_01000001001#32, .scat 17 32 true false),
    (0b0111110_010001_100000_1_0_01100010000#32, .slsend 17 32 true false),
    (0b0111110_010001_000000_1_010000011000#32, .tclm 17 true),
    (0b0111110_010001_100000_1_0_10000011001#32, .tld 17 32 true false),
    (0b0111110_010001_000000_1_010000011010#32, .trel 17 true),
    (0b0111110_010001_000000_1_010000011011#32, .aclr 17 true),
    (0b0111110_010001_100000_1_0_10000011100#32, .acst 17 32 true false),
    (0b0111110_010001_100000_1_0_10000011101#32, .acld 17 32 true false),
    (0b0111110_010001_100000_1_0_10001_0110_1_1#32, .mma 17 32 true false 6 true true)] = true := by decide +kernel

/-- Access instructions, one word each, its bits grouped by the fields of the encoding tables. -/
theorem test_decode_access : decodesTo [
    (0b1000_100_010001_100000_1_10_0_000101111#32, .ld 4 17 32 true 2 47),
    (0b1000_100_010001_100000_1_01_1_000101111#32, .ldn 4 17 32 true 1 47),
    (0b1001_100_010001_100000_1_0_01_000101111#32, .st 4 17 32 true false 1 47),
    (0b1010_100_010001_100000_0_10_000_1_0_11101#32, .ordLd 4 17 32 2 true 29),
    (0b1010_100_010001_100000_0_10_100_1_0_01010#32, .ordLdn 4 17 32 2 true 10),
    (0b1010_100_010001_100000_1_01_000_1_0_10000#32, .ordSt 4 17 32 1 true 16)] = true := by decide +kernel

/-- Atomic instructions, one word each, its bits grouped by the fields of the encoding tables. -/
theorem test_decode_atomic : decodesTo [
    (0b1011_100_010001_100000_0000_1_0_1_0_01111#32, .amoAdd 4 17 32 true true 15),
    (0b1011_100_010001_100000_0001_1_0_1_0_01111#32, .amoMin 4 17 32 true true 15),
    (0b1011_100_010001_100000_0010_1_0_1_0_01111#32, .amoMax 4 17 32 true true 15),
    (0b1011_100_010001_100000_0011_1_0_1_0_01111#32, .amoMinn 4 17 32 true true 15),
    (0b1011_100_010001_100000_0100_1_0_1_0_01111#32, .amoMaxn 4 17 32 true true 15),
    (0b1011_100_010001_100000_0101_1_0_1_0_01111#32, .amoAnd 4 17 32 true true 15),
    (0b1011_100_010001_100000_0110_1_0_1_0_01111#32, .amoOr 4 17 32 true true 15),
    (0b1011_100_010001_100000_0111_1_0_1_0_01111#32, .amoXor 4 17 32 true true 15),
    (0b1011_100_010001_100000_1000_1_0_1_0_01111#32, .amoXchg 4 17 32 true true 15),
    (0b1011_100_010001_100000_100100_1_0_01111#32, .amoFaddS 4 17 32 true 15),
    (0b1011_100_010001_100000_101000_1_0_01111#32, .amoFaddBf 4 17 32 true 15),
    (0b1011_100_10001_0_100000_1011_1_0_1_0_01111#32, .cas 4 17 32 true true 15)] = true := by decide +kernel

/-- Typed instructions, one word each, its bits grouped by the fields of the encoding tables. -/
theorem test_decode_typed : decodesTo [
    (0b1100_100_010001_100000_101111_1_0_00000#32, .ldx 4 17 32 47 true false),
    (0b1101_100_010001_100000_101111_1_0_00000#32, .stx 4 17 32 47 true false),
    (0b1110_001_100000_101111_111110_1_0_01110#32, .waita 1 32 47 62 true false 14),
    (0b1111_001_100000_101111_111110_1_0_10111#32, .waitge 1 32 47 62 true false 23)] = true := by decide +kernel

/-- Bare instructions, one word each, its bits grouped by the fields of the encoding tables. -/
theorem test_decode_bare : decodesTo [
    (0b00110110000000000000000000000000#32, .nop),
    (0b00110110000000000000000000000100#32, .ret),
    (0b00110110000000000000000000000110#32, .quit),
    (0b00110110000000000000000000000111#32, .yield),
    (0b00110110000000000000000000001011#32, .tret),
    (0b01110100000000000000000000000101#32, .ifence),
    (0b01110100000000000000000000000110#32, .drain),
    (0b01110100000000000000000000001000#32, .bar),
    (0b01110100000000000000000000001011#32, .disband)] = true := by decide +kernel

/-- Words that the spec itself prints. -/
theorem test_decode_printed : decodesTo [
    (0x00288480, .add false 5 4 9 false false), (0xB028810A, .amoAdd 0 5 4 true false 10), (0x3A128000, .rpt 2 1 1 0),
    (0x08200002, .li 4 2), (0x0A200000, .lic 4 0), (0x0C90A00A, .cmpi 2 2 5 false 10), (0x36000808, .rejoin 16), (0x3600000B, .tret),
    (0x5030A098, .fcvt 6 5 1 false 3 0), (0x5030A901, .fcvti 6 5 2 false 0 1), (0x5030B380, .ficvt 6 5 7 false 0 0), (0x5290A30D, .fcmp 2 2 5 6 false false 1),
    (0x60308281, .padd 6 4 5 false false 1), (0x60308294, .pdot4 6 4 5 false false), (0x6230828A, .pfma 6 4 5 false false 2),
    (0x64288490, .bxd 5 4 9 false false 0), (0x84288802, .ld 2 5 4 false 2 2), (0x802883FF, .ldn 0 5 4 false 0 511), (0x96308402, .st 3 6 4 false false 2 2),
    (0xA0288C0A, .ordLd 0 5 4 3 false 10), (0xA6309C10, .ordSt 3 6 4 3 false 16), (0x7630E182, .ldb 6 7 3 false 2), (0x74000006, .drain),
    (0xB0309716, .cas 0 3 4 true false 22), (0x74000E00, .fence 28), (0x74000780, .fence 15), (0x74000481, .qfence 9), (0x7428000A, .muster 5),
    (0x70280020, .mfs 5 32), (0x72008006, .mts 4 false 6), (0x7A008001, .kill 4 false), (0x7A008302, .reclaim 4 6 false false), (0x7A288006, .stop 5 4 false),
    (0x7A288007, .lres 5 4 false), (0x7C28C101, .cpy 5 6 false false true), (0x7C28C002, .qnt 5 6 false false false), (0x7C28C310, .slsend 5 6 false false),
    (0x7C280418, .tclm 5 false), (0x7C28C448, .mma 5 6 false false 2 false false), (0x7C28C449, .mma 5 6 false false 2 false true),
    (0x7828C384, .taga 5 6 7 false false), (0x78280206, .qstat 5 4), (0x741BC887, .arrive 3 30 17 false false), (0x78610001, .mte 12 8 false),
    (0xF123D18E, .waitge 0 36 30 35 false false 14), (0x7A043503, .cinvT 33 42 false false), (0x7B5BE000, .unpark 43 31 false)] = true := by decide +kernel

/-- The same words come out of the encoder. -/
theorem test_encode_printed : ([(0x00288480, .add false 5 4 9 false false), (0x0C90A00A, .cmpi 2 2 5 false 10), (0x5290A30D, .fcmp 2 2 5 6 false false 1),
    (0x84288802, .ld 2 5 4 false 2 2), (0xB0309716, .cas 0 3 4 true false 22), (0x7C28C310, .slsend 5 6 false false)] : List (Code × Instr)).all
    (fun e => encode e.2 == some e.1) = true := by decide +kernel

/-- Words that are no instructions: an unassigned opcode, a reserved field, a queue code above 4, a queue that does not serve
its command. -/
theorem test_decode_rejects : (decode 0x38000000#32).toOption = none ∧ (decode 0x74000001#32).toOption = some (.qfence 0) ∧
    (decode 0x36000800#32).toOption = none ∧ (decode 0x7C28C501#32).toOption = none ∧ (decode 0x7C28C301#32).toOption = none := by decide +kernel

end Sys2Proof.Tests
end

