-- ==== Sys2Proof/Tests/Witness.lean ====
section
/-! SUPPORT. Witnesses: for every statement that has hypotheses, concrete states and operands that meet them together, one
for each clause, at the edges of ranges. `ready` (of any instruction) and `readyT` of Tests/Base show the hypothesis that
an instruction can issue, which statements of the form RunsTo and Answers have. -/
namespace Sys2Proof.Tests
set_option Elab.async false
open Sys2Proof Sys2Proof.Machine

/-! ## The machine as a whole -/

/-- The word of an instruction. -/
def wordOf (i : Instr) : Code := (encode i).getD 0
/-- w0 with the current cohort being context 0 and a word in HBM at its pc. -/
def wCode (w : Code) : State :=
  { w0 with issue := [0], mem := ([0, 1, 2, 3].foldl (fun m k => memSet m (0x8000 + k) (BitVec.ofNat 8 (w.toNat / 256 ^ k))) w0.mem) }

/-- StepRunsDecoded: a blocked head; a word that decodes; a word that does not; a fetch that fails. -/
theorem wit_stepRunsDecoded :
    (w0.thread 0 = some t0 ∧ ({ t0 with issueAt := 5 } : Thread).blocked w0.time = true ∧ t0.blocked w0.time = false) ∧
    ((match (nextCode { wCode 0x36000000 with issue := [] } 0 t0).2 with | .ok w => (decode w).toOption | .error _ => none) = some .nop) ∧
    ((match (nextCode { wCode 0x38000000 with issue := [] } 0 t0).2 with
      | .ok w => (match decode w with | .error .opcode => true | _ => false) | .error _ => false) = true) ∧
    ((match (nextCode w0 0 { t0 with pc := 0x40000000 }).2 with | .error r => r.cause | .ok _ => 0) = 8) := by decide +kernel

/-- A step of w0 with a `nop` at its pc moves the thread past it. -/
theorem test_step_nop : (after (step (wCode 0x36000000))).map (·.pc) = some 0x8004 := by decide +kernel

/-- StepMakesMove: a move, a term that is no move, no tape. -/
theorem wit_stepMakesMove : w0.issue = [] ∧ Instr.isMove .deviceClockTick = true ∧ Instr.isMove .nop = false ∧ w0.moves = [] := by decide +kernel

/-- A line of the instruction cache at the thread's pc, executable or not. -/
def l1iAt (x : Bool) : L1ILine := ⟨0, 0x8000 / 64, 0, 0x8000, ⟨false, true, false, false, x, false, true⟩, Vector.replicate 16 0x36000000⟩
/-- FetchReadsCode: a line that permits the fetch and one that does not; no page; a page with no execute right, a poisoned
line, and a fetch that succeeds. -/
theorem wit_fetchReadsCode :
    (l1iFind { w0 with l1i := [l1iAt true] } 0 0 0x8000).map (fun l => permits l.attrs true .fetch) = some true ∧
    (l1iFind { w0 with l1i := [l1iAt false] } 0 0 0x8000).map (fun l => permits l.attrs true .fetch) = some false ∧
    l1iFind w0 0 0 0x8000 = none ∧
    (match xlate w0 0 0 0 0x40000000 with | .absent => true | _ => false) = true ∧
    (match xlate w0 0 0 0 0x8000 with | .page pa at' => permits at' true .fetch && p0.hasBytes pa 4 && !(w0.poisoned pa) | _ => false) = true ∧
    (match xlate { w0 with mem := memSet w0.mem 0x3000 0x0F } 0 0 0 0x8000 with | .page pa at' => !(permits at' true .fetch) && p0.hasBytes pa 4 | _ => false) = true ∧
    ({ w0 with dir := [(0x200, ⟨0, 0, 0, true, false⟩)] } : State).poisoned 0x8000 = true := by decide +kernel
/-- FetchReadsCode: a bad table, a poisoned one, a frame outside the partition's ranges, and a line once it has come, poisoned or not. -/
theorem wit_fetchWalks :
    (match xlate { w0 with mem := memSet w0.mem 0x1006 1 } 0 0 0 0x8000 with | .bad _ => true | _ => false) = true ∧
    (match xlate { w0 with dir := [(0x40, ⟨0, 0, 0, true, false⟩)] } 0 0 0 0x8000 with | .poisoned => true | _ => false) = true ∧
    p0.hasBytes 0x8000 4 = true ∧ p0.hasBytes (2 ^ 40) 4 = false ∧
    ([false, true].all (fun b =>
      let s : State := { w0 with dir := [(0x200, ⟨0, 0, 0, b, false⟩)] }
      (touch ((fillTlb s 0 0 0 0x8000).count 0 10 1) 0 0 0x8000 [0x8000] [⟨false, false, false, false, true, true, true⟩] false).poisoned 0x8000 == b)) = true := by
  decide +kernel

/-- StepKeepsMemoryCanonical, and the statements with a canonical memory: w0 has one and steps. -/
theorem wit_memoryCanonical : memoryCanonical w0 ∧ memoryCanonical State.reset ∧ (nextOf (step (wCode 0x36000000))).isSome = true := by
  refine ⟨?_, ?_, by decide +kernel⟩ <;> (unfold memoryCanonical; decide +kernel)

/-- DecodeEncode and EncodeDecode: well-formed terms have words; a load of width 3 has a bit that is not looked at. -/
theorem wit_encode : Instr.wf (.ld 0 1 2 false 3 5) = true ∧ (encode (.ld 0 1 2 false 3 5)).isSome = true ∧
    (decode ((encode (.ld 0 1 2 false 3 5)).getD 0 ||| 512#32)).toOption = some (.ld 0 1 2 false 3 5) ∧ encode .deviceClockTick = none := by decide +kernel

/-! ## Integer instructions -/

/-- IntegerArithmetic, IntegerDivision, IntegerLogic, IntegerBits, ComparesAndPredicates, Pointers, ComputeFrame: their
instructions can issue. -/
theorem wit_integer : ∀ i ∈ ([.add true 5 1 2 false false, .div true 5 1 2 false false, .shl false 5 1 2 false false, .clz true 5 1 false,
    .bfi 5 1 false 63 0, .cmp 5 1 1 2 false false, .sel 5 1 2 false false 0, .addp 5 1 2 false false, .rtag 5 1 2 false false] : List Instr), CanIssue w0 i t0 :=
  fun i _ => ready i

/-- IntegerBits: fields at the edges of their range, and one past it. -/
theorem wit_integerBits : (63#6).toNat + (0#6).toNat + 1 ≤ 64 ∧ (0#6).toNat + (63#6).toNat + 1 ≤ 64 ∧ 64 < (1#6).toNat + (63#6).toNat + 1 := by decide

/-- Pointers: a step to the last and the first address, one past either end; a mask that leaves a tag and one that leaves none. -/
theorem wit_pointers :
    let v := fun (P y : Word) => ((P.toNat % 2 ^ 48 : Nat) : Int) + y.toInt
    (v 0xFFFFFFFFFFFE 1 = 2 ^ 48 - 1 ∧ v 0xFFFFFFFFFFFF 1 = 2 ^ 48 ∧ v 1 (-1) = 0 ∧ v 0 (-1) = -1) ∧
    (∃ k < 16, bit (0x7FFF : Word) k = false) ∧ (∀ k < 16, bit (0xFFFF : Word) k = true) := by decide +kernel

/-- The values that R227, R233 print. -/
theorem test_integer_values :
    let t := (t0.setG 10 (-1)).setG 11 2
    let u := ((t0.setG 10 0x80000010).setG 11 4).setG 12 (-7)
    (after (exec (.mulh false 5 10 11 false false) (withT t))).map (·.gpr 5) = some (-1) ∧
    (after (exec (.mulhn false 5 10 11 false false) (withT t))).map (·.gpr 5) = some 1 ∧
    (after (exec (.sra true 5 10 11 false false) (withT u))).map (·.gpr 5) = some 0xFFFFFFFFF8000001 ∧
    (after (exec (.rem false 5 12 11 false false) (withT (u.setG 11 2)))).map (·.gpr 5) = some (-1) ∧
    (after (exec (.rem false 5 3 0 false false) w0)).map (·.gpr 5) = some 7 ∧
    (after (exec (.addpImm 5 10 false 0x40) (withT (t.setG 10 0x026E000000100000)))).map (·.gpr 5) = some 0x026E000000100040 := by decide +kernel

/-! ## Control -/

/-- A thread with a valid branch target. -/
def tJump : Thread := { t0 with b := t0.b.set 1 0x8000000000000100 }
/-- Branches: taken and not, into the space's first and last words and out of it on either side; valid and invalid targets;
aligned, misaligned and non-canonical registers. -/
theorem wit_branches :
    let V := fun (pc : Nat) (o : BitVec 21) => (pc : Int) + o.toInt * 4
    t0.pred 0 ≠ false ∧ t0.pred 0 = true ∧ t0.pred 1 = false ∧ V 0x8000 (-0x2000) = 0 ∧ V 0x8000 (-0x2001) < 0 ∧ V 0xFFFFFFFFFFF8 1 < 2 ^ 48 ∧
    (2 ^ 48 : Int) ≤ V 0xFFFFFFFFFFF8 2 ∧ bit (0x8000000000000100 : Word) 63 = true ∧ bit (0x100 : Word) 63 = false ∧ t0.pc.toNat % 4 = 0 ∧
    bit tJump.b[1] 63 = true := by decide +kernel
theorem wit_branchIssue (i : Instr) : CanIssue (withT tJump) i tJump := readyT _ (by decide +kernel) (by decide +kernel) rfl (by decide +kernel) i

/-- A thread whose stack has no room, and threads with a return address at csp in the alcove's bank. -/
def tFull : Thread := { t0 with alcove := setBits (alcoveWord 4096) 0 16 4 }
def tRet : Thread := { t0 with alcove := setBits (alcoveWord 4096) 0 16 4088 }
def wRet (ra : Nat) : State :=
  { withT tRet with mem := (toBytes 8 ra).zipIdx.foldl (fun m e => memSet m (dynBase 16384 + 4088 + e.2) e.1) w0.mem }
/-- The address that `ret` reads there. -/
def retRead (ra : Nat) : Option Nat :=
  (issueRead (wRet ra) 0 tRet (tRet.slotBytes tRet.csp)).map (fun r => ofBytes r.2.2 % 2 ^ 64)
/-- CallsAndReturns: room and none; an empty stack; return addresses that are code, that are misaligned, that leave the
space; nothing on the way poisoned. -/
theorem wit_callsAndReturns :
    t0.stackFloor + 8 ≤ t0.csp ∧ ¬ (tFull.stackFloor + 8 ≤ tFull.csp) ∧ (∀ e ∈ t0.nt, e.id < w0.fresh) ∧ t0.csp = t0.alcSize ∧ tRet.csp ≠ tRet.alcSize ∧
    (∀ x ∈ tRet.slotBytes tRet.csp, (wRet 0x4000C).poisoned ((wRet 0x4000C).resolve (.thread 0) x) = false) ∧
    readsEarly (wRet 0x4000C) 0 tRet (tRet.slotBytes tRet.csp) = false ∧ retRead 0x4000C = some 0x4000C ∧ retRead 0x4000E = some 0x4000E ∧ retRead 0x1000000000000 = some (2 ^ 48) := by decide +kernel
theorem wit_returnsIssue : (∀ i, CanIssue (withT tRet) i tRet) ∧ ∀ i, CanIssue (withT tFull) i tFull :=
  ⟨readyT tRet (by decide +kernel) (by decide +kernel) rfl (by decide +kernel), readyT tFull (by decide +kernel) (by decide +kernel) rfl (by decide +kernel)⟩
/-- The return address goes to the stack's top (R240), and `ret` comes back. -/
theorem test_call_ret : (after (exec (.call 0x10) w0)).map (fun t => (t.pc, t.csp)) = some (0x8040, 4088) ∧
    (after (exec .ret (wRet 0x4000C))).map (fun t => (t.pc, t.csp)) = some (0x4000C, 4096) := by decide +kernel

/-- PausesAndTraps: a pending request of the thread's launch and none; a thread in a gang and one in none. -/
def launch0 : Launch := ⟨0, 7, 0, 0, 0x8000, 0, 1, 1, 1, 1, 4096, 0, 0, 100, [], (0, 0, 0), 0, 0, 0, 0x30000, [], [], [], 0, true, false, false, [], 0, []⟩
def tLaunch : Thread := { t0 with launch := wd (7 * 2 ^ 48), grp := some 3 }
theorem wit_pauses : requestPending w0 t0 = false ∧ requestPending { withT tLaunch with launches := [{ launch0 with request := true }] } tLaunch = true ∧ t0.gang = none ∧
    (∃ g, ({ t0 with gang := some 2 } : Thread).gang = some g) := ⟨by decide +kernel, by decide +kernel, rfl, 2, rfl⟩

/-- Repeats: a body that may be repeated and one that may not, with repetitions left and with none. -/
theorem wit_repeats :
    ((match (fetchCode { wCode 0 with mem := memSet (memSet (wCode 0).mem 0x8004 0x80) 0x8005 0x84 } 0 t0 0x8004).2 with
      | .ok w => some w | .error _ => none) = some 0x8480) ∧
    bodyOk (wordOf (.add false 5 4 9 false false)) 3 1 1 0 = true ∧ bodyOk (wordOf .quit) 3 0 0 0 = false ∧
    (bits (wordOf .quit) 25 7 = 0x1B ∧ (decode (wordOf .bar)).toOption = some .bar ∧ rrWord 1 61 0 9 false false 0 = wordOf (.add true 61 0 9 false false) ∧
      bodyOk (rrWord 1 61 0 9 false false 0) 3 1 1 0 = true ∧ bodyOk (rrWord 1 61 0 9 false false 0) 4 1 1 0 = false) ∧ bits t0.pix 0 16 < (2#6).toNat + 1 ∧
    (2#6).toNat + 1 ≤ bits ({ t0 with pix := 3 } : Thread).pix 0 16 := by decide +kernel

/-! ## Traps -/

/-- A user-level thread. -/
def tUser : Thread := { t0 with status := 0 }
/-- A pending entry for g7 and a done one for g9, and the thread that holds them. -/
def e0 : ReplayEntry := ⟨100, 0x80380000#32, 0x8000, 0x20000, 0, 0, 7, .pending, 0, .waiting, none, 0, 0, false, 0, [], [], none⟩
def e1 : ReplayEntry := { e0 with id := 101, state := .done, value := 0x1234, dst := 9 }
def tOwed : Thread := { (t0.setOwed 7).setOwed 9 with replay := [e0, e1], pix := 0x50003 }
def trap0 : TrapReq := ⟨1, 2, 33, 44⟩

/-- IssueTraps: a supervisor-only instruction at user level; sources that are empty-unowed, owed to a marked entry, and owed
with and without the trap bit. -/
theorem wit_issueTraps :
    w0.thread w0.cur = some t0 ∧ t0.blocked w0.time = false ∧ Instr.supervisorOnly .tret = true ∧ tUser.super = false ∧ tUser.blocked w0.time = false ∧
    Instr.srcs (.add false 5 7 2 true false) = [(7, true), (2, false)] ∧ ({ t0 with gs := t0.gs.set 7 .unowed } : Thread).regState 7 = .unowed ∧
    tOwed.regState 7 = .owed ∧ tOwed.ower 7 = some e0 ∧ e0.mark = none ∧
    ({ tOwed with replay := [{ e0 with mark := some trap0 }] } : Thread).ower 7 = some { e0 with mark := some trap0 } ∧
    (Instr.srcs (.add false 5 2 7 false false) = [(2, false)] ++ (7, false) :: [] ∧ tOwed.regState 2 = .full) ∧
    (Instr.dst (.add false 7 2 3 false false) = some 7 ∧ ∀ p ∈ Instr.srcs (.add false 7 2 3 false false), tOwed.regState p.1 = .full) := by decide +kernel

/-- The attributes of every byte of a run are the same. -/
theorem attrAt_replicate_c (n : Nat) (a : Attrs) (k : Nat) (h : a.c = false) : (attrAt (List.replicate n a) k).c = false := by
  rw [attrAt, List.getD_eq_getElem?_getD, List.getElem?_replicate]
  split
  · exact h
  · rfl

/-- TrapEntersHandler and TrapStoresFrame: a handler is reachable from w0, with entries in the replay queue as well. -/
theorem wit_handlerReachable : HandlerReachable w0 0 tOwed 0x10000 := by
  have h : ∀ a b c d : Bool, (a && b && c && d) = true → a = true ∧ b = true ∧ c = true ∧ d = true := by decide
  obtain ⟨h1, h2, h3, h4⟩ := h (!tOwed.inTrap && !trapWaits w0 0 tOwed) (decide ((w0.core 0).tvec ≠ 0)) (decide (bits tOwed.tfp 60 4 = 0 ∧ bits tOwed.tfp 0 48 % 512 = 0))
    w0.detached.isEmpty (by decide +kernel)
  simp only [Bool.and_eq_true, Bool.not_eq_true', decide_eq_true_eq, List.isEmpty_iff] at h1 h2 h3 h4
  refine ⟨h1.1, h2, h1.2, h3.1, h3.2, ⟨List.replicate 512 ⟨false, false, false, false, true, true, true⟩, ?_, fun k hk => ⟨?_, fun hc => ?_⟩⟩, by decide,
    fun e he => by rw [h4] at he; cases he⟩
  · have h5 : (match checkGlobal w0 (dieOf 0) tOwed.part tOwed.asid true .store (some 0) (bits tOwed.tfp 0 48) 512 (tOwed.view w0 0) with
      | .ok xs as => decide (xs = span 0x10000 512 ∧ as = List.replicate 512 ⟨false, false, false, false, true, true, true⟩) | _ => false) = true := by decide +kernel
    split at h5
    · rename_i heq; simp only [decide_eq_true_eq] at h5; rw [heq, h5.1, h5.2]
    · simp at h5
  rotate_left
  · rw [attrAt_replicate_c _ _ _ rfl] at hc; exact absurd hc (by decide)
  refine poisoned_hbm (by decide +kernel) ?_
  unfold bankOf bankSize
  omega

/-- FrameHolds and ResumeRestores: the entries of tOwed. -/
theorem wit_frame : tOwed.replay.length ≤ 8 ∧ (0 : Nat) < 2 ^ 17 ∧ trap0.cause < 256 ∧ trap0.sub < 256 ∧ tOwed.pc.toNat % 4 = 0 ∧ t0.replay = [] ∧
    (∀ e ∈ tOwed.replay, e.dst ≠ 0 ∧ (match decode e.word with | .ok i => !i.isSpawn | .error _ => true) = true) ∧ (tOwed.replay.map (·.dst)).Nodup ∧
    e1.state = .done ∧ e0.state ≠ .done := by decide +kernel

/-- A message about the line of the tables' first word, at its home. -/
def wWalks : State := { w0 with homeTx := [⟨0x40, 1, .read, true, 0, []⟩] }
/-- TrapHolds: in a trap already; no vector; a frame pointer with a tag, and an unmapped one; an atomic in transit, a walk that waits, and
the entry of a trap that waited. -/
theorem wit_trapHolds :
    t0.gang = none ∧ ({ t0 with status := 5 } : Thread).inTrap = true ∧ t0.inTrap = false ∧ (State.reset.core 0).tvec = 0 ∧ (w0.core 0).tvec ≠ 0 ∧
    t0.replay.any (·.inTransit) = false ∧ bits (0x1000000000000000 : Word) 60 4 ≠ 0 ∧
    (match checkGlobal w0 0 0 0 true .store (some 0) 0x40000000 512 with | .absent _ => true | _ => false) = true ∧
    walkWaits wWalks 0 0 0 (bits t0.tfp 0 48) 512 = true ∧ trapWaits wWalks 0 t0 = true ∧
    trapWaits w0 0 { t0 with tfp := 0x1000000000010000 } = false ∧ trapWaits w0 0 { t0 with tfp := 0xFFFFFFFFFFC0 } = false ∧
    2 ^ 48 < bits (0xFFFFFFFFFFC0 : Word) 0 48 + 512 ∧ trapWaits w0 0 t0 = false ∧ trapWaits w0 0 { t0 with replay := [{ e0 with word := wordOf (.amoAdd 0 7 2 true false 0) }] } = true ∧
    (let s : State := { w0 with dir := [(0x400, ⟨0, 0, 0, true, false⟩)] }
     trapWaits s 0 t0 = false ∧ (match checkGlobal s 0 0 0 true .store (some 0) 0x10000 512 (t0.view s 0) with
       | .ok xs _ => xs.any (fun x => s.poisoned (s.resolve (.thread 0) x)) | _ => false) = true) ∧
    (({ t0 with replay := [{ e0 with word := wordOf (.amoAdd 0 7 2 true false 0) }] } : Thread).replay.any (·.inTransit) = true) ∧
    ((withT { t0 with trapReq := some trap0 }).thread 0).bind (·.trapReq) = some trap0 := by decide +kernel

/-- TrapHolds: a member of a gang that is whole, another member standing in a gang instruction. -/
def gangHeld : Gang := ⟨0, 3, 0, 0, [0, 128, 256, 384], [], none, none⟩
theorem wit_trapBreaks : (let u := { t0 with gang := some 3, gangCmd := some ⟨0, 0, 0, [], 0⟩ }
    let s := { w0 with gangs := [gangHeld], threads := [(0, { t0 with gang := some 3 }), (128, u)] }
    s.gangOf (rowOf 0) 3 = some gangHeld ∧ gangHeld.broken = none ∧ gangHeld.left.length < 4 ∧ 128 ∈ gangHeld.members ∧ s.thread 128 = some u ∧
    u.gangCmd.isSome = true) := by decide +kernel

/-- What `tret` meets: its frame's saved privilege and count, and whether its entries pass. -/
def frameMet (s : State) : Except TrapReq (Option (Nat × Nat × Bool)) :=
  match checkGlobal s 0 0 0 true .load (some 0) 0x10000 512 (t0.view s 0) with
  | .ok xs at' => (readFrame s 0 t0 0x10000 xs at' (span 0 16 ++ span 56 8 ++ span 72 8) (List.replicate 512 0)).map (fun o => o.map (fun h =>
      let n := bits (frameWord h.2.2 72) 0 4
      (bits (frameWord h.2.2 8) 0 2, n, match readFrame h.1 0 h.2.1 0x10000 xs at' (span 128 (48 * n)) h.2.2 with
        | .ok (some r) => (frameFault r.2.2).isNone | _ => false)))
  | _ => .ok none
def metOf (s : State) : Option (Nat × Nat × Bool) := (frameMet s).toOption.bind id
def frameIn (l : List (Nat × Byte)) : State := { w0 with mem := l.foldl (fun m e => memSet m e.1 e.2) w0.mem }
/-- TrapReturn: a frame that passes; privilege 2; nine entries; an entry of zeros; a poisoned line, of the head and of an entry; a line
with a request at its home. -/
theorem wit_trapReads :
    metOf w0 = some (0, 0, true) ∧ metOf (frameIn [(0x10008, 2)]) = some (2, 0, false) ∧ (metOf (frameIn [(0x10048, 9)])).map (·.2.1) = some 9 ∧
    metOf (frameIn [(0x10048, 1)]) = some (0, 1, false) := by decide +kernel
theorem wit_trapReadFails :
    (match frameMet { w0 with dir := [(0x400, ⟨0, 0, 0, true, false⟩)] } with | .error r => r.cause | .ok _ => 0) = 11 ∧
    metOf { frameIn [(0x10048, 1)] with dir := [(0x402, ⟨0, 0, 0, true, false⟩)] } = some (0, 1, false) ∧
    (match frameMet { w0 with homeTx := [⟨0x400, 1, .read, true, 0, []⟩] } with | .ok none => true | _ => false) = true := by decide +kernel

/-- TrapReturn: a frame of zeros is good, one with count 9 is not; both are readable; the walk of its page waits, and does not. -/
theorem wit_trapReturn : walkWaits w0 0 0 0 0x10000 512 = false ∧ walkWaits wWalks 0 0 0 0x10000 512 = true ∧ t0.replay = [] ∧ bits t0.tfp 60 4 = 0 ∧ bits t0.tfp 0 48 + 512 ≤ 2 ^ 48 ∧
    (match checkGlobal w0 0 0 0 true .load (some 0) 0x10000 512 with
      | .ok xs _ => xs.all (fun x => !(w0.poisoned x)) | _ => false) = true ∧ (∀ xs, (readMove w0 0 t0 xs [] 0 0).isSome = true) ∧
    frameFault (List.replicate 512 0) = none ∧ (frameFault (List.replicate 72 0 ++ 9 :: List.replicate 439 0)).isSome = true :=
  ⟨by decide +kernel, by decide +kernel, rfl, by decide +kernel, by decide +kernel, by decide +kernel, fun _ => readMove_default .., by decide +kernel, by decide +kernel⟩

/-- A software trap with no vector holds its thread, and one on the way waits for an atomic in transit (R82, R85, R249). -/
theorem test_ecall : (after (exec (.ecall 77) { w0 with cores := [] })).map (fun t => (t.pc, t.held)) = some (0x8000, some 3) ∧
    (after (exec (.ecall 77) (withT { t0 with replay := [{ e0 with word := wordOf (.amoAdd 0 7 2 true false 0) }] }))).map (·.trapReq) =
      some (some ⟨13, 1, 77, 0⟩) := by decide +kernel

end Sys2Proof.Tests
end

