-- ==== Sys2Proof/Tests/WitnessMemory.lean ====
section
/-! SUPPORT. Witnesses for the statements about floating point, packed data, system registers, loads, stores, atomics and
descriptors. -/
namespace Sys2Proof.Tests
set_option Elab.async false
open Sys2Proof Sys2Proof.Machine

/-! ## Floating point and packed data -/

/-- A thread with a rounding mode and enables in `s.fcsr`. -/
def tFcsr (v : Word) : Thread := { t0 with fcsr := v }
theorem readyFcsr (v : Word) (i : Instr) : CanIssue (withT (tFcsr v)) i (tFcsr v) :=
  readyT _ (by unfold tFcsr; exact (by decide +kernel : t0.blocked 0 = false)) (by show t0.gs = _; decide +kernel) rfl
    (by unfold tFcsr; exact (by decide +kernel : t0.super = true)) i
/-- FloatArithmetic, FloatFunctions, FloatConversions, PackedFloats, PackedMoves: a mode of the code and the dynamic ones 0, 4
and 5; flags that are and are not enabled. -/
theorem wit_float : (∀ (v : Word) (i : Instr), CanIssue (withT (tFcsr v)) i (tFcsr v)) ∧ (3 : BitVec 3) ≠ 7 ∧ bits (tFcsr 0x4000).fcsr 12 3 = 4 ∧
    4 < bits (tFcsr 0x5000).fcsr 12 3 ∧ Nat.land (bits ((tFcsr 0).fcsr ||| wd 1) 5 5) 1 = 0 ∧ Nat.land (bits ((tFcsr 0x20).fcsr ||| wd 1) 5 5) 1 ≠ 0 := by
  exact ⟨readyFcsr, by decide +kernel⟩
/-- FloatFunctions: digits of an exact and of an inexact root, quotient and reciprocal root, in binary32. -/
theorem wit_floatDigits : let N := 2 ^ 26
    2 ^ ((fmtOfWidth 1).m + 3) ≤ N ∧ (N * N ≤ 1 * 2 ^ 52 ∧ 1 * 2 ^ 52 < (N + 1) * (N + 1) ∧ ((0 : Int) - (52 : Nat)) % 2 = 0) ∧
    (94906265 * 94906265 ≤ 2 * 2 ^ 52 ∧ 2 * 2 ^ 52 < 94906266 * 94906266) ∧ (N * 1 ≤ 2 ^ 26 ∧ 2 ^ 26 < (N + 1) * 1) ∧
    (89478485 * 3 ≤ 2 ^ 28 ∧ 2 ^ 28 < (89478485 + 1) * 3) ∧ (N * N * 1 ≤ 2 ^ 52 ∧ 2 ^ 52 < (N + 1) * (N + 1) * 1 ∧ (-(0 : Int) - (52 : Nat)) % 2 = 0) := by decide +kernel

/-- FloatLaws: the lowest and the highest pattern that is no NaN, of each width. -/
theorem wit_floatLaws : ∀ w : BitVec 2, ∀ p ∈ [0, 2 ^ ((fmtOfWidth w).size - 1)],
    p < 2 ^ (fmtOfWidth w).size ∧ ((fmtOfWidth w).decode p).isNan = false := by decide +kernel

/-- The values that R255, R258, R260, R265, R268, R271 print. -/
theorem test_float_values :
    let t := (t0.setG 10 0x3F800800).setG 11 0xBF800000
    (after (exec (.fmul 5 10 10 false false 1 0) (withT t))).map (fun u => (u.gpr 5, u.fcsr)) = some (0x3F801000, 1) ∧
    (after (exec (.fma 11 10 10 false false 1 0) (withT t))).map (fun u => (u.gpr 11, u.fcsr)) = some (0x3A000400, 0) ∧
    (after (exec (.fcvti 5 10 2 false 1 1) (withT (t0.setG 10 0xC0300000)))).map (·.gpr 5) = some 0xFFFFFFFFFFFFFFFE ∧
    (after (exec (.fmin 5 10 0 false false 1) (withT (t0.setG 10 0x80000000)))).map (·.gpr 5) = some 0x80000000 := by decide +kernel
theorem test_packed_values :
    (after (exec (.pdot4 6 4 4 false false) (withT (t0.setG 4 0x80808080)))).map (·.gpr 6) = some 0x10000 ∧
    (after (exec (.ppack 6 4 0 false false 2) (withT (t0.setG 4 0x9C64)))).map (·.gpr 6) = some 0x87 ∧
    (after (exec (.bxd 5 4 9 false false 0) (withT ((t0.setG 9 0xDE).setG 4 0xF13B)))).map (·.gpr 5) = some 0xC0403E803F40BF40 := by decide +kernel

/-- PackedIntegers and PackedMoves: lane codes at their edge; formats that `pfcvt` takes and does not, parts that exist and do
not. -/
theorem wit_packed : (2 : BitVec 2).toNat ≤ 2 ∧ cvtFmt 31 = none ∧ cvtFmt 6 = some f16 ∧ cvtFmt 8 = some f32 ∧ cvtLanes 32 32 1 = none ∧
    cvtLanes 32 32 0 = some (2, 0, 0) ∧ cvtLanes 32 16 1 = some (2, 0, 2) ∧ (0x8000000000000000 : Word) ≠ 0 := by decide +kernel

/-! ## System and engine registers -/

/-- SystemRegisters: numbers at the edges of the table's ranges and beside them, at user and supervisor level. -/
theorem wit_systemRegisters :
    let known := fun k => k ≤ 8 ∨ (0x10 ≤ k ∧ k ≤ 0x1A) ∨ k = 0x20 ∨ k = 0x21
    (known 0 ∧ known 8 ∧ known 0x10 ∧ known 0x1A ∧ known 0x20 ∧ known 0x21 ∧ ¬ known 9 ∧ ¬ known 0xF ∧ ¬ known 0x1B ∧ ¬ known 0x22) ∧
    tUser.super = false ∧ t0.super = true ∧ t0.rep = none ∧ (withT t0).thread 0 = some t0 := by decide +kernel
theorem wit_userIssue : CanIssue (withT tUser) (.mfs 5 0x16) tUser where
  cur := withT_thread _
  free := by decide +kernel
  full := by decide +kernel
  dest := by decide +kernel
  level := by decide +kernel
  room := by decide +kernel
/-- A supervisor's register is closed to user level, and open above it. -/
theorem test_mfs : (after (exec (.mfs 5 0x16) { withT tUser with cores := [] })).map (·.held) = some (some 3) ∧
    (after (exec (.mfs 5 2) w0)).map (·.gpr 5) = some 0 ∧ (after (exec (.mts 4 false 0x11) w0)).map (·.tfp) = some 0 ∧
    (after (exec (.mts 4 false 0x16) w0)).map (·.save0) = some 8 := by decide +kernel

/-- SystemRegisters: which numbers write the core's next values; AlcoveWriteKeepsStack: the fields of a started thread are well formed, and so are floor and csp at size. -/
theorem wit_alcove : stackFieldsOk (alcoveWord 4096) ∧ stackFieldsOk (wd (4096 + 4096 * 65536 + 4096 * 2 ^ 32)) ∧ ¬ stackFieldsOk (wd 4) := by
  unfold stackFieldsOk; decide +kernel

/-- RegisterWriteOperations: core queues and q.mx, in a gang and in none. -/
theorem wit_queueStatus : (3 : BitVec 3).toNat ≤ 3 ∧ (4 : BitVec 3).toNat = 4 ∧ t0.gang = none ∧ ({ t0 with gang := some 3 } : Thread).gang = some 3 := by decide +kernel
theorem test_registerWrites : (nextOf (exec (.sMergeWrite 0xFF01) w0)).map (fun s => (s.core 0).merge) = some 0x8001 ∧
    (after (exec (.sStatusWrite 0xC) w0)).map (fun t => bits t.status 0 4) = some 13 ∧ (after (exec (.sAlcoveWrite 8) w0)).map (·.csp) = some 8 ∧
    (after (exec (.systemRegisterWrite 0x13 0x12345) w0)).map (·.cause) = some 0x2345 := by decide +kernel

/-! ## Addresses and loads -/

/-- AccessChecks: a non-canonical pointer; a byte below 0 and one past the last; the last byte; local offsets wrap. -/
theorem wit_accessChecks :
    let va := fun (p : Word) (off : Int) => (bits p 0 48 : Int) + off
    bits (0x1000000000000000 : Word) 60 4 ≠ 0 ∧ va 3 (-4) < 0 ∧ (2 ^ 48 : Nat) < va 0xFFFFFFFFFFFC 0 + 5 ∧ va 0xFFFFFFFFFFFC 0 + 4 ≤ (2 ^ 48 : Nat) ∧ va 4 (-4) = 0 ∧
    (match checkGlobal w0 0 0 0 true .load (some 0) 0x20000 8 with | .ok xs _ => decide (xs = span 0x20000 8) | _ => false) = true := by decide +kernel

/-- The thread with g8 a pointer and g9, g10 values; a valid, readable, writable descriptor in d1. -/
def tPtr : Thread := { ((t0.setG 8 0x20008).setG 9 0x1122334455667788).setG 10 3 with d := t0.d.set 1 (descWord 0x20000 64 0 true true true 0) }
theorem readyPtr (i : Instr) : CanIssue (withT tPtr) i tPtr := readyT _ (by decide +kernel) (by decide +kernel) (by decide +kernel) (by decide +kernel) i
/-- A load or wait asks for an access and takes no trap at its issue. -/
def issues (s : State) (t : Thread) (i : Instr) (x1 x2 : Word) (desc : BitVec 128) : Bool :=
  match loadReq i x1 x2 desc with | .ok (some q) => decide (loadIssueTrap s 0 t q = none) | _ => false
/-- LoadsTakeEntries: every kind of load and wait, on a miss in L1 and in the alcove; an `ldb` out of bounds. -/
theorem wit_loadsTakeEntries :
    (([.ld 0 7 8 false 3 0x1FF, .ldn 1 7 0 false 2 0, .ordLd 0 7 8 3 false 10, .ordLdn 0 7 8 2 false 28, .ldx 0 7 8 10 false false, .ldg 7 8 false,
      .waita 1 7 8 10 false false 2, .waitge 0 7 8 10 false false 4] : List Instr).all (fun i =>
        issues (withT tPtr) tPtr i (if i = .ldn 1 7 0 false 2 0 then 0 else tPtr.gpr 8) 1 0)) = true ∧
    issues (withT tPtr) tPtr (.ldb 7 10 1 false 2) 3 0 (tPtr.dReg 1) = true ∧ (match loadReq (.ldb 7 10 1 false 2) 64 0 (tPtr.dReg 1) with | .ok none => true | _ => false) = true := by
  decide +kernel

/-- The thread with one entry, and memory with bytes at 0x20000. -/
def entryOf (i : Instr) (x1 x2 x3 : Word) : ReplayEntry := ⟨100, wordOf i, 0x8000, x1, x2, x3, 7, .pending, 0, .waiting, none, 0, 0, false, 0, [], [], none⟩
def tWith (e : ReplayEntry) : Thread := { t0.setOwed 7 with replay := [e] }
def wMem (t : Thread) : State := { withT t with mem := memSet (memSet w0.mem 0x20000 0x80) 0x20001 0x12 }
/-- The bytes of an access, where its checks pass. -/
def bytesOf (s : State) (t : Thread) (a : Access) (k : Kind) : Option (List Nat × List Attrs) :=
  match accessBytes s 0 t a k true with | .ok xs at' => some (xs, at') | _ => none
def ldI : Instr := .ld 0 7 8 false 1 0
def eLd : ReplayEntry := entryOf ldI 0x20000 0 0
/-- A mate of the die that waits on the reply of a failed walk of the page at 0x20000. -/
def wMate (f : Flight) : State := { withT tPtr with threads := [(0, tPtr), (128, tWith { eLd with flight := f, walk := some 0x20000 })] }
/-- LoadsTakeEntries, StoresEnterBuffers, AtomicsTakeEntries: the outcome of an outstanding walk that a miss of the same page shares: an
absent page, a poisoned line, and none. -/
theorem wit_shares :
    let shared := fun (f : Flight) => sharedMiss (wMate f) 0 tPtr ⟨0, 0x20008, 8, 0⟩
    shared .faulting = some (0x20008, .absent) ∧ shared .poisoning = some (0x20008, .poisoned) ∧ shared .waiting = none ∧
    sharedMiss (wMate .faulting) 0 tPtr ⟨0, 0x30008, 8, 0⟩ = none := by decide +kernel
/-- LoadsReturn: a load ready to read two bytes of a page that is not cacheable; entries whose replies arrive; a wait whose
condition holds, does not hold, and whose time is over. -/
theorem wit_loadsReturn :
    let t := tWith eLd
    let s := wMem t
    (s.thread 0 = some t ∧ eLd.instr = some ldI ∧ waitingEntry t 100 (·.isLoad) = some eLd ∧
      (match loadReq ldI 0x20000 0 0 with
        | .ok (some q) => missesL1 s 0 t q.acc && !(walkWaits s 0 0 0 q.acc.addr q.acc.size) | _ => false) = true ∧
      (match loadReq ldI 0x20000 0 0 with
        | .ok (some q) => (match checkedBytes (walkFor s 0 t q.acc) 0 t eLd q.acc .load q.tagged with
          | .ok xs as => xs == [0x20000, 0x20001] && !(as.any (·.c)) && q.scale.isNone && decide (q.acc.addr % 8 + q.acc.size ≤ 8) | _ => false)
        | _ => false) = true ∧
      olderTouches s 0 t 100 [0x20000, 0x20001] = false ∧
      (∀ x ∈ [0x20000, 0x20001], placeReady s 0 false false x = true ∧ bankOf x ≠ 9 ∧ s.poisoned x = false ∧ s.resolve (.thread 0) x = x ∧
        valueOf (wsGet s x) (newestId (wsGet s x)) = memGet s.mem x) ∧ mayChoose s t0.front false (newestChoice s [0x20000, 0x20001]) = true) := by decide +kernel
/-- LoadsReturn: the two accesses of a load are each read, one after the other. -/
def twoParts (s : State) (t : Thread) (e : ReplayEntry) (i : Instr) (p1 p2 : List Nat) : Bool :=
  match loadReq i e.src1 e.src2 e.desc with
  | .ok (some q) => loadParts q == [p1, p2] && (match readPart s 0 t e q [] i.order p1 with
    | .ok (s1, t1, b1, l1) => (match readPart s1 0 t1 { e with got := p1.zip b1, places := if e.places.any (fun p => p.1 == l1.1) then e.places else e.places ++ [l1] } q [] i.order p2 with
      | .ok r => b1.length == p1.length && r.2.2.1.length == p2.length | .error _ => false)
    | .error _ => false)
  | _ => false
/-- LoadsReturn: a load of two bytes that crosses an aligned unit; an `ldx` of a blocked format, its scale byte and then its element's byte. -/
def eCross : ReplayEntry := entryOf ldI 0x20007 0 0
def ldxI : Instr := .ldx 0 7 8 10 false false
def eLdx : ReplayEntry := entryOf ldxI (wd (0x20000 + 14 * 2 ^ 48)) 3 0
theorem wit_ldx :
    let t := tWith eLdx
    let s := wMem t
    waitingEntry t 100 (·.isLoad) = some eLdx ∧ eLdx.instr = some ldxI ∧
    twoParts s t eLdx ldxI [0] [1] = true ∧ waitingEntry (tWith eCross) 100 (·.isLoad) = some eCross ∧ eCross.got = [] ∧
    twoParts (wMem (tWith eCross)) (tWith eCross) eCross ldI [1] [2] = true := by decide +kernel
/-- LoadsReturn: entries of which none is a `spawn` that waits. -/
theorem wit_noneWaits : ∀ e ∈ [eLd, eLdx], ∀ x ∈ (tWith e).replay, x.unsent = false := by decide +kernel
theorem wit_replies :
    let has := fun (e : ReplayEntry) (f : Flight) => (tWith { e with flight := f }).replay.any (fun x => x.id == 100 && x.flight == f && x.mark.isNone && x.state == .pending)
    has eLd .read = true ∧ has eLd .faulting = true ∧ has eLd .poisoning = true ∧
    40 ≤ ((40 : Word) - ({ eLd with flight := .faulting } : ReplayEntry).since).toNat ∧
    ¬ 40 ≤ ((39 : Word) - ({ eLd with flight := .faulting } : ReplayEntry).since).toNat := by decide +kernel
def eWait (target timeout : Word) : ReplayEntry := entryOf (.waitge 0 7 8 10 false false 0) 0x20000 timeout target
theorem wit_waits :
    let val := fun (e : ReplayEntry) => match readEntry (wMem (tWith e)) 0 (tWith e) e [] none with | .value _ _ v => some v | _ => none
    (waitingEntry (tWith (eWait 3 9)) 100 (·.isWait) = some (eWait 3 9) ∧ val (eWait 3 9) = some 0x1280 ∧ val (eWait 0x1281 0) = some 0x1280) ∧
    (3 : Word).toNat ≤ (0x1280 : Word).toNat ∧ ¬ (0x1281 : Word).toNat ≤ (0x1280 : Word).toNat ∧ (0 : Word).toNat ≤ ((0 : Word) - 0).toNat ∧ ¬ (9 : Word).toNat ≤ ((0 : Word) - 0).toNat := by
  decide +kernel
theorem test_load : (nextOf (exec (.loadReadMove 0 100 [] ⟨[], none⟩) (wMem (tWith eLd)))).bind (fun s => after (exec (.producerReply 0 100) s)) |>.map
    (fun t => (t.gpr 7, t.regState 7, t.replay.length)) |> (· = some (0x1280, .full, 0)) := by decide +kernel

/-- ReadsTakeCandidates: two writes of a byte, the older one named by the tape. -/
def wTwo : State := enterByte (enterByte w0 [] 0x20000 1 30 false none) [] 0x20000 2 31 false none
theorem wit_readsTakeCandidates : (readMove wTwo 0 t0 [0x20000] [(0x20000, 30)] 0 0).map (fun r => r.2.2) = some [1] ∧
    (readMove wTwo 0 t0 [0x20000] [] 0 0).map (fun r => r.2.2) = some [2] ∧ t0.forwards 0x20000 = false := by decide +kernel
theorem wit_readsTogether : ∀ u, ∃ c : Choice, c.map (·.1) = ([0x20000].map (wTwo.resolve (.thread 0))).filter (· / 8 == u) ∧ mayChoose wTwo t0.front false c = true := by
  intro u
  by_cases h : u = 0x20000 / 8
  · exact ⟨[(0x20000, 30)], by subst h; decide +kernel, by decide +kernel⟩
  · refine ⟨[], ?_, by decide +kernel⟩
    rw [show [0x20000].map (wTwo.resolve (.thread 0)) = [0x20000] by decide +kernel]
    simp only [List.filter, List.map]
    rw [beq_eq_false_iff_ne.mpr (by omega)]

/-! ## Stores and atomics -/

/-- A store asks for an access and passes its checks; on a miss in L1 or not. -/
def storeGoes (s : State) (t : Thread) (i : Instr) : Option Bool :=
  match storeReq i t with
  | .ok (some q) =>
    let s1 := walkFor s s.cur t q.acc
    match accessBytes s1 s.cur t q.acc .store (q.kind != .tags) with
    | .ok xs as =>
      match storeCells s1 s.cur (comparedTags s1 s.cur t q.acc (q.kind != .tags) xs as) q with
      | .ok (_, _, .bytes _) =>
        if (q.kind = .tags ∨ storePreCheck s s.cur t q = none) ∧ (storeLocs q.kind xs).Nodup then some (missesL1 s s.cur t q.acc) else none
      | _ => none
    | _ => none
  | _ => none
/-- StoresEnterBuffers: each kind of store, in the alcove at once and in global space through its slice; a dropped `stb`. -/
theorem wit_storesEnterBuffers :
    let s := withT tPtr
    storeGoes s tPtr (.st 1 9 0 false false 3 8) = some false ∧ storeGoes s tPtr (.st 0 9 8 false false 3 0) = some true ∧
    storeGoes s tPtr (.ordSt 0 9 8 3 false 16) = some true ∧ storeGoes s tPtr (.stb 9 10 1 false 2) = some true ∧ storeGoes s tPtr (.stn 9 8 false 17) = some true ∧
    storeGoes s tPtr (.stx 0 9 8 10 false false) = some true ∧ tPtr.sb = [] ∧ (∀ e ∈ tPtr.sb ++ tPtr.nt, e.id < s.fresh) ∧
    storeGoes s ((tPtr.setG 10 64).setG 8 0x20040) (.stg 8 10 false false) = some true ∧
    (match storeReq (.stb 9 8 1 false 2) tPtr with | .ok none => true | _ => false) = true := by decide +kernel
theorem wit_storeCheck : (({ tPtr with check := some (wordOf (.st 0 9 8 false false 3 0)) } : Thread).check = some (wordOf (.st 0 9 8 false false 3 0))) ∧
    (decode (wordOf (.st 0 9 8 false false 3 0))).toOption = some (.st 0 9 8 false false 3 0) ∧ tPtr.forced = false := by decide +kernel

/-- StoresEnterBuffers, AtomicsTakeEntries: a stalled store and atomic that wait for no walk and whose walk does not fail; their walk has to
wait; the walk of an unmapped page fails. -/
theorem wit_checkReturns : ∀ i ∈ [.st 0 9 8 false false 3 0, .amoAdd 0 7 8 true false 0], tPtr.stopped (withT tPtr) 0 = false ∧
    checkWaits (withT tPtr) 0 { tPtr with check := some (wordOf i) } i = false ∧
    checkWalk (withT tPtr) 0 { tPtr with check := some (wordOf i) } i none = none ∧
    checkWaits { withT tPtr with homeTx := wWalks.homeTx } 0 { tPtr with check := some (wordOf i) } i = true ∧
    (checkWalk (withT tPtr) 0 { tPtr.setG 8 0x40000000 with check := some (wordOf i) } i none).map (fun x => x.2.2) = some (0x40000000, .absent) := by
  decide +kernel

/-- One buffered store of eight bytes at 0x20008. -/
def eSt : StoreEntry := ⟨500, cellsOf (span 0x20008 8) (toBytes 8 0x1122334455667788), false, 0x20008, none, false, 500, false⟩
/-- StoresLand: it may land, from SB(t) and from NT(t). -/
theorem wit_storesLand :
    let t := { t0 with sb := [eSt] }
    let s := withT t
    s.thread 0 = some t ∧ mayDrain s 0 t eSt = true ∧ (∀ c ∈ eSt.cells, placeReady s 0 false true c.1 = true ∧ s.live c.1 = true ∧ s.poisoned c.1 = false ∧
      bankOf c.1 = 0 ∧ s.resolve (.thread 0) c.1 = c.1) ∧ watchBlocked s eSt.reached none 0 = false ∧ (eSt.cells.map (·.1)).Nodup ∧
    t.sb.find? (fun x => x.id == 500) = some eSt ∧ mayDrain s 0 { t0 with nt := [eSt] } eSt = true := by decide +kernel
theorem test_storeLands : (nextOf (exec (.storeDrain 0 ⟨500, []⟩) (withT { t0 with sb := [eSt] }))).map (fun s => peek s 0x20008 8) = some 0x1122334455667788 ∧
    (nextOf (exec (.ntStoreDrain 0 ⟨500, []⟩) (withT { t0 with nt := [eSt] }))).map (fun s => peek s 0x20010 8) = some 0 := by decide +kernel

/-- AtomicsTakeEntries: in the alcove at once, in global space through its slice. -/
theorem wit_atomicsTakeEntries :
    let s := withT tPtr
    let goes := fun (space : Nat) (p : Word) => match formAddress space p 0 8 with
      | .ok a => if preCheck s 0 tPtr a .atomic true = none ∧ ((bytesOf s tPtr a .atomic).map (fun r => r.1.any tPtr.sbHas)) = some false then some (missesL1 s 0 tPtr a) else none
      | _ => none
    goes 1 0x10 = some false ∧ goes 0 0x20008 = some true ∧ releases (ordOf 16) = true ∧ tPtr.sb = [] := by decide +kernel

def amoI : Instr := .amoAdd 0 7 8 true false 16
def eAmo : ReplayEntry := entryOf amoI 0x20000 5 0
/-- AtomicsPerform: a release at cluster scope on an aligned word. -/
theorem wit_atomicsPerform :
    let t := tWith eAmo
    let s := wMem t
    s.thread 0 = some t ∧ waitingEntry t 100 (·.isAtomic) = some eAmo ∧ eAmo.instr = some amoI ∧
    missesL1 s 0 t ⟨0, 0x20000, 8, 0⟩ = true ∧ walkWaits s 0 t.part t.asid 0x20000 8 = false ∧ eAmo.places = [] ∧
    (match formAddress 0 0x20000 0 8 with | .ok a => (match checkedBytes (walkFor s 0 t a) 0 t eAmo a .atomic true with | .ok xs as => xs == span 0x20000 8 && !(as.any (·.c)) | _ => false) | _ => false) = true ∧
    olderTouches s 0 t 100 (span 0x20000 8) = false ∧ t.olderStore 100 (span 0x20000 8) = false ∧ t.sb = [] ∧ watchBlocked s (span 0x20000 8) none 0 = false ∧
    (∀ x ∈ span 0x20000 8, placeReady s 0 false true x = true ∧ s.poisoned x = false ∧ s.resolve (.thread 0) x = x ∧
      valueOf (wsGet s x) (newestId (wsGet s x)) = memGet s.mem x) ∧ mayChoose s t0.front true (newestChoice s (span 0x20000 8)) = true := by decide +kernel
theorem test_atomic : (nextOf (exec (.atomicPerform 0 100 ⟨[], []⟩) (wMem (tWith eAmo)))).map (fun s => (peek s 0x20000 8, (s.thread 0).map (fun t => t.replay.map (·.value)))) =
    some (0x1285, some [0x1280]) := by decide +kernel

/-- Descriptors: a pointer that is not canonical, ranges that end at and past the space's end, scales 4 and 5; descriptors
that are not valid, narrowed at their length and past it. -/
theorem wit_descriptors :
    bits (0x1000000000000000 : Word) 60 4 ≠ 0 ∧ bits (0xFFFFFFFFFFFF : Word) 0 48 + bits (1 : Word) 0 40 ≤ 2 ^ 48 ∧
    ¬ (bits (0xFFFFFFFFFFFF : Word) 0 48 + bits (2 : Word) 0 40 ≤ 2 ^ 48) ∧ bits (0x40000000000 : Word) 40 3 ≤ 4 ∧ 4 < bits (0x50000000000 : Word) 40 3 ∧
    descValid (t0.dReg 2) = false ∧ descValid (tPtr.dReg 1) = true ∧ (64 : Word).toNat ≤ descLength (tPtr.dReg 1) ∧ descLength (tPtr.dReg 1) < (65 : Word).toNat := by decide +kernel

end Sys2Proof.Tests
end

