-- ==== Sys2Proof/Tests/WitnessEvents.lean ====
section
/-! SUPPORT. Witnesses for the statements about synchronisation, spawning, tags, the supervisor's instructions, engine
commands and operands. -/
namespace Sys2Proof.Tests
set_option Elab.async false
open Sys2Proof Sys2Proof.Machine

/-- The machine with a thread in context 0 can issue, whatever else it holds. -/
theorem readyS {s : State} {t : Thread} (h : s.thread s.cur = some t) (hb : t.blocked s.time = false) (hg : t.gs = Vector.replicate 64 .full)
    (hr : t.replay = []) (hs : t.super = true) (i : Instr) : CanIssue s i t := canIssue_plain h hb hg hr hs i

/-! ## Synchronisation -/

/-- The thread with a buffered store; with a non-temporal one. -/
def tSb : Thread := { t0 with sb := [eSt] }
def tNt : Thread := { t0 with nt := [eSt] }
theorem readySb (i : Instr) : CanIssue (withT tSb) i tSb := readyS (withT_thread _) (by decide +kernel) (by decide +kernel) (by decide +kernel) (by decide +kernel) i
theorem readyNt (i : Instr) : CanIssue (withT tNt) i tNt := readyS (withT_thread _) (by decide +kernel) (by decide +kernel) (by decide +kernel) (by decide +kernel) i
/-- The windows of context 0. -/
def win0 : Windows := ⟨16384, 4096, none, none, 0, 0, 0, none⟩
/-- A command of context 0's core in the queue of a code. -/
def cmdOf (i : Instr) (q : Nat) (block : List Word) (count : Nat) : Command :=
  ⟨700, q, 0, wordOf i, 3, 0, block, count, [], [], [], false, 0, 0, true, win0, none, 0, [], 0, 0, none, []⟩
/-- w0 with that command, and with the page of ASID 0 cacheable. -/
def wCmd (c : Command) : State := { w0 with cmds := [c] }
def wCache : State := { w0 with mem := memSet w0.mem 0x3000 0x9F }
theorem readyCmd (c : Command) (i : Instr) : CanIssue (wCmd c) i t0 :=
  readyS (by show w0.thread w0.cur = some t0; decide +kernel) (by show t0.blocked w0.time = false; decide +kernel) (by decide +kernel) (by decide +kernel) (by decide +kernel) i
theorem readyCache (i : Instr) : CanIssue wCache i t0 :=
  readyS (by show w0.thread w0.cur = some t0; decide +kernel) (by show t0.blocked w0.time = false; decide +kernel) (by decide +kernel) (by decide +kernel) (by decide +kernel) i

/-- FencesAndMaintenance: a release with a buffered store and without one, an acquire of die and of module scope; queues with
and without an entry; non-temporal stores or none; pointers not canonical; ranges of 2^30 bytes and one more; a cacheable page. -/
theorem wit_fences : (releases (ordOf 16) = true ∧ tSb.sb ≠ [] ∧ t0.sb = []) ∧ (acquires (ordOf 10) = true ∧ 2 ≤ scopeOf 10) ∧
    ([1].any (hasEntry (wCmd (cmdOf .nop 1 [] 0)) 0 t0) = true ∧ [0, 2].any (hasEntry (wCmd (cmdOf .nop 1 [] 0)) 0 t0) = false) ∧
    (t0.nt = [] ∧ tNt.nt ≠ []) ∧ bits (0x1000000000000000 : Word) 60 4 ≠ 0 ∧ (0x40000000 : Word).toNat ≤ 2 ^ 30 ∧ 2 ^ 30 < (0x40000001 : Word).toNat ∧
    cachedRanges wCache 0 t0 0x20000 100 = [(0x20000, 100)] ∧ buffered t0 [(0x20000, 100)] = false ∧ underWay wCache 0 [(0x20000, 100)] = false ∧ heldBusy wCache 0 [(0x20000, 100)] = false := by decide +kernel
/-- FencesAndMaintenance: a `cwb` that sends a writeback, and its return with the writeback unanswered and answered. -/
theorem wit_maintenance :
    let t := (t0.setG 8 0x20000).setG 9 100
    let s := { wCache with threads := [(0, t)], l2 := [⟨0, 0x800, 0x800, 0, ⟨false, true, false, false, true, true, true⟩, true⟩], dir := [(0x800, ⟨1, 2, 0, false, false⟩)] }
    let i : Instr := .cwb 8 9 false false
    let u := { t with check := some (wordOf i) }
    underWay s 0 [(0x20000, 100)] = false ∧ ((nextOf (exec i s)).map (fun s' => underWay s' 0 [(0x20000, 100)])) = some true ∧
    u.stopped s 0 = false ∧ (decode (wordOf i)).toOption = some i ∧ (decode (wordOf (.cinvT 8 9 false false))).toOption = some (.cinvT 8 9 false false) := by decide +kernel
theorem wit_arrive : Memory.wf w0.mem = true ∧ (let acc := fun (off : Nat) => (⟨1, off, 8, 0⟩ : Access)
    (5 : Nat) % 8 ≠ 0 ∧ preCheck w0 0 t0 (acc 8) .atomic true = none ∧ (localBytes (windowsOf w0 0 t0) 1 8 8).toOption = some (span (16384 * bankSize + 8) 8)) := by decide +kernel
theorem wit_arriveByte : (let x := 16384 * bankSize + 8
    0 < bankOf x ∧ bankOf (x + 7) = bankOf x ∧ w0.poisoned x = false ∧ x % 8 = 0 ∧ (∀ y ∈ span x 8, valueOf (wsGet w0 y) (newestId (wsGet w0 y)) = memGet w0.mem y) ∧
    mayChoose w0 t0.front true (newestChoice w0 (span x 8)) = true ∧ readsEarly w0 0 t0 (span x 8) = false ∧ takenFor w0 (span x 8) = []) := by decide +kernel
theorem test_arrive : (nextOf (exec (.arrive 1 4 1 false false) { w0 with threads := [(0, t0.setG 4 16)] })).map (fun s => peek s (16384 * bankSize + 16) 8) = some 5 := by
  decide +kernel

/-- A launch of groups of two threads, and one of its groups on cluster 0. -/
def l0 : Launch := ⟨0, 0, 0, 0x20000, 0x8000, 0, 1, 1, 1, 2, 4096, 0, 0, 10, [], (0, 0, 0), 0, 0x600000, 0x800000, 0x700000, [], [], [], 0, false, false, false, [], 0, []⟩
def g0 : Group := ⟨1, 0, 0, 0, 0, 16400, 2048, none, false, none, [], [], []⟩
def tGrp : Thread := { t0 with grp := some 1 }
def wGrp (g : Group) (ts : List (Nat × Thread)) : State := { w0 with launches := [l0], groups := [g], threads := ts }
theorem readyGrp (g : Group) (i : Instr) : CanIssue (wGrp g [(0, tGrp)]) i tGrp :=
  readyS (by simp [wGrp, w0, State.reset, State.thread, alGet]) (by show tGrp.blocked w0.time = false; decide +kernel) (by decide +kernel) (by decide +kernel) (by decide +kernel) i
/-- A thread that waits to muster in the row of its core. -/
def tMus (st : Nat) : Thread := { t0 with muster := some ⟨st, 0, 5⟩ }
def wMus : State := { w0 with threads := [(0, tMus 1), (128, tMus 2), (256, tMus 3), (384, tMus 4)] }
def gang0 : Gang := ⟨0, 3, 0, 0, [0, 128, 256, 384], [], none, none⟩
def tGang : Thread := { t0 with gang := some 3 }

/-- BarriersAndGangs: threads released, spawned, and in a group with an open generation and without one; counts of the group
size and one more; a complete generation of two threads; four mustering threads; a gang with an entry and without. -/
theorem wit_barriers : (({ t0 with released := true } : Thread).released = true ∧ t0.released = false ∧ t0.spawned = false ∧ t0.grp.bind w0.group = none) ∧
    (let s := wGrp g0 [(0, tGrp)]
     tGrp.grp.bind s.group = some g0 ∧ g0.barrier = none ∧ (some 2 : Option Nat).all (· ≤ groupSize s g0) = true ∧ (some 3 : Option Nat).all (· ≤ groupSize s g0) = false ∧
     tGrp.grp.bind (wGrp { g0 with barrier := some ⟨some 2⟩ } [(0, tGrp)]).group = some { g0 with barrier := some ⟨some 2⟩ }) ∧
    (let st := { tGrp with atBar := true }
     let s := wGrp { g0 with barrier := some ⟨none⟩ } [(0, st), (1, st)]
     (s.threads.map (·.1)).Nodup ∧ s.group 1 = some { g0 with barrier := some ⟨none⟩ } ∧ placedLeft s 1 = 2 ∧ (standing s 1).length = 2 ∧ ∀ e ∈ standing s 1, e.2.sb = []) := by
  decide +kernel
theorem wit_gangs : ((nextGang wMus 0).map (·.map (·.1)) = some [0, 128, 256, 384] ∧ freeGang wMus 0 = some 0 ∧ wMus.threads.all (fun e => e.2.sb.isEmpty) = true ∧ t0.gang = none) ∧
    (let s := { withT tGang with gangs := [gang0] }
     tGang.gang = some 3 ∧ tGang.gang.bind (s.gangOf (rowOf s.cur)) = some gang0 ∧ tGang.gang.bind (w0.gangOf (rowOf w0.cur)) = none ∧
     s.cmds.any (fun c => c.queue == mxQueue gang0.row gang0.num) = false ∧ [cmdOf .nop (mxQueue 0 3) [] 0].any (fun c => c.queue == mxQueue gang0.row gang0.num) = true) := by
  decide +kernel
def wGang (cs : List Command) : State := { withT tGang with gangs := [gang0], cmds := cs }
theorem readyGang (cs : List Command) (i : Instr) : CanIssue (wGang cs) i tGang :=
  readyS (by simp [wGang, withT, w0, State.reset, State.thread, alGet]) (by show tGang.blocked w0.time = false; decide +kernel) (by decide +kernel) (by decide +kernel) (by decide +kernel) i

/-! ## Spawning and tags -/

/-- A spawn's message to core 3, from context 0's entry 100. -/
def msg0 : SpawnMsg := ⟨600, 0x9000, 0, true, 0, 0, 0, 0x8000000000000000, none, #v[1, 2, 3, 4], [], 3, false, 100, 0⟩
def tSpawn : Thread := tWith (entryOf (.spawn 7 8 9 false false) 0x9000 24 0)
def wSpawn (box : List SpawnMsg) : State := { withT tSpawn with spawns := [msg0], cores := [(0, Core.init), (3, { Core.init with inbox := box })] }
def tHandler (h : Word) (n : Word) : Thread := (t0.setG 8 h).setG 9 n
theorem readyHandler (h n : Word) (i : Instr) : CanIssue (withT (tHandler h n)) i (tHandler h n) :=
  readyT _ (by show t0.blocked 0 = false; decide +kernel) (by show t0.gs = _; decide +kernel) rfl (by show t0.super = true; decide +kernel) i
/-- SpawnsAndTags: handlers outside the address space and misaligned; clusters the partition holds and does not; a message
whose core has a free context, one whose inbox is not empty, one whose launch's context is full. -/
theorem wit_spawns : (bits (0x1000000000000 : Word) 48 16 ≠ 0 ∧ bits (0x9002 : Word) 48 16 = 0 ∧ bits (0x9002 : Word) 0 2 ≠ 0 ∧ bits (0x9000 : Word) 0 2 = 0 ∧
      w0.partition 0 = some p0 ∧ p0.hasCluster (bits (7 : Word) 0 10 / 8) = true ∧ p0.hasCluster (bits (8 : Word) 0 10 / 8) = false ∧ (∀ r ∈ [1, 2, 3, 4], t0.regState r = .full)) ∧
    (let s := wSpawn []
     s.spawns.find? (fun x => x.id == msg0.id) = some msg0 ∧ (s.core 3).inbox = [] ∧ canStart { s with spawns := [] } 3 msg0 = true ∧ (freeContexts s 3).headD 0 = 384 ∧
     tSpawn.replay.map (·.id) = [msg0.entry] ∧ s.thread msg0.parent = some tSpawn) ∧
    (let s := wSpawn [msg0]
     (s.core 3).inbox ≠ [] ∧ (s.core 3).inbox.length < Config.inboxDepth ∧ chargeFits s 0 0 64 = true ∧ canStart s 3 msg0 = true ∧ pastDeadline s msg0.grp = false ∧
     chargeFits { s with launches := [{ l0 with ctxsize := 63 }] } 0 0 64 = false ∧ canStart { wSpawn [] with launches := [{ l0 with ctxsize := 63 }] } 3 msg0 = false) := by decide +kernel

/-- SpawnsAndTags: a message to a cluster whose first core has no inbox room, and to one where none has. -/
theorem wit_spawnCluster :
    let m : SpawnMsg := { msg0 with cluster := true, target := 0 }
    let full := List.replicate Config.inboxDepth msg0
    let s := fun (n : Nat) => ({ withT tSpawn with spawns := [m], cores := (span 0 n).map (fun c => (c, { Core.init with inbox := full })) } : State)
    (s 1).spawns.find? (fun x => x.id == m.id) = some m ∧ 1 / 8 = m.target ∧ ((s 1).core 1).inbox.length < Config.inboxDepth ∧
    (∀ e < 1, Config.inboxDepth ≤ ((s 1).core e).inbox.length) ∧ (∀ e ∈ span 0 8, e / 8 = m.target ∧ Config.inboxDepth ≤ ((s 8).core e).inbox.length) := by decide +kernel
/-- A thread whose `taga` asks for `n` tags of kind `k`. -/
def eTag (n k : Word) : ReplayEntry := entryOf (.taga 7 8 9 false false) n k 0
def tTag (n k : Word) : Thread := tWith (eTag n k)
theorem wit_taga : (tTag 65536 30).replay = [eTag 65536 30] ∧ (eTag 65536 30).state = .pending ∧ (decode (eTag 65536 30).word).toOption = some (.taga 7 8 9 false false) ∧
    (withT (tTag 1 10)).partition 0 = some p0 ∧ (0 < (65536 : Word).toNat ∧ (65536 : Word).toNat ≤ 65536 ∧ 65536 < (65537 : Word).toNat ∧ (9 : Word).toNat < 10 ∧ 30 < (31 : Word).toNat) ∧
    freeBase [] (ceilDiv 65536 64) = some 0 ∧ freeEntry [] = some 0 ∧ (withT (tTag 1 10)).overtaken 1 0 0 = false := by decide +kernel

/-- A tag table with one live range, of 64 tags from 0. -/
def wTag : State := { w0 with mem := memSet (memSet w0.mem 0x200008 0x03) 0x20000A 0x14 }
def range0 : TagRange := ⟨0, 0, 1, 10, 0⟩
theorem wTag_ranges : tagRanges wTag p0 = [range0] :=
  (tagRanges_prefix 1 (by decide) (by decide +kernel)).trans (by decide +kernel)
theorem w0_ranges : tagRanges w0 p0 = [] := tagRanges_prefix 0 (by decide) (by decide +kernel)
/-- SpawnsAndTags: a live range that `tagf` names and one it does not; the base beside it. -/
theorem wit_tagf : (wTag.partition 0).bind (fun p => (rangeAt wTag p 0 1).map (fun r => (p, r))) = some (p0, range0) ∧ tagfBlocked wTag p0 range0 = false ∧
    tagfBlocked { wTag with ranks := [(2, tagPlace 0 0, 2)] } p0 range0 = true ∧
    (w0.partition 0).bind (fun p => (rangeAt w0 p 0 1).map (fun r => (p, r))) = none ∧
    freeBase (tagRanges wTag p0) 1 = some 64 ∧ freeEntry (tagRanges wTag p0) = some 1 := by
  refine ⟨?_, by decide +kernel, by decide +kernel, ?_, ?_, ?_⟩
  · rw [show wTag.partition 0 = some p0 by decide +kernel, Option.bind_some, rangeAt, wTag_ranges]; rfl
  · rw [show w0.partition 0 = some p0 by decide +kernel, Option.bind_some, rangeAt, w0_ranges]; rfl
  · rw [wTag_ranges]; decide +kernel
  · rw [wTag_ranges]; decide +kernel

/-! ## The supervisor's instructions -/

/-- The thread with a name in g8. -/
def tNames (v : Word) : Thread := t0.setG 8 v
def saved0 : SavedThread := ⟨2, 1, t0, false⟩
def wNames (v : Word) : State := { w0 with threads := [(0, tNames v), (1, t0)], saved := [saved0] }
theorem readyNames (v : Word) (i : Instr) : CanIssue (wNames v) i (tNames v) :=
  readyS (by simp [wNames, w0, State.reset, State.thread, alGet]) (by show t0.blocked 0 = false; decide +kernel) (by show t0.gs = _; decide +kernel) rfl
    (by show t0.super = true; decide +kernel) i
/-- ThreadControl: names outside the partition, of no thread, of another context, of the thread itself and of a saved thread. -/
theorem wit_threadControl : outside (wNames 1024) (tNames 1024) 1024 = true ∧ outside (wNames 1023) (tNames 1023) 1023 = false ∧
    (match named (wNames 5) 0 5 with | .none => true | _ => false) = true ∧ (match named (wNames 1) 0 1 with | .live l x => l == 1 && x == t0 | _ => false) = true ∧
    (match named (wNames 0) 0 0 with | .live l x => l == 0 && x == tNames 0 | _ => false) = true ∧
    (match named (wNames 0x8000000000000002) 0 0x8000000000000002 with | .saved x => x == saved0 | _ => false) = true ∧
    outside (wNames 0) (tNames 0) 0x8000000000000002 = false := by decide +kernel
theorem test_threadControl : (nextOf (exec (.stop 7 8 false) (wNames 1))).map (fun s => ((s.thread 0).map (·.gpr 7), (s.thread 1).map (·.stop))) = some (some 0, some true) ∧
    (nextOf (exec (.unpark 7 8 false) (wNames 5))).map (fun s => (s.thread 0).map (·.gpr 7)) = some (some 2) ∧
    (nextOf (exec (.kill 8 false) (wNames 1))).map (fun s => (s.thread 1).isNone) = some true := by decide +kernel

/-- Bytes of little-endian numbers at addresses. -/
def poke (m : List Host.Cell) (x n v : Nat) : List Host.Cell := ((span x n).zip (toBytes n v)).foldl (fun m e => memSet m e.1 e.2) m
/-- A line that is poisoned, or not, beside a group whose pantry share is 2,048 bytes. -/
def wPoison (p : Bool) : State := { wGrp g0 [(0, tGrp)] with dir := [(0x800, ⟨0, 0, 0, p, false⟩)] }
/-- SupervisorInstructions: reclaims of a misaligned line, of a line with poison and of one without; a translation range. -/
theorem wit_reclaim : Memory.wf w0.mem = true ∧ (∀ b, (wPoison b).mem = w0.mem) ∧ (reclaimChecks (wPoison true) 0 tGrp 0x20001 64).toOption = none ∧ tGrp.sb = [] ∧ tSb.sb ≠ [] ∧
    ([true, false].all (fun b => match reclaimChecks (wPoison b) 0 tGrp 0x20000 64 with
      | .ok (line, ys) => line == 0x800 && ((wPoison b).dirEntry line).poison == b && !(watchBlocked (wPoison b) (lineBytes line) none 5) &&
          !(readsEarly (wPoison b) 0 tGrp ys) && (issueRead (wPoison b) 0 tGrp ys).isSome &&
          ys.all (fun y => decide (0 < bankOf y) && !((wPoison b).poisoned ((wPoison b).resolve (.thread 0) y)) && valueOf (wsGet (wPoison b) y) (newestId (wsGet (wPoison b) y)) == memGet w0.mem y) &&
          consistent (wPoison b) (ys.map (fun y => (y, newestId (wsGet (wPoison b) y))))
      | .error _ => false)) = true := by
  refine ⟨by decide +kernel, fun _ => rfl, by decide +kernel, by decide +kernel, by decide +kernel, by decide +kernel⟩

/-- Memory with a launch record at 0x20000 of one group of one thread, and its code object at 0x30000. -/
def mLaunch : List Host.Cell :=
  ([(0x20000, 0x30000), (0x20010, 0x1000100010001), (0x20018, 256), (0x20020, 10), (0x20040, 0x600000), (0x20048, 0x351000), (0x20050, 0x700000),
    (0x30000, 0x1001A4F4342), (0x30008, 0x400000100)] : List (Nat × Nat)).foldl (fun m e => poke m e.1 8 e.2) w0.mem
def wLaunch : State := { w0 with mem := mLaunch }
/-- SupervisorInstructions: a record that `lsub` accepts; a name that is not canonical. -/
theorem wit_lsub : (checkLaunch wLaunch 0 t0 p0 0x20000).toOption.map (fun l => (l.gsize, l.entry, l.total)) = some (1, 0x30100, 1) ∧
    (match checkLaunch wLaunch 0 t0 p0 0x20001 with | .error 1 => true | _ => false) = true ∧ Memory.wf mLaunch = true ∧
    ∃ k < 65535, wLaunch.launchOf 0 k = none := by
  refine ⟨by decide +kernel, by decide +kernel, by decide +kernel, 0, by decide, by decide +kernel⟩
/-- SupervisorInstructions: a record that fails each of the checks 1 to 13, and none: the code. -/
def launchCode (l : List (Nat × Nat × Nat)) : Nat :=
  match checkLaunch { wLaunch with mem := l.foldl (fun m e => poke m e.1 e.2.1 e.2.2) mLaunch } 0 t0 p0 0x20000 with | .error c => c | .ok _ => 0
theorem wit_launchCodes :
    [launchCode [], launchCode [(0x20006, 1, 1)], launchCode [(0x20010, 2, 0)], launchCode [(0x20016, 2, 0)], launchCode [(0x20018, 2, 128)],
      launchCode [(0x20018, 8, 256 + 2 ^ 37)], launchCode [(0x20018, 8, 256 + 5 * 2 ^ 40)], launchCode [(0x20018, 8, 256 + 2 ^ 40)]] = [0, 2, 3, 4, 5, 6, 7, 8] ∧
    [launchCode [(0x30000, 1, 0)], launchCode [(0x20008, 1, 4)], launchCode [(0x200C2, 1, 1)], launchCode [(0x20040, 1, 1)],
      launchCode [(0x20050, 1, 1)]] = [9, 10, 11, 12, 13] := by decide +kernel
theorem wit_launchLimit : (List.replicate 65535 l0).filter (fun l => l.part == 0) = List.replicate 65535 l0 := by
  rw [List.filter_replicate]; exact if_pos (by decide +kernel)
/-- A message of die 0's slice about the line 0x800, which a read of an access at 0x20000 needs. -/
def msgAt (k : HomeKind) (g : MsgStage) : SliceMsg := ⟨0, 0x800, k, 0, g, 0x20000, 0, ⟨false, true, false, false, true, true, true⟩, .access⟩
/-- SupervisorInstructions: what `reclaim` meets before its checks and in them; a writeback that `cinv.t` waits for. -/
theorem wit_reclaimPages :
    let page := fun (va : Nat) => checkGlobal w0 0 0 0 true .store none va 64
    (match formAddress 0 0x1000000000000000 0 64 with | .error _ => true | _ => false) = true ∧
    (match page 0x40000000 with | .absent _ => true | _ => false) = true ∧ (match page 0x20000 with | .ok xs _ => xs.headD 0 == 0x20000 | _ => false) = true ∧
    (match checkGlobal { w0 with mem := memSet w0.mem 0x3000 0x17 } 0 0 0 true .store none 0x20000 64 with | .trap _ => true | _ => false) = true ∧
    (match checkGlobal { w0 with dir := [(0x40, ⟨0, 0, 0, true, false⟩)] } 0 0 0 true .store none 0x20000 64 with | .poisoned => true | _ => false) = true ∧
    (windowsOf w0 0 t0).pantry = none ∧ (windowsOf (wGrp g0 [(0, tGrp)]) 0 tGrp).pantry = some 16400 ∧ (windowsOf (wGrp g0 [(0, tGrp)]) 0 tGrp).share = 2048 ∧
    translationWait { w0 with sliceMsgs := [msgAt .writeback .sent] } p0 = true ∧ translationWait w0 p0 = false := by decide +kernel
/-- SupervisorInstructions: a line on its way through a translation that `cinv.t` takes away, and through one that it does not; the line
of a reclaim stands at its home as one that dies share. -/
theorem wit_coming :
    let s : State := { w0 with sliceMsgs := [msgAt .read .sent] }
    comingThrough s p0 (tlbRange 0x20000 0x100000000) = true ∧ comingThrough s p0 (tlbRange 0x40000 0x100000000) = false ∧ translationWait s p0 = false ∧
    (linesGoing s p0 (tlbRange 0x20000 0x100000000)).any (fun l => lineMsg s l.1 l.2) = false := by decide +kernel
/-- ThreadControl: stores that cannot land, for a line another die has asked for. -/
theorem wit_killBlocked : killBlocked { w0 with homeTx := [⟨0x800, 1, .read, true, 0, []⟩] } 1 { t0 with sb := [eSt] } = true ∧ killBlocked w0 1 t0 = false := by
  decide +kernel
theorem wit_lprq : w0.launchOf 0 0 = none ∧ (wGrp g0 []).launchOf 0 0 = some l0 ∧ l0.request = false ∧ l0.saved = false ∧ l0.restoring = false ∧
    ({ wGrp g0 [] with launches := [{ l0 with saved := true }] } : State).launchOf 0 0 = some { l0 with saved := true } := by decide +kernel

/-! ## Engine commands -/

/-- The thread of a group, whose first engine register names a guard word at offset 8 of its pantry. -/
def tCtl : Thread := { tGrp with e := t0.e.set 0 0x80000080 }
theorem readyCtl (i : Instr) : CanIssue (wGrp g0 [(0, tCtl)]) i tCtl :=
  readyS (by simp [wGrp, w0, State.reset, State.thread, alGet]) (by show t0.blocked 0 = false; decide +kernel) (by show t0.gs = _; decide +kernel) rfl
    (by show t0.super = true; decide +kernel) i
def cpyI : Instr := .cpy 4 0 false false false
/-- A thread of the same core whose command issued before and has still to enter its queue. -/
def wBefore : State := { w0 with threads := [(0, t0), (1, { t0 with guard := some (wordOf cpyI), stamp := 7 })] }
/-- EngineCommandsIssue: a full queue; a block that runs past e15 and one that does not; no guard word and one; no gang. -/
theorem wit_commands : queueFull { w0 with cmds := List.replicate (queueDepth 0) (cmdOf cpyI 0 [] 0) } 0 t0 0 = true ∧ queueFull w0 0 t0 0 = false ∧
    (blockSize cpyI ≠ 0 ∧ 16 < bits (12 : Word) 0 4 + blockSize cpyI ∧ ¬ 16 < bits (11 : Word) 0 4 + blockSize cpyI) ∧ t0.gang = none ∧
    entersBefore w0 0 0 w0.fresh = false ∧ entersBefore wBefore 0 0 wBefore.fresh = true ∧
    commandTrap w0 0 t0 cpyI = none ∧ guarded (blockOf t0 cpyI) = false ∧ commandTrap (wGrp g0 [(0, tCtl)]) 0 tCtl cpyI = none ∧
    guarded (blockOf tCtl cpyI) = true := by decide +kernel
/-- EngineCommandsIssue: a guard word's read. -/
theorem wit_guard :
    let t := { tCtl with guard := some (wordOf cpyI) }
    let s := wGrp g0 [(0, t)]
    let xs := span (16400 * bankSize + 8) 8
    s.thread 0 = some t ∧ t.stopped s 0 = false ∧ entersBefore s 0 0 t.stamp = false ∧ guarded (blockOf t cpyI) = true ∧ (decode (wordOf cpyI)).toOption = some cpyI ∧ guardPlaces (windowsOf s 0 t) ((blockOf t cpyI).getD 0 0) = some xs ∧
    queueFull s 0 t 0 = false ∧ olderTouches s 0 t s.fresh xs = false ∧ (∀ x ∈ xs, s.poisoned (s.resolve (.thread 0) x) = false) ∧ (readMove s 0 t xs [] 1 (queueScope 0)).isSome = true := by decide +kernel
/-- EngineCommandsIssue: a command with no guard that waits for one that issued before it, and one that waits no more. -/
theorem wit_waitsToEnter :
    let u := { t0 with guard := some (wordOf cpyI), stamp := 8 }
    let s := { wBefore with threads := [(0, u), (1, { t0 with guard := some (wordOf cpyI), stamp := 7 })] }
    u.stopped s 0 = false ∧ (decode (wordOf cpyI)).toOption = some cpyI ∧ guarded (blockOf u cpyI) = false ∧ entersBefore s 0 0 u.stamp = true ∧
    entersBefore s 1 0 7 = false ∧ queueFull s 1 t0 0 = false := by decide +kernel
/-- EngineCommandsIssue: four members with equal commands, and with one that differs; slots that `tclm` may claim and not. -/
def tMember (a : Word) : Thread := { tGang with gangCmd := some ⟨wordOf (.tclm 4 false), a, 0, [], 0⟩ }
def wMembers (a b : Word) : State := { wGang [] with threads := [(0, tMember a), (128, tMember a), (256, tMember a), (384, tMember b)] }
theorem wit_gangCommands :
    (gathered (wMembers 31 31) gang0).map (fun ms => (ms.map (·.1), mismatch ms)) = some ([0, 128, 256, 384], 0) ∧
    (gathered (wMembers 31 30) gang0).map mismatch = some 8 ∧ (wMembers 31 31).gangOf 0 3 = some gang0 ∧ (decode (wordOf (.tclm 4 false))).toOption = some (.tclm 4 false) ∧
    badSlot (wMembers 31 31) 0 3 (.tclm 4 false) 31 [] = false ∧ badSlot (wMembers 32 32) 0 3 (.tclm 4 false) 32 [] = true ∧ guarded [] = false ∧
    gatheredBefore (wMembers 31 31) 0 3 0 = false ∧ gangTrap (wGang []) 0 tGang = none ∧ commandTrap (wGang []) 0 tGang (.tclm 4 false) = none := by decide +kernel
/-- EngineCommandsIssue: a gang command whose control word names a guard word of the members' pantry. -/
def tGuard : Thread := { tGrp with gang := some 3, gangCmd := some ⟨wordOf (.acst 4 5 false false), 1, 0, [0x80000080, 0, 0, 0], 0⟩ }
def wGuard : State := { wGrp g0 [(0, tGuard), (128, tGuard), (256, tGuard), (384, tGuard)] with gangs := [gang0] }
theorem wit_gangGuard :
    let xs := span (16400 * bankSize + 8) 8
    ((gathered wGuard gang0).map (fun ms => (ms.map (·.1) == [0, 128, 256, 384] && mismatch ms == 0 && !(gatheredBefore wGuard 0 3 (lastStamp ms)) &&
      ms.all (fun m => !(olderTouches wGuard m.1 m.2.1 wGuard.fresh xs)) && (gangGuard wGuard xs [] ms).isSome)) = some true) ∧
    (decode (wordOf (.acst 4 5 false false))).toOption = some (.acst 4 5 false false) ∧ badSlot wGuard 0 3 (.acst 4 5 false false) 1 [0x80000080, 0, 0, 0] = false ∧
    guarded [0x80000080, 0, 0, 0] = true ∧ guardPlaces (windowsOf wGuard 0 tGuard) 0x80000080 = some xs ∧
    (∀ x ∈ xs, tGuard.forwards x = false ∧ wGuard.poisoned (wGuard.resolve (.thread 0) x) = false) := by decide +kernel
/-- EngineCommandsIssue: blocks that fail each check, in their order: the block's start, the control word's reserved bits, its arrival word
(no space, misaligned, outside), its guard (no space, misaligned, outside), a mode that no class has. -/
theorem wit_commandTraps : (let trapOf := fun (c b : Word) => (commandTrap (wGrp g0 [(0, tCtl)]) 0 { (tCtl.setG 0 0) with g := tCtl.g.set 5 b, e := t0.e.set 0 c }
      (.cpy 4 5 false false false)).map (fun r => (r.cause, r.sub))
    [trapOf 0 12, trapOf 1 0, trapOf (wd (5 * 2 ^ 61)) 0, trapOf (wd (2 * 2 ^ 61 + 4 * 2 ^ 33)) 0, trapOf (wd (2 * 2 ^ 61 + 2048 * 2 ^ 33)) 0,
      trapOf (wd (5 * 2 ^ 30)) 0, trapOf (wd (2 * 2 ^ 30 + 4 * 16)) 0, trapOf (wd (2 * 2 ^ 30 + 2048 * 16)) 0] =
      [some (12, 8), some (12, 10), some (12, 7), some (4, 0), some (7, 0), some (12, 6), some (4, 0), some (7, 0)]) ∧
    (commandTrap (wGang []) 0 tGang (.mma 4 5 false false 3 false true)).map (fun r => (r.cause, r.sub)) = some (12, 9) := by decide +kernel
/-- EngineCommandsRun: a command that may start; one that performs; one of count 0. -/
def cRun (n : Nat) : Command := { cmdOf cpyI 0 [0, 0x20000, 0x21000, 0, 0] n with started := true }
theorem wit_engineRuns : (let c := cmdOf cpyI 0 [0, 0x20000, 0x21000, 0, 0] 0
      (wCmd c).cmds.find? (fun x => x.id == c.id && !x.started) = some c ∧ c.queue < savedQueue ∧ firstInLane (wCmd c) c = true ∧ c.waits = [] ∧ slotClear (wCmd c) c = true ∧
      ownerForced (wCmd c) c = false) ∧
    (wCmd (cRun 1)).cmds.find? (fun x => x.id == 700 && x.started && !x.sent && decide (x.queue < savedQueue)) = some (cRun 1) ∧
    endsNow (wCmd (cRun 1)) (cRun 1) = true ∧ bits ((cRun 0).reg 0) 61 3 = 0 ∧ (cRun 0).block ≠ [] ∧
    (match performCommand (wCmd (cRun 1)) (cRun 1) [] 0 0 with | .inl r => r.status != Stop.wait | _ => false) = true := by decide +kernel
/-- A command whose arrival word lies at offset 8 of its pantry, with a status word after it. -/
def cArr (a : Word) : Command :=
  { cmdOf cpyI 0 [a, 77, 0x20000, 0x21000, 0] 1 with started := true, win := ⟨16384, 4096, some 16400, none, 2048, 0, 0, none⟩ }
def wArr : State := { wCmd (cArr 0) with banks := [16384, 16400] }
/-- EngineCommandsRun: the words of a command that updates its arrival word, and of one that writes its status as well. -/
theorem wit_arrivals : (let c := cArr (wd (2 * 2 ^ 61 + 2 ^ 59 + 8 * 2 ^ 33))
    bits (c.reg 0) 61 3 = 2 ∧ bits (c.reg 0) 33 26 = 8 ∧ bit (c.reg 0) 59 = true ∧ bit (c.reg 0) 60 = false ∧
    (let x := 16400 * bankSize + 8
     wordPlaces wArr c.win 2 8 = some (span x 8) ∧ wordPlaces wArr c.win 2 16 = some (span (x + 8) 8) ∧ (∀ z ∈ span x 8, z ∉ span (x + 8) 8) ∧
     ∀ y ∈ span x 16, bankOf y ≠ 0 ∧ bankOf y ≠ 9 ∧ wArr.live y = true ∧ wArr.poisoned y = false)) := by decide +kernel
/-- EngineCommandsRun: blocks that each check stops, by command: the status code. -/
def stopOf (i : Instr) (block : List Word) (n : Nat) : Nat :=
  match performCommand w0 { cmdOf i 0 block n with started := true } [] 0 0 with | .inl d => d.status.code | .inr _ => 0
theorem wit_engineStops :
    let f := fun (k : Nat) => wd (0x20000 + k * 2 ^ 48)
    [stopOf cpyI [0, 0, f 2, f 2, 5] 1, stopOf cpyI [0, 0, f 19, f 2, 0] 1, stopOf cpyI [0, 0, f 2, f 6, 0] 1, stopOf cpyI [0, 0, f 2, f 2, 128] 1] = [16, 17, 17, 18] ∧
    [stopOf (.gath 1 2 false false) [0, 0, f 2, f 4, f 2, 0x500] 1, stopOf (.gath 1 2 false false) [0, 0, f 2, f 3, f 2, 0] 1,
      stopOf (.scat 1 2 false false) [0, 0, f 2, f 5, f 2, 8] 1] = [16, 17, 18] ∧
    [stopOf (.qnt 1 2 false false false) [0, 0, f 7, f 15, 0x50000000] 4, stopOf (.qnt 1 2 false false false) [0, 0, f 6, f 15, 0] 4,
      stopOf (.qnt 1 2 false false false) [0, 0, f 7, f 15, 0x80000000] 4] = [16, 17, 18] ∧
    [stopOf (.slsend 1 2 false false) [0, 0, f 2, f 2, 0x900] 4, stopOf (.slsend 1 2 false false) [0, 0, f 2, f 2, 0x1000] 4,
      stopOf (.slsend 1 2 false false) [0, 0, f 2, f 2, 5] 4] = [6, 18, 16] := by decide +kernel
theorem wit_matrixStops :
    let f := fun (k : Nat) => wd (0x20000 + k * 2 ^ 48)
    [stopOf (.tld 1 2 false false) [0, 0, f 2, wd (5 * 2 ^ 40)] 1, stopOf (.tld 1 2 false false) [0, 0, f 3, 0] 1,
      stopOf (.tld 1 2 false false) [0, 0, f 2, 0] 129] = [16, 17, 18] ∧
    [stopOf (.acst 1 2 false false) [0, 0, f 2, wd (5 * 2 ^ 40)] 1, stopOf (.acld 1 2 false false) [0, 0, f 2, wd (2 ^ 53)] 1] = [16, 18] ∧
    stopOf (.mma 1 2 false false 3 false false) [0, 0, 0] 1 = 17 := by decide +kernel
/-- EngineCommandsRun: q.mx commands of a whole gang, the first of their queue. -/
theorem wit_mxRuns : (let c := { cmdOf (.tclm 4 false) (mxQueue 0 3) [] 0 with started := true }
    let s := wGang [c]
    s.cmds.find? (fun x => x.id == 700 && x.started && !x.sent && decide (x.queue < savedQueue)) = some c ∧ mayEnd s c = true ∧ c.block = [] ∧
    s.gangOf (rowOfQueue c.queue) (gangOfQueue c.queue) = some gang0 ∧ gang0.left.length < 4 ∧ gang0.broken = none ∧ c.instr = some (.tclm 4 false)) := by decide +kernel

/-! ## Operands -/

/-- An operand of tag 0 in flight to slice 0. -/
def opd (id : Nat) (place : OperandPlace) : Operand :=
  ⟨id, 0, 0, 0, 0, ⟨0, 0x20000, win0, 0, true, 0, 0⟩, [1, 2, 3, 4], 0, place, 0, [], none, 0⟩
def wOpd (m : List Host.Cell) (l : List Operand) : State := { w0 with mem := m, operands := l }
theorem wOpd_ranges (l : List Operand) : tagRanges (wOpd wTag.mem l) p0 = [range0] ∧ tagRanges (wOpd w0.mem l) p0 = [] := ⟨wTag_ranges, w0_ranges⟩
/-- What the delivery of a returned operand does: it waits for its queue (false), or is written and reported (true). -/
def returns (s : State) (o : Operand) (code : Nat) : Option Bool :=
  let d : Machine.Delivery := ⟨o.id, [(o, ⟨code, 0, 0⟩)], o.bytes s, 0, false, o.front, none, none, []⟩
  let s1 : State := { countOutcome s o code with operands := s.operands.filter (fun x => x.id != o.id), deliveries := s.deliveries ++ [d] }
  let w := writeCells o.port o.dest.space o.dest.ptr (d.units o) s1 (o.queueFront s1 o.front)
  if !(s.deliveries.all (fun x => x.id != o.id)) then none
  else if o.mayEnd s1 then (if w.stop.isNone && o.mayEnd w.st && !(o.late w.st) then some true else none)
  else some false
/-- An operand whose sender's arrival and status words lie in its pantry. -/
def opdArr : Operand := { opd 800 .flying with
  dest := ⟨0, 0x20000, ⟨16384, 4096, some 16400, none, 2048, 0, 0, none⟩, 0, true, wd (2 * 2 ^ 61 + 2 ^ 59 + 8 * 2 ^ 33), 0⟩ }
/-- SluiceOperands: an operand whose command is not yet the first of its queue; one whose words stand; a delivery that goes on later. -/
theorem wit_deliveries :
    (let c := fun (id : Nat) => ({ cmdOf (.slsend 4 0 false false) 3 [0, 0, 0, 0, 0] 4 with id := id, started := true, kg := if id = 800 then 1 else 0 } : Command)
     returns { wOpd w0.mem [opd 800 .flying] with cmds := [c 799, c 800] } (opd 800 .flying) 5 = some false) ∧
    (let s := { wOpd w0.mem [opdArr] with banks := [16384, 16400] }
     let x := 16400 * bankSize + 8
     returns s opdArr 5 = some true ∧ opdArr.destLive s = true ∧ bits opdArr.dest.arrival 61 3 = 2 ∧ bits opdArr.dest.arrival 33 26 = 8 ∧ bit opdArr.dest.arrival 59 = true ∧
     wordPlaces s opdArr.dest.win 2 8 = some (span x 8) ∧ wordPlaces s opdArr.dest.win 2 16 = some (span (x + 8) 8) ∧ (∀ z ∈ span x 8, z ∉ span (x + 8) 8) ∧
     ∀ y ∈ span x 16, bankOf y ≠ 0 ∧ bankOf y ≠ 9 ∧ s.live y = true ∧ s.poisoned y = false) ∧
    (let d : Machine.Delivery := ⟨800, [(opd 800 .flying, ⟨5, 0, 0⟩)], [1, 2, 3, 4], 0, false, [], none, none, []⟩
     let s := { wOpd w0.mem [] with deliveries := [d] }
     s.operands.find? (fun x => x.id == d.id && x.place == .flying) = none ∧ s.deliveries.find? (fun x => x.id == d.id) = some d) := by decide +kernel
/-- SluiceOperands: two deliveries of one result, of which the first is written and the other is not. -/
theorem wit_mates : (let d : Machine.Delivery := ⟨800, [(opd 800 .flying, ⟨1, 0, 1⟩)], [1, 2, 3, 4], 4, true, [], none, some 801, []⟩
    let x : Machine.Delivery := ⟨801, [(opd 801 .flying, ⟨1, 0, 0⟩)], [1, 2, 3, 4], 0, false, [], none, some 800, []⟩
    let s := { wOpd w0.mem [] with deliveries := [d, x] }
    x ∈ s.deliveries ∧ d.mate = some x.id ∧ x.written = false ∧ d.allWritten s = false ∧
    d.allWritten { s with deliveries := [d, { x with written := true }] } = true) := by decide +kernel
/-- SluiceOperands: a dead and a live tag; the first and the second operand of a tag; one whose timeout is over. -/
theorem wit_operands :
    (let s := wOpd w0.mem [opd 800 .flying]
     s.partition 0 = some p0 ∧ s.operands.find? (fun x => x.id == 800 && x.place == .flying) = some (opd 800 .flying) ∧
     s.operands.find? (fun q => q.waits && q.part == 0 && q.tag == 0) = none ∧ s.markers = [] ∧ returns s (opd 800 .flying) 5 = some true) ∧
    (let s := wOpd wTag.mem [opd 800 .flying, opd 801 .store]
     s.operands.find? (fun q => q.waits && q.part == 0 && q.tag == 0) = some (opd 801 .store) ∧
     s.operands.any (fun q => q.waits && q.part == 0 && q.tag == 0 && (q.due s || (q.arrived == s.time && decide (q.sender > 0)))) = false ∧
     sameDest (opd 800 .flying) (opd 801 .store) = true ∧ s.deliveries = []) := by decide +kernel
/-- SluiceOperands: a tag with an orphan's marker; a first operand of another size; a full store, overflow slots free and not; an outcome
that can be given. -/
theorem wit_operandOutcomes :
    (let s := { wOpd wTag.mem [opd 800 .flying] with markers := [(0, 0, 0)] }
     returns { s with markers := [] } (opd 800 .flying) 3 = some true ∧ s.overtaken 2 (tagPlace 0 0) 2 = false) ∧
    (let w := { opd 801 .store with data := [1, 2, 3, 4, 5, 6, 7, 8] }
     let s := wOpd wTag.mem [opd 800 .flying, w]
     w.before (opd 800 .flying) = false ∧ returns s (opd 800 .flying) 6 = some true ∧ returns (returnOperand s (opd 800 .flying) 6) w 6 = some true) ∧
    (let full := (List.range 16).map (fun k => { opd (900 + k) .store with tag := k + 1 })
     let s := wOpd wTag.mem (opd 800 .flying :: full)
     s.operands.find? (fun q => q.waits && q.part == 0 && q.tag == 0) = none ∧ (s.operands.filter (fun q => q.slice == 0 && q.waits && q.place == .store)).length = 16 ∧
     p0.ovfSize / 8256 = 2 ∧ s.operands.any (fun q => q.part == 0 && q.place == .overflow 0) = false ∧
     [opd 950 (.overflow 0), opd 951 (.overflow 1)].any (fun q => q.part == 0 && q.place == .overflow 1) = true ∧
     returns s (opd 800 .flying) 4 = some true) := by decide +kernel
theorem wit_operandTags : rangeOf (wOpd w0.mem []) p0 0 = none ∧ rangeOf (wOpd wTag.mem []) p0 63 = some range0 ∧ rangeOf (wOpd wTag.mem []) p0 64 = none := by
  simp only [rangeOf, (wOpd_ranges []).1, (wOpd_ranges []).2]; decide +kernel
theorem wit_operandDue : (opd 801 .store).due { wOpd wTag.mem [opd 801 .store] with time := 2000000 } = true ∧
    returns { wOpd wTag.mem [opd 801 .store] with time := 2000000 } (opd 801 .store) 2 = some true := by decide +kernel

end Sys2Proof.Tests
end

