-- ==== Sys2Proof/Tests/WitnessMoves.lean ====
section
/-! SUPPORT. Witnesses for the statements about the machine's own moves: picks, coherence, launches, the fabric, the monitor. -/
namespace Sys2Proof.Tests
set_option Elab.async false
open Sys2Proof Sys2Proof.Machine

/-! ## Picks, lingering, walks -/

/-- A core in wide merge, a waiting limit of `l`. -/
def wWide (m : Word) : State := { wCode 0x36000000 with issue := [], cores := [(0, { Core.init with merge := m })] }
/-- PicksAndWalks: a ring of one ready thread, in ring order and in wide merge; a linger whose time is over and one that is met;
an address mapped and one not. -/
theorem wit_picks : mayPick (wWide 0x801) 0 false = true ∧ ((readyRing (wWide 0x801) 0 false 0).map (·.1)) = [0] ∧ ((wWide 0x801).core 0).wide = true ∧
    mustRing (wWide 0x801) 0 false (readyRing (wWide 0x801) 0 false 0) = false ∧ ((wWide 0).core 0).wide = false ∧ releaseDue (wWide 0x801) 0 = false ∧
    releaseDue { wWide 0x801 with threads := [(0, { t0 with linger := some 0 })], time := 1 } 0 = true := by decide +kernel
def tLing (e : Word) : Thread := { t0 with linger := some e }
theorem wit_linger : (tLing 5).linger = some 5 ∧ (5 : Word).toNat < (6 : Word).toNat ∧ lingerMet { w0 with threads := [(0, tLing 5), (1, t0)] } 0 (tLing 5) = true ∧
    lingerMet { w0 with threads := [(0, tLing 5)] } 0 (tLing 5) = false := by decide +kernel
theorem wit_walk : walkWaits w0 0 0 0 0x3FFFFFFF 1 = false ∧ walkWaits wWalks 0 0 0 0x3FFFFFFF 1 = true ∧ p0.dies.contains 0 = true ∧ (match xlate w0 0 0 0 0x3FFFFFFF with | .page pa _ => pa == 0x3FFFFFFF | _ => false) = true ∧
    (match xlate w0 0 0 0 0x40000000 with | .page _ _ => false | _ => true) = true := by decide +kernel
theorem test_pick : (nextOf (exec (.issuePick 0 false ⟨[], [], [], []⟩) (wWide 0))).map (fun s => (s.issue, (s.core 0).ptr false)) = some ([0], 1) := by decide +kernel

/-! ## Coherence -/

def lineW (l : List L2Line) (e : DirEntry) : State := { wCache with l2 := l, dir := [(0x800, e)] }
def l2Of (die : Nat) (m : Bool) : L2Line := ⟨die, 0x800, 0x800, 0, ⟨false, true, false, false, true, true, true⟩, m⟩
def txOf (recalled : Bool) : HomeTx := ⟨0x800, 1, .read, true, 0, [(0, recalled, 0)]⟩
/-- CoherenceMoves: a die that needs a line it does not hold; messages sent; entries in state 0, 1 and 2; a held line; holders
that a served request waits for, recalled and not; error invalidates; a message whose time is over. -/
theorem wit_coherence :
    (let s := { lineW [] ⟨0, 0, 0, false, false⟩ with threads := [(0, tWith eLd)] }
     s.homeTx = [] ∧ msgOf s 0 0x800 = none ∧ s.overtaken 0 0x800 0 = false ∧ s.held 0 0x800 = false ∧
     (askReach s 0 0x800 false .access).map (fun r => (r.1, r.2.1)) = some (0x20000, 0) ∧ askReach s 0 0x801 false .access = none ∧
     askReach s 0 0x40 false (.thread 0 0x20000) = some (64 * 0x40, 0, tableAttrs)) ∧
    (let s := { lineW [] ⟨0, 0, 0, false, false⟩ with threads := [(0, tWith eAmo)] }
     s.owns 0 0x800 = false ∧ (askReach s 0 0x800 true .access).isSome = true) ∧
    (let s := { wCmd { cmdOf (.cpy 4 0 false false false) 0 [] 0 with started := true } with mem := wCache.mem }
     (askReach s 0 0x800 true (.command 700 0x20000)).map (fun r => (r.1, r.2.1, r.2.2.c)) = some (0x20000, 0, true) ∧
     askReach s 0 0x800 true (.command 701 0x20000) = none) ∧
    (⟨0, 1, 0, false, false⟩ : DirEntry).agrees = false ∧ (⟨1, 2, 0, false, false⟩ : DirEntry).holds 1 = true ∧ (⟨1, 2, 0, false, false⟩ : DirEntry).holds 0 = false ∧
    ([⟨0, 0, 0, false, false⟩, ⟨1, 2, 0, false, false⟩, ⟨2, 2, 0, false, false⟩] : List DirEntry).all (fun e =>
      let s := lineW [] e
      s.dirEntry 0x800 == e && !(e.isFenced 0) && !e.poison && e.agrees) = true ∧
    ((lineW [l2Of 0 false] ⟨1, 1, 0, false, false⟩).held 0 0x800 = true ∧ (⟨1, 1, 1, false, false⟩ : DirEntry).isFenced 0 = true) ∧
    (⟨1, 1, 0, false, false⟩ : DirEntry).holderList.filter (· != 0) = [] ∧ (⟨1, 3, 0, false, false⟩ : DirEntry).holderList.filter (· != 0) = [1] := by decide +kernel
theorem wit_waits0 : (∀ r, ({ w0 with homeTx := [txOf r] } : State).homeTx = [txOf r]) ∧ waitOf { w0 with homeTx := [txOf true] } 0 0x800 = some (txOf true, true, 0) ∧
    waitOf { w0 with homeTx := [txOf false] } 0 0x800 = some (txOf false, false, 0) ∧ atomicAt { w0 with homeTx := [txOf true] } 0 0x800 = false ∧
    atomicAt { lineW [l2Of 0 true] ⟨2, 1, 0, false, false⟩ with homeTx := [txOf true], threads := [(0, tWith eAmo)] } 0 0x800 = true ∧
    40 ≤ ((40 : Word) - 0).toNat ∧ 2 ^ w0.mon.homeK ≤ ((0x100000 : Word) - 0).toNat := by
  refine ⟨fun _ => rfl, by decide +kernel, by decide +kernel, by decide +kernel, by decide +kernel, by decide, by decide +kernel⟩
theorem wit_invalidates : (let s := { w0 with errInv := [⟨0x800, 0, 0, false⟩, ⟨0x801, 0, 0, true⟩], sliceMsgs := [msgAt .read .sent], time := 0x200000 }
    s.errInv.map (fun x => (x.line, x.die, x.received)) = [(0x800, 0, false), (0x801, 0, true)] ∧ 2 ^ s.mon.homeK ≤ (s.time - 0).toNat ∧
    (msgOf s 0 0x800).any (fun m => m.stage != .home && decide (2 * 2 ^ s.mon.homeK ≤ (s.time - m.sentAt).toNat)) = true) := by decide +kernel
theorem test_homeReadMiss : (nextOf (exec (.homeReadMiss 0 ⟨0x800, .access⟩) { lineW [] ⟨0, 0, 0, false, false⟩ with threads := [(0, tWith eLd)], sliceMsgs := [msgAt .read .sent] })).map
    (fun s => ((msgOf s 0 0x800).map (·.stage), (s.dirEntry 0x800).state)) = some (some .answered, 1) := by decide +kernel

/-- CoherenceMoves: messages of each kind at each place of theirs, and an entry fenced for their die. -/
theorem wit_messages : (let at' := fun (k : HomeKind) (g : MsgStage) => ({ w0 with sliceMsgs := [msgAt k g] } : State)
    (∀ k ∈ [HomeKind.read, .upgrade, .writeback, .notice], ∀ g ∈ [MsgStage.sent, .answered],
      (msgOf (at' k g) 0 0x800).map (fun m => (m.kind, m.stage)) = some (k, g) ∧ (at' k g).overtaken 0 0x800 0 = false ∧ (at' k g).homeTx = []) ∧
    msgOf w0 0 0x800 = none) ∧ answerBarred w0 0 0x800 0 = false ∧ (⟨1, 1, 1, false, false⟩ : DirEntry).isFenced 0 = true ∧
    (⟨1, 1, 0, false, false⟩ : DirEntry).isFenced 0 = false := by decide +kernel

/-! ## Launches -/

/-- LaunchMoves: a ready group that fits; a thread that has drained and quits; reports up and down. -/
def wReady : State := { w0 with launches := [l0], mem := memSet w0.mem 0x700040 8 }
theorem wit_placement : wReady.partition 0 = some p0 ∧ Memory.wf wReady.mem = true ∧ wReady.launches.any (fun l => l.part == 0 && l.restoring) = false ∧
    (choosePlacement wReady p0 [] (readyGroups wReady 0)).map (fun x => (x.1.2, x.2.1)) = some (0, 0) ∧ wReady.groups = [] := by decide +kernel
theorem wit_quit : quitDrained (withT { t0 with quitting := true }) 0 { t0 with quitting := true } = true ∧
    yieldDrained (withT { tGrp with yielding := true }) 0 { tGrp with yielding := true } = true := by decide +kernel
theorem wit_reports : nodeAbove 3000 = 4000 ∧ nodeAbove 0 ≠ 4000 ∧ (wGrp { g0 with counts := [(4000, 1), (2000, 1)], reports := [(3000, false), (0, true)] } []).group 1 =
      some { g0 with counts := [(4000, 1), (2000, 1)], reports := [(3000, false), (0, true)] } ∧
    ({ g0 with counts := [(4000, 1), (2000, 1)] } : Group).countAt 4000 = 1 ∧ ({ g0 with counts := [(4000, 1), (2000, 1)] } : Group).countAt (nodeAbove 0) ≠ 0 ∧
    (wGrp g0 []).launchOf 0 0 ≠ none := by decide +kernel
/-- Memory with rings of 16 entries for the queues 0 and 2, the first with `n` records in it. -/
def mRing (n : Nat) : List Host.Cell :=
  ([(0x100000, 0x110000), (0x100008, 4), (0x100010, n), (0x100080, 0x120000), (0x100088, 4)] : List (Nat × Nat)).foldl (fun m e => poke m e.1 8 e.2) w0.mem
def app0 : Append := ⟨0, 0, none, 5, 0, 0, none, false, false, []⟩
def wRing (n : Nat) : State := { w0 with mem := mRing n, appends := [app0] }
theorem wit_rings : Memory.wf (mRing 0) = true ∧ (wRing 0).appends.find? (fun x => x.part == 0 && x.queue == 0) = some app0 ∧
    (ringOf (wRing 0) p0 0).map (fun r => (r.used, r.entries, recordWritable (wRing 0) p0 0 r, decide (queueDesc p0 0 + 64 ≤ r.slot 0))) = some (0, 16, true, true) ∧
    (ringOf (wRing 16) p0 0).map (fun r => (r.used, r.entries)) = some (16, 16) := by decide +kernel
/-- A forced thread of a group, and a launch asked to yield. -/
def tForced : Thread := { tGrp with forced := true }
def wPre (g : Group) (l : Launch) (ts : List (Nat × Thread)) (sv : List SavedThread) : State := { w0 with launches := [l], groups := [g], threads := ts, saved := sv }
theorem wit_preempt : forceDue { wGrp { g0 with deadline := some 4 } [(0, tGrp)] with time := 5 } { g0 with deadline := some 4 } = true ∧
    (let g := { g0 with deadline := some 4 }
     groupSavable { wPre g { l0 with request := true } [(0, tForced)] [] with time := 5 } g { l0 with request := true } = true) ∧
    (let g := { g0 with saved := true }
     let l := { l0 with saved := true, restoring := true, ctxsize := 0 }
     let s := wPre g l [] [⟨0, 1, tForced, true⟩]
     s.group 1 = some g ∧ s.launchOf 0 0 = some l ∧ restorable s g l = true ∧ contextChanged s l = false ∧ ((savedOf s g).map (·.loc)).Nodup) := by decide +kernel
theorem test_append : (nextOf (exec (.queueRecordAppend 0 0) (wRing 0))).map (fun s => (peek s 0x100010 8, s.appends.length, peek s 0x110000 8)) = some (1, 0, 5) := by decide +kernel

/-! ## The fabric -/

/-- A partition with a port, a job and a peer; windows of 4,096 bytes at 0x20000 under key 7 to read and write, an outbound ring. -/
def pF : Partition := { p0 with desc := p0.desc.set 22 0x901 }
def mFab : List Host.Cell :=
  ([(0x510000, 0x140000), (0x510008, 4), (0x510010, 1), (0x520000, 0x70007), (0x520008, 0x20000), (0x520010, 4096), (0x530000, 99), (0x530010, 1),
    (0x140000, 0x400000001), (0x140008, 0x20000), (0x140020, 0x150000)] : List (Nat × Nat)).foldl (fun m e => poke m e.1 8 e.2) (mRing 0)
def wFab : State := { w0 with parts := [pF], mem := mFab }
def pkt (key off : Nat) (data : List Byte) : Packet := ⟨0, 9, 99, 0, .ordered, key, off, 4, data⟩
theorem wit_fabric : Memory.wf mFab = true ∧ (admitted wFab (pkt 7 4092 [1, 2, 3, 4])).map (·.2) = some 0 ∧ admitted wFab { pkt 7 0 [] with jobid := 8 } = none ∧
    window wFab pF (pkt 7 4092 []) true = some 0x20FFC ∧ window wFab pF (pkt 7 4092 []) false = some 0x20FFC ∧ pF.hasBytes 0x20FFC 4 = true ∧
    homeReady wFab 0x20FFC 4 = true ∧ watchBlocked wFab (span 0x20FFC 4) none 4 = false ∧ (∀ y ∈ span 0x20FFC 4, (wFab.dirEntry (y / 64)).poison = false) ∧
    wFab.rmas = [] ∧ pF.hasBytes 0x20FFC 4 = true ∧ linesOf 0x20FFC 4 = [0x83F] ∧
    (∀ y ∈ span 0x20FFC 4, wFab.poisoned y = false ∧ valueOf (wsGet wFab y) (newestId (wsGet wFab y)) = memGet wFab.mem y ∧
      mayChoose wFab [] false (newestChoice wFab ((span 0x20FFC 4).filter (fun z => z / 8 == y / 8))) = true) := by decide +kernel
/-- FabricMoves: a write whose units have no more room for its records stops where it has got to, at its start or after a line, and goes on. -/
theorem wit_rmaParts :
    let full : State := { wFab with
      appends := List.replicate 64 { app0 with unit := some (watchUnit wFab 0x20FC0 none) }
      mem := poke (poke mFab pF.watchtab 8 0x20F80) (pF.watchtab + 8) 8 (1 + 2 ^ 20 + 2 ^ 63) }
    let writes := fun (s : State) (n : Nat) => (lineWrites pF 0x20FC0 8 [1, 2, 3, 4, 5, 6, 7, 8] (peerWrite pF 0) (linesOf (0x20FC0 + n) (8 - n)) s n).2
    writes wFab 0 = 8 ∧ writes wFab 4 = 8 ∧ writes full 0 = 0 ∧ writes { full with appends := full.appends.drop 1 } 0 = 8 ∧
    (lineWrites pF 0x20FB8 16 (List.replicate 16 1) (peerWrite pF 0) (linesOf 0x20FB8 16) { full with appends := full.appends.drop 1 } 0).2 = 8 ∧
    (let r : PeerPart := ⟨pkt 7 4032 [1, 2, 3, 4], 0, 0, 0x20FC0, 2⟩
     ({ wFab with rmas := [r] } : State).rmas.find? (fun q => q.pkt == r.pkt) = some r ∧ ({ wFab with rmas := [r] } : State).partition r.part = some pF) := by decide +kernel
theorem wit_outside : window wFab pF (pkt 8 0 []) true = none ∧ window wFab pF (pkt 7 4093 []) false = none ∧
    (ringOf wFab pF 2).map (fun r => (r.used, r.entries, recordWritable wFab pF 2 r)) = some (0, 16, true) ∧ 240 < (List.replicate 241 (0 : Byte)).length := by decide +kernel
theorem wit_outbound : (outRing wFab pF).map (fun r => (r.producer, r.base, r.entries)) = some (1, 0x140000, 16) ∧ pF.outNext.toNat ≠ 1 ∧
    (outEntry wFab 0x140000).bad wFab pF = false ∧ (outEntry wFab 0x140000).op = 1 ∧ homeReady wFab (outEntry wFab 0x140000).loc (outEntry wFab 0x140000).length = true := by
  decide +kernel
theorem wit_completion : (let o : Outbound := ⟨0, 1, 4, 0x20000, 0x150000, 0, false⟩
    ({ pF with outbound := [o] } : Partition).inFlight 0 = some o ∧ homeReady wFab 0x150000 8 = true ∧ pF.hasBytes 0x150000 8 = true ∧
    (∀ y ∈ span 0x150000 8, (wFab.dirEntry (y / 64)).poison = false) ∧ 0x150000 + 8 ≤ pF.outq + 24) := by decide +kernel
theorem test_rmaWrite : (nextOf (exec (.rmaWrite ⟨pkt 7 4092 [1, 2, 3, 4], []⟩) wFab)).map (fun s => (peek s 0x20FFC 4, s.out.map (·.code))) = some (0x04030201, [0]) := by
  decide +kernel

/-! ## The monitor and the clock -/

/-- A mailbox request. -/
def wMail (code a b : Nat) : State :=
  { w0 with mem := ([(0x500000, 1), (0x500008, code), (0x500010, a), (0x500018, b)] : List (Nat × Nat)).foldl (fun m e => poke m e.1 8 e.2) w0.mem
            parts := [{ p0 with desc := p0.desc.set 21 8 }], carve := w0.carve.set 0 8 }
def mailIn (s : State) : Option (Mail × Bool) := (s.partition 0).bind (fun p => (mailOf s p).map (fun m => (m, m.bad p)))
/-- MonitorMoves: requests of every code, good and bad; a die with a launch's thread and one without; shares that fit and not. -/
theorem wit_mail : (mailIn (wMail 1 0 8)).map (·.2) = some false ∧ (mailIn (wMail 1 0 9)).map (·.2) = some true ∧ (mailIn (wMail 5 0 0)).map (·.2) = some true ∧
    (mailIn (wMail 3 0 64)).map (·.2) = some false ∧ (mailIn (wMail 4 0x550000 0)).map (·.2) = some false ∧ mailIn w0 = none := by decide +kernel
theorem wit_mailShares : launchOn w0 p0 0 = true ∧ launchOn { w0 with threads := [] } p0 0 = false ∧ cellarRoom [] 8 8 = some 0 ∧ cellarRoom [⟨0, 0, 1, 0⟩] 8 8 = none ∧
    (sharesOn w0 0).isEmpty = true ∧ (let p := { p0 with cellar := [⟨0, 0, 8, 0⟩] }
      (p.shareOn 0).isSome = true ∧ Mail.bad ⟨1, 2, 0, 8⟩ p = false ∧ Mail.bad ⟨1, 2, 0, 7⟩ p = true ∧ (sharesOn { w0 with parts := [p] } 0).isEmpty = false) := by decide +kernel
/-- MonitorMoves: a request in service, alone and with a later sequence written; a thread that comes to stand at its barrier. -/
theorem wit_serving : (let s := wMail 1 0 8
    let m : Mail := ⟨1, 1, 0, 8⟩
    mailIn s = some (m, false) ∧ (∀ p ∈ s.parts, p.serving = none) ∧
    (let p := { p0 with desc := p0.desc.set 21 8, serving := some { m with seq := 9 } }
     (mailOf { s with parts := [p] } p).map (·.seq) = some 1) ∧
    (let p := { p0 with desc := p0.desc.set 21 8, serving := some m }
     (mailOf { s with parts := [p] } p).map (·.seq) = some 1)) := by decide +kernel
theorem wit_stands : (let s := { wGrp g0 [(0, tGrp)] with mem := (wCode (wordOf .bar)).mem }
    (nextIssue s 0 tGrp).ready = false ∧ (nextIssue s 0 tGrp).instr = some .bar ∧
    ((nextOf (exec .bar { s with cur := 0 })).bind (fun s' => s'.thread 0)).map (·.atBar) = some true) := by decide +kernel
/-- MonitorMoves: a snapshot that is due; a cycle that is done. -/
theorem wit_clock : snapshotDue w0 p0 = some 0 ∧ cycleDone { w0 with threads := [], parts := [] } = true ∧ cycleDone w0 = false := by decide +kernel
/-! ## What engine commands move -/

/-- A started command of context 0's core queue, its word i, between places of the alcove. -/
def cAlc (i : Instr) (block : List Word) (n : Nat) : Command := { cmdOf i 0 block n with started := true }
/-- An engine pointer into the alcove. -/
def alcPtr (off fmt : Nat) : Word := wd (off + fmt * 2 ^ 48)
/-- EnginePayloads: units read and written in global space, on a page that is not cacheable and on one that is. -/
theorem wit_globalUnits : ∀ s ∈ [w0, wCache], (let q := (cAlc cpyI [] 0).port
    let p : Word := wd (0x20000 + 2 * 2 ^ 48)
    let xs := span 0x20008 8
    (match readUnit s q 0 p [] [] (span 8 8), engPlaces s q [] 0 p 8 8 .load with
      | .ok r, .ok ys => r.2.2.length == 8 && ys.1 == xs && (match engTouch s q 0 0x20008 ys.1 ys.2 false with
        | .ok s1 => xs.all (fun x => s1.resolve q.agent x == x && valueOf (wsGet s1 x) (newestId (wsGet s1 x)) == memGet s.mem x) &&
            mayChoose s1 (sawTags s1 q.agent (fun _ => false) [] ys.1 ys.2) false (newestChoice s1 xs)
        | _ => false)
      | _, _ => false) = true ∧
    (match writeUnit s q 0 p [] [(8, 1, 255), (9, 2, 255)], engPlaces s q [] 0 p 8 2 .store with
      | .ok _, .ok ys => ys.1 == xs.take 2 && (match engTouch s q 0 0x20008 ys.1 ys.2 true with
        | .ok s1 => (xs.take 2).all (fun x => s1.resolve q.agent x == x && s1.live x && decide (bankOf x ≠ 9)) | _ => false)
      | _, _ => false) = true) := by decide +kernel
/-- EnginePayloads: units read and written in the alcove. -/
theorem wit_units : (let q := (cAlc cpyI [] 0).port
    let xs := span (16384 * bankSize + 8) 8
    (match readUnit w0 q 1 (alcPtr 0 2) [] [] (span 8 8), engPlaces w0 q [] 1 (alcPtr 0 2) 8 8 .load with
      | .ok r, .ok ys => r.2.2.length == 8 && ys.1 == xs | _, _ => false) = true ∧
    (match writeUnit w0 q 1 (alcPtr 0 2) [] [(8, 1, 255), (9, 2, 255)], engPlaces w0 q [] 1 (alcPtr 0 2) 8 2 .store with
      | .ok _, .ok ys => ys.1 == xs.take 2 | _, _ => false) = true ∧ windowLive w0 q.win 1 = true ∧
    (∀ x ∈ xs, x / 8 = (16384 * bankSize + 8) / 8 ∧ w0.resolve q.agent x = x ∧ w0.live x = true ∧ bankOf x ≠ 0 ∧ bankOf x ≠ 9 ∧
      valueOf (wsGet w0 x) (newestId (wsGet w0 x)) = memGet w0.mem x) ∧ mayChoose w0 [] false (newestChoice w0 xs) = true ∧ xs.Nodup) := by decide +kernel
/-- EnginePayloads: a `cpy` of four bytes, one that converts, one of a block; its reads and its writes come to their end. -/
theorem wit_cpy : ∀ c ∈ [cAlc cpyI [0, 0, alcPtr 0 2, alcPtr 64 2, 0x11] 4, cAlc cpyI [0, 0, alcPtr 0 6, alcPtr 64 8, 0x11] 2,
      cAlc cpyI [0, 0, alcPtr 0 16, alcPtr 128 16, 0x11] 4], c.instr = some cpyI ∧ cpyStop c = none ∧ c.count ≠ 0 ∧
    (let X := c.reg 4
     let rd := readRun w0 c.port (bits X 0 3) (c.reg 2) [] c.front (elemOffsets (ptrFmt (c.reg 2)) (bits X 0 3) (ptrLen (c.reg 2)) 0 c.count)
     rd.stop = none ∧ (∀ i < c.count, placeRead rd.bytes (elemPlace (ptrFmt (c.reg 2)) (bits X 0 3) (ptrLen (c.reg 2)) i) = true) ∧
     (writeRun rd.st c.port (bits X 4 3) (c.reg 3) rd.front (cpyCells { c with buf := rd.bytes })).stop = none) := by decide +kernel
/-- EnginePayloads: a `qnt` to typed blocks, the run of R314, and one to E4M3 blocks. -/
theorem wit_qnt : ∀ e ∈ [(14, 0x110FDFFF), (15, 0x1100DFFF)],
    let c := cAlc (.qnt 1 2 false false false) [0, 0, alcPtr 0 8, alcPtr 128 e.1, wd e.2] 8
    c.instr = some (.qnt 1 2 false false false) ∧ qntStop c = none ∧ c.nread = 0 ∧ c.buf = [] ∧ c.ended = none ∧
    (let rd := readRun w0 c.port 1 (c.reg 2) [] c.front (elemOffsets 8 1 0 0 8)
     rd.stop = none ∧ (writeRun rd.st c.port 1 (c.reg 3) rd.front (qntCells c (qntValues { c with buf := rd.bytes }))).stop = none) := by decide +kernel
/-- EnginePayloads: blocks with a NaN, with an infinity, of zeros and of finite values; some type enabled. -/
theorem wit_blocks : [FVal.nan false, .inf true].any (·.isNan) = true ∧ [FVal.inf true].any (·.isNan) = false ∧
    [FVal.inf true].any (fun x => match x with | .inf _ => true | _ => false) = true ∧ [FVal.fin false 0 0].filterMap expOf = [] ∧
    [FVal.fin false 3 0, .fin true 1 4].filterMap expOf = [1, 4] ∧ (∃ t < 4, Nat.testBit 8 t = true) := by
  refine ⟨rfl, rfl, rfl, by decide +kernel, by decide +kernel, 3, by decide, by decide⟩
/-- The two blocks that R314 prints: clip exponent 1, and for each its scale byte and codes. -/
def x314 : List FVal := [0x3F000000, 0xBF800000, 0x3FC00000, 0x40400000, 0x3E800000, 0x3E800000, 0xBF000000, 0x41A00000].map f32.decode
theorem test_quantBlock : clipExp 0xDFFF x314 = some 1 ∧ quantBlock 14 15 (some 1) (x314.take 4) = (0x1F, [1, 14, 3, 6]) ∧
    quantBlock 14 15 (some 1) (x314.drop 4) = (0x1F, [0, 0, 15, 7]) := by decide +kernel
/-- EnginePayloads: a `gath` and a `scat` of one element, with an index of 4 bytes. -/
theorem wit_gath : ∀ c ∈ [cAlc (.gath 1 2 false false) [0, 0, alcPtr 0 3, alcPtr 64 4, alcPtr 128 3, 0x111] 1,
      cAlc (.scat 1 2 false false) [0, 0, alcPtr 0 3, alcPtr 64 4, alcPtr 128 3, 0x111] 2], gathStop c = none ∧ c.nwrit < c.count ∧
    (let X := c.reg 5
     let ix := readRun w0 c.port (bits X 4 3) (c.reg 3) [] c.front (span 0 4)
     let v := readRun ix.st c.port 1 (c.reg 4) [] ix.front (span 0 2)
     ix.stop = none ∧ v.stop = none ∧ (writeRun v.st c.port 1 (c.reg 2) v.front ((span 0 2).zip (v.bytes.map (fun e => (e.2, 255#8))))).stop = none) := by
  decide +kernel
/-- A command of gang 3 of row 0, whose first two larder slots are loaded with format f. -/
def cMx (i : Instr) (block : List Word) (n : Nat) : Command := { cmdOf i (mxQueue 0 3) block n with started := true }
def wMx (f : Nat) : State := { w0 with slots := [⟨0, 0, 3, false, true, f, 0⟩, ⟨0, 1, 3, false, true, f, 0⟩] }
/-- EnginePayloads: a row loaded; rows of an accumulator stored and loaded; an `mma` of a float class, of bytes and of typed blocks. -/
theorem wit_matrix :
    (let c := cMx (.tld 1 2 false false) [0, 0, alcPtr 0 2, wd (2 ^ 40)] 2
     c.instr = some (.tld 1 2 false false) ∧ tldStop c = none ∧ tileShape (ptrFmt (c.reg 2)) = some (256, 128, 256) ∧
     (readRun (wMx 2) c.port 1 (c.reg 2) [] [] ((elemOffsets 2 1 4 0 256).map (· + 0))).stop = none ∧ (wMx 2).slotOf 0 0 ≠ none) ∧
    (let c := cMx (.acst 1 2 false false) [0, 0, alcPtr 0 2, wd (2 ^ 40)] 1
     accStop c = none ∧ accKey 0 3 0 ∉ (wMx 2).accPoison ∧ (writeCells c.port 1 (c.reg 2) (acstUnits (wMx 2) c) (wMx 2) c.front).stop = none) ∧
    (let c := cMx (.acld 1 2 false false) [0, 0, alcPtr 0 2, wd (2 ^ 40)] 1
     let rd := readRun (wMx 2) c.port 1 (c.reg 2) [] [] (span 0 512)
     accStop c = none ∧ rd.stop = none ∧ rd.bytes.length = 512) ∧
    (∀ e ∈ [(8, (1 : BitVec 4), (256 : Word)), (2, 5, 256), (14, 6, 0x80100)],
      let c := cMx (.mma 1 2 false false e.2.1 false false) [0, 0, e.2.2] 1
      mmaStop (wMx e.1) c e.2.1.toNat = none ∧ (wMx e.1).slotOf (rowOfQueue c.queue) (mA (c.reg 2)) ≠ none ∧
      (wMx e.1).slotOf (rowOfQueue c.queue) (mB (c.reg 2)) ≠ none ∧ mIpath (c.reg 2) = (e.1 == 14)) := by decide +kernel
/-- EnginePayloads: an element pair of typed blocks whose scale exponents sum within 0 to 31, and one that does not. -/
theorem wit_intTerms : (0 : Int) ≤ (5 : Int) + 5 - 0 ∧ (5 : Int) + 5 - 0 ≤ 31 ∧ ¬ ((20 : Int) + 20 - 0 ≤ 31) ∧
    ((mxQueue 0 3) : Nat) ≥ 8192 ∧ intTerm 5 1 5 1 0 = some (8 * 8 * 2 ^ 10) ∧ intTerm 20 1 20 1 0 = none := by decide +kernel
/-- The first bytes of the digest that FIPS 180-4's example of the message abc prints. -/
theorem test_sha384 : (sha384 [0x61, 0x62, 0x63]).take 4 = [0xCB, 0x00, 0x75, 0x3F] := by decide +kernel
theorem test_tick : (nextOf (exec .deviceClockTick { w0 with threads := [], parts := [] })).map (·.time) = some 1 := by decide +kernel

end Sys2Proof.Tests
end

/-! ## Module reset

Every container of the state after module reset is an empty list, so that each accessor answers its default: no entry in a line's
directory, no poisoned unit, the initial value of a core, a zero byte. -/
namespace Sys2Proof.Machine

@[simp] theorem State.reset_core (c : Nat) : State.reset.core c = Core.init := rfl

@[simp] theorem State.reset_dirEntry (line : Nat) : State.reset.dirEntry line = ⟨0, 0, 0, false, false⟩ := rfl

@[simp] theorem State.reset_memGet (x : Nat) : memGet State.reset.mem x = 0 := rfl

/-- Poison is a line's in HBM (R114) and an 8-byte word's in local storage (R116); reset leaves neither. -/
@[simp] theorem State.reset_poisoned (x : Nat) : State.reset.poisoned x = false := by
  unfold State.poisoned
  split
  case isTrue => rw [State.reset_dirEntry]
  case isFalse => exact List.contains_nil

/-- The directory entry of a line that nothing holds is the zero word (R154). -/
theorem DirEntry.word_empty : (⟨0, 0, 0, false, false⟩ : DirEntry).word = 0 := by decide

/-- Settles O1: every accessor reads an empty container of `State.reset`, and a core is `Core.init`. -/
theorem resetLeaves : Obligations.ResetLeaves := by
  have hdir : ∀ line, (State.reset.dirEntry line).word = 0 := fun line => by
    rw [State.reset_dirEntry, DirEntry.word_empty]
  have htrap : ∀ c, (State.reset.core c).tvec = 0 ∧ (State.reset.core c).tfbase = 0 := fun c => by
    rw [State.reset_core]
    exact ⟨rfl, rfl⟩
  exact ⟨State.reset_thread, State.reset_memGet, hdir, State.reset_poisoned, rfl,
    fun c => congrArg Core.merge (State.reset_core c), htrap, fun c => congrArg Core.perf (State.reset_core c),
    rfl, memory_wf_reset⟩

end Sys2Proof.Machine
